-- ==== Sys2Proof/Word.lean ====
section
/-!
DEFINITION. The word types of the ZV-GX12 and their plainest arithmetic (00_scope.md R3 to R7).
-/
namespace Sys2Proof

/-- A 64-bit word: an integer register, a command operand, a special register. -/
abbrev Word := BitVec 64
/-- A 1,024-bit vector or landing register (03 R55). -/
abbrev VWord := BitVec 1024
/-- A 32-bit lane (07 R148). -/
abbrev Lane := BitVec 32
/-- A byte of memory. -/
abbrev Byte := BitVec 8
/-- The guard field of a slot word, bits 24:21 (04 R77). -/
abbrev Guard := BitVec 4
/-- A 7-bit register operand field: relative flag in bit 6, number in bits 5:0 (03 R58). -/
abbrev RegF := BitVec 7

/-- The five issue slots of a column, in program order C, I, F, M, D (02 R31). -/
inductive Slot where
  | c | i | f | m | d
  deriving DecidableEq, Repr

/-- The slot's number in TRAP_CAUSE.SLOT (08 Table 08.3). -/
def Slot.num : Slot → Nat
  | .c => 0 | .i => 1 | .f => 2 | .m => 3 | .d => 4

/-- The four queued engines of 01 Table 01.4. -/
inductive Queue where
  | chain | copy | bank | fabric
  deriving DecidableEq, Repr

end Sys2Proof
end

