-- ==== Sys2Proof/Machine/Store.lean ====
section
/-!
DEFINITION. Sparse data by key in one canonical form: a list of key and value, keys strictly rising, no entry equal to
the value an unlisted key has. Memory and every table indexed by a number is kept so, and equal contents are equal data.
-/
namespace Sys2Proof.Machine

/-- A sparse table. What an unlisted key has is an argument of every operation. -/
abbrev FMap (α : Type) := List (Nat × α)

/-- The value at a key. -/
def fget {α : Type} (dflt : α) : FMap α → Nat → α
  | [], _ => dflt
  | (k, v) :: r, n => if n = k then v else fget dflt r n

/-- Insert or replace at a key, keeping the keys rising. -/
def fins {α : Type} : FMap α → Nat → α → FMap α
  | [], n, x => [(n, x)]
  | (k, v) :: r, n, x =>
    if n < k then (n, x) :: (k, v) :: r
    else if n = k then (n, x) :: r
    else (k, v) :: fins r n x

/-- Remove a key. -/
def fdel {α : Type} (m : FMap α) (n : Nat) : FMap α := m.filter (fun e => e.1 ≠ n)

/-- Write a value at a key; writing what an unlisted key has removes the entry. -/
def fset {α : Type} [DecidableEq α] (dflt : α) (m : FMap α) (n : Nat) (x : α) : FMap α :=
  if x = dflt then fdel m n else fins m n x

/-- Write a list of values at the keys from one upward, all at once. -/
def fsplice {α : Type} [DecidableEq α] (dflt : α) (m : FMap α) (n : Nat) (l : List α) : FMap α :=
  m.filter (fun e => decide (e.1 < n)) ++
    ((l.zipIdx n).map (fun e => (e.2, e.1))).filter (fun e => decide (e.2 ≠ dflt)) ++
    m.filter (fun e => decide (n + l.length ≤ e.1))

/-- The key lies above the bound, if there is one. -/
def loOk : Option Nat → Nat → Bool
  | none, _ => true
  | some l, k => decide (l < k)

/-- Keys strictly rising above a bound, and no default entry. -/
def fwfFrom {α : Type} [DecidableEq α] (dflt : α) : Option Nat → FMap α → Bool
  | _, [] => true
  | lo, (k, v) :: r =>
    loOk lo k && decide (v ≠ dflt) && fwfFrom dflt (some k) r

/-- The canonical form. -/
def fwf {α : Type} [DecidableEq α] (dflt : α) (m : FMap α) : Bool := fwfFrom dflt none m

/-- The values of a table in key order. -/
def fvals {α : Type} (m : FMap α) : List α := m.map (·.2)

/-- Element n of a vector; out of range gives the default (no caller is out of range). -/
def vget {α : Type} {n : Nat} (dflt : α) (v : Vector α n) (k : Nat) : α := v[k]?.getD dflt

/-- A vector with element k replaced. -/
def vset {α : Type} {n : Nat} (v : Vector α n) (k : Nat) (x : α) : Vector α n := v.setIfInBounds k x

/-- Element n of a list, or the default. -/
def lget {α : Type} (dflt : α) (l : List α) (k : Nat) : α := l[k]?.getD dflt

end Sys2Proof.Machine
end

