-- ==== Sys2Proof/Machine/Num.lean ====
section
/-!
DEFINITION. Number formats and arithmetic (05 R91 to R104): exact values, one rounding function, conversions, MX blocks,
exp2 and the default function tables. Every operation computes exactly and rounds once.
-/
namespace Sys2Proof.Machine

/-- A binary floating-point format of 05 Table 05.1: field widths, bias, largest finite code, infinity, NaN, width. -/
structure FFmt where
  mb      : Nat
  bias    : Nat
  maxCode : Nat
  inf     : Option Nat
  nan     : Nat
  width   : Nat
  deriving DecidableEq, Repr

def fp32 : FFmt := ⟨23, 127, 0x7F7FFFFF, some 0x7F800000, 0x7FC00000, 32⟩
def bf16 : FFmt := ⟨7, 127, 0x7F7F, some 0x7F80, 0x7FC0, 16⟩
def fp16 : FFmt := ⟨10, 15, 0x7BFF, some 0x7C00, 0x7E00, 16⟩
def fp8e4 : FFmt := ⟨3, 7, 0x7E, none, 0x7F, 8⟩
def fp8e5 : FFmt := ⟨2, 15, 0x7B, some 0x7C, 0x7E, 8⟩
def e2m1 : FFmt := ⟨1, 1, 0x7, none, 0, 4⟩
def fp64 : FFmt := ⟨52, 1023, 0x7FEFFFFFFFFFFFFF, some 0x7FF0000000000000, 0x7FF8000000000000, 64⟩

/-- An exact value: NaN, an infinity, or (−1)^neg · m · 2^e; a zero keeps its sign. -/
inductive Fp where
  | nan
  | inf (neg : Bool)
  | fin (neg : Bool) (m : Nat) (e : Int)
  deriving DecidableEq, Repr

/-- The exact value of a bit pattern of a format (05 R91). -/
def FFmt.decode (f : FFmt) (w : Nat) : Fp :=
  let neg := decide (w / 2 ^ (f.width - 1) % 2 = 1)
  let mag := w % 2 ^ (f.width - 1)
  if f.maxCode < mag then (if f.inf = some mag then .inf neg else .nan)
  else
    let ex := mag / 2 ^ f.mb
    let fr := mag % 2 ^ f.mb
    if ex = 0 then .fin neg fr (1 - f.bias - f.mb)
    else .fin neg (2 ^ f.mb + fr) (ex - f.bias - f.mb)

/-- Rounding directions (05 Table 05.3). -/
inductive Dir where
  | rne | rtz | rup | rdn
  deriving DecidableEq, Repr

/-- The direction of a two-bit code. -/
def Dir.ofCode : Nat → Dir
  | 0 => .rne | 1 => .rtz | 2 => .rup | _ => .rdn

/-- Whether a magnitude q + r/d rounds up to q + 1 in a direction. -/
def roundsUp (dir : Dir) (neg : Bool) (q r d : Nat) : Bool :=
  if r = 0 then false
  else match dir with
    | .rne => decide (d < 2 * r) || (decide (2 * r = d) && decide (q % 2 = 1))
    | .rtz => false
    | .rup => !neg
    | .rdn => neg

/-- num · 2^e / den as a quotient of naturals. -/
def scaleQuot (num den : Nat) (e : Int) : Nat × Nat :=
  if 0 ≤ e then (num * 2 ^ e.toNat, den) else (num, den * 2 ^ (-e).toNat)

/-- floor(log2(num / den)) for positive num and den. -/
def ilog2 (num den : Nat) : Int :=
  let k : Int := (Nat.log2 num : Int) - (Nat.log2 den : Int)
  let (n, d) := scaleQuot num den (-k)
  if n < d then k - 1 else k

/-- The magnitude code of (num / den) · 2^e rounded into a format, before any overflow rule (05 R94). -/
def FFmt.roundMag (f : FFmt) (dir : Dir) (neg : Bool) (num den : Nat) (e : Int) : Nat :=
  if num = 0 then 0
  else
    let emin : Int := 1 - f.bias - f.mb
    let ue : Int := max (ilog2 num den + e - f.mb) emin
    let (n, d) := scaleQuot num den (e - ue)
    let q := n / d
    let r := n % d
    let q' := if roundsUp dir neg q r d then q + 1 else q
    (ue - emin).toNat * 2 ^ f.mb + q'

/-- How a conversion treats finite overflow and infinities (05 Table 05.4). -/
inductive Over where
  | ieee     -- overflow by direction, infinities kept
  | satFin   -- overflow to the largest finite value, infinities kept
  | satAll   -- overflow and infinities to the largest finite value
  deriving DecidableEq, Repr

/-- Sign bit placed above a magnitude code. -/
def FFmt.signed (f : FFmt) (neg : Bool) (code : Nat) : Nat :=
  (if neg then 2 ^ (f.width - 1) else 0) + code

/-- The code of an infinite result. -/
def FFmt.infCode (f : FFmt) (neg : Bool) (ov : Over) : Nat :=
  match ov, f.inf with
  | .satAll, _ => f.signed neg f.maxCode
  | _, some c => f.signed neg c
  | _, none => f.signed neg f.maxCode

/-- The code of a finite overflow. -/
def FFmt.overCode (f : FFmt) (dir : Dir) (neg : Bool) (ov : Over) : Nat :=
  let toInf : Bool := match dir with | .rne => true | .rtz => false | .rup => !neg | .rdn => neg
  match ov with
  | .ieee => if toInf then f.infCode neg .ieee else f.signed neg f.maxCode
  | _ => f.signed neg f.maxCode

/-- Round a quotient (num / den) · 2^e into a format. -/
def FFmt.roundQuot (f : FFmt) (dir : Dir) (ov : Over) (neg : Bool) (num den : Nat) (e : Int) : Nat :=
  let c := f.roundMag dir neg num den e
  if f.maxCode < c then f.overCode dir neg ov else f.signed neg c

/-- Round an exact value into a format (05 R93 to R95). -/
def FFmt.round (f : FFmt) (dir : Dir) (ov : Over) : Fp → Nat
  | .nan => f.nan
  | .inf n => f.infCode n ov
  | .fin n m e => f.roundQuot dir ov n m 1 e

namespace Fp

/-- Negation of an exact value. -/
def neg : Fp → Fp
  | .nan => .nan | .inf n => .inf (!n) | .fin n m e => .fin (!n) m e

/-- The signed integer numerator at exponent e0 ≤ e. -/
def scaled (n : Bool) (m : Nat) (e e0 : Int) : Int :=
  let a : Int := (m : Int) * 2 ^ (e - e0).toNat
  if n then -a else a

/-- Exact sum; invalid ∞ − ∞; an exact zero sum is +0 but for −0 + −0 (05 R93). -/
def add : Fp → Fp → Fp
  | .nan, _ => .nan
  | _, .nan => .nan
  | .inf a, .inf b => if a = b then .inf a else .nan
  | .inf a, .fin _ _ _ => .inf a
  | .fin _ _ _, .inf b => .inf b
  | .fin n1 m1 e1, .fin n2 m2 e2 =>
    if m1 = 0 ∧ m2 = 0 then .fin (n1 && n2) 0 0
    else
      let e0 := min e1 e2
      let t := scaled n1 m1 e1 e0 + scaled n2 m2 e2 e0
      .fin (decide (t < 0)) t.natAbs e0

/-- Exact product; 0 · ∞ is invalid. -/
def mul : Fp → Fp → Fp
  | .nan, _ => .nan
  | _, .nan => .nan
  | .inf a, .inf b => .inf (a != b)
  | .inf a, .fin b m _ => if m = 0 then .nan else .inf (a != b)
  | .fin a m _, .inf b => if m = 0 then .nan else .inf (a != b)
  | .fin a m1 e1, .fin b m2 e2 => .fin (a != b) (m1 * m2) (e1 + e2)

/-- Order of two values; none when unordered. −0 and +0 are equal. -/
def cmp : Fp → Fp → Option Ordering
  | .nan, _ => none
  | _, .nan => none
  | .inf a, .inf b => some (if a = b then .eq else if a then .lt else .gt)
  | .inf a, .fin _ _ _ => some (if a then .lt else .gt)
  | .fin _ _ _, .inf b => some (if b then .gt else .lt)
  | .fin n1 m1 e1, .fin n2 m2 e2 =>
    let e0 := min e1 e2
    some (compare (scaled n1 m1 e1 e0) (scaled n2 m2 e2 e0))

/-- NaN test. -/
def isNan : Fp → Bool
  | .nan => true | _ => false

/-- An integer as an exact value. -/
def ofInt (i : Int) : Fp := .fin (decide (i < 0)) i.natAbs 0

/-- An exact value times a power of two. -/
def scale2 (k : Int) : Fp → Fp
  | .fin n m e => .fin n m (e + k)
  | x => x

end Fp

/-- The magnitude m · 2^e rounded to an integer in a direction. -/
def roundIntMag (dir : Dir) (neg : Bool) (m : Nat) (e : Int) : Nat :=
  let (n, d) := scaleQuot m 1 e
  let q := n / d
  if roundsUp dir neg q (n % d) d then q + 1 else q

/-- An integer target (05 R95): round, then limit; NaN gives 0. The result is (value, met a NaN). -/
def toIntSat (dir : Dir) (lo hi : Int) : Fp → Int × Bool
  | .nan => (0, true)
  | .inf n => (if n then lo else hi, false)
  | .fin n m e =>
    let q : Int := roundIntMag dir n m e
    (min (max (if n then -q else q) lo) hi, false)

/-- fp32 value of a lane. -/
def f32 (w : Lane) : Fp := fp32.decode w.toNat
/-- RoundNE(x, fp32) of 00 R8. -/
def rne32 (x : Fp) : Lane := BitVec.ofNat 32 (fp32.round .rne .ieee x)
/-- fp32 sum, difference, product, each rounded once. -/
def fadd (x y : Lane) : Lane := rne32 (Fp.add (f32 x) (f32 y))
def fsub (x y : Lane) : Lane := rne32 (Fp.add (f32 x) (Fp.neg (f32 y)))
def fmul (x y : Lane) : Lane := rne32 (Fp.mul (f32 x) (f32 y))
/-- x · y + z rounded once. -/
def ffma (x y z : Lane) : Lane := rne32 (Fp.add (Fp.mul (f32 x) (f32 y)) (f32 z))

/-- The canonical NaN of fp32. -/
def nan32 : Lane := 0x7FC00000
/-- −∞ and +∞ of fp32. -/
def ninf32 : Lane := 0xFF800000
def pinf32 : Lane := 0x7F800000

/-- fp32 quotient rounded once (13 R250). -/
def fdiv (x y : Lane) : Lane :=
  match f32 x, f32 y with
  | .nan, _ => nan32
  | _, .nan => nan32
  | .inf _, .inf _ => nan32
  | .inf a, .fin b _ _ => BitVec.ofNat 32 (fp32.infCode (a != b) .ieee)
  | .fin a _ _, .inf b => BitVec.ofNat 32 (fp32.signed (a != b) 0)
  | .fin a m1 e1, .fin b m2 e2 =>
    if m2 = 0 then (if m1 = 0 then nan32 else BitVec.ofNat 32 (fp32.infCode (a != b) .ieee))
    else BitVec.ofNat 32 (fp32.roundQuot .rne .ieee (a != b) m1 m2 (e1 - e2))

/-- Floor of the square root, bit by bit from bit k down. -/
def isqrtFrom : Nat → Nat → Nat → Nat
  | 0, acc, n => if (acc + 1) * (acc + 1) ≤ n then acc + 1 else acc
  | k + 1, acc, n =>
    let t := acc + 2 ^ (k + 1)
    isqrtFrom k (if t * t ≤ n then t else acc) n
/-- Floor of the square root. -/
def isqrt (n : Nat) : Nat := isqrtFrom (Nat.log2 n / 2 + 1) 0 n

/-- FRCP: RoundNE(1/x, fp32), special values by 14 R269. -/
def frcp (x : Lane) : Lane := fdiv 0x3F800000 x

/-- FRSQ: RoundNE(1/√x, fp32), special values by 14 R269. 1/√(m·2^e) is taken with 80 bits and a sticky bit. -/
def frsq (x : Lane) : Lane :=
  match f32 x with
  | .nan => nan32
  | .inf n => if n then nan32 else 0
  | .fin n m e =>
    if m = 0 then BitVec.ofNat 32 (fp32.infCode n .ieee)
    else if n then nan32
    else
      let (m', e') := if e % 2 = 0 then (m, e) else (2 * m, e - 1)
      let t := 2 ^ 240 / m'
      let q := isqrt t
      let exact := decide (q * q * m' = 2 ^ 240)
      BitVec.ofNat 32 (fp32.roundQuot .rne .ieee false (2 * q + (if exact then 0 else 1)) 1 (-121 - e' / 2))

/-- FMIN and FMAX (07 R151): canonical NaN on a NaN, −0 below +0, else one input bit for bit. -/
def fless (x y : Lane) : Bool :=
  match Fp.cmp (f32 x) (f32 y) with
  | some .lt => true
  | some .eq => x.msb && !y.msb
  | _ => false
def fmin (x y : Lane) : Lane :=
  if (f32 x).isNan || (f32 y).isNan then nan32 else if fless y x then y else x
def fmax (x y : Lane) : Lane :=
  if (f32 x).isNan || (f32 y).isNan then nan32 else if fless x y then y else x

/-- fp64 versions, for VRED (07 R169). -/
def fadd64 (x y : Word) : Word :=
  BitVec.ofNat 64 (fp64.round .rne .ieee (Fp.add (fp64.decode x.toNat) (fp64.decode y.toNat)))
def fless64 (x y : Word) : Bool :=
  match Fp.cmp (fp64.decode x.toNat) (fp64.decode y.toNat) with
  | some .lt => true
  | some .eq => x.msb && !y.msb
  | _ => false
def nan64 : Word := 0x7FF8000000000000
def fmin64 (x y : Word) : Word :=
  if (fp64.decode x.toNat).isNan || (fp64.decode y.toNat).isNan then nan64 else if fless64 y x then y else x
def fmax64 (x y : Word) : Word :=
  if (fp64.decode x.toNat).isNan || (fp64.decode y.toNat).isNan then nan64 else if fless64 x y then y else x

/-- RoundNE(max, bf16) of the softmax weight, kept as the fp32 pattern of the bf16 value (12 R231). -/
def roundBf16 (x : Lane) : Lane := BitVec.ofNat 32 (bf16.round .rne .ieee (f32 x) * 65536)

/-! Element formats by code (05 Table 05.1). -/

/-- Bits of an element of a format code; MX codes give their element width. -/
def elemBits : Nat → Nat
  | 0x0 => 32 | 0x1 => 16 | 0x2 => 16 | 0x3 => 8 | 0x4 => 8 | 0x5 => 8 | 0x6 => 4
  | 0x7 => 32 | 0x8 => 8 | 0x9 => 4 | 0xA => 2 | 0xB => 64 | _ => 64
/-- mxfp8 or mxfp4. -/
def isMx (code : Nat) : Bool := decide (code = 5) || decide (code = 6)
/-- Blocks in a 4 KB tile, element bytes of a block, scale offset (05 Table 05.2). -/
def mxBlocks (code : Nat) : Nat := if code = 5 then 124 else 240
def mxElemBytes (code : Nat) : Nat := if code = 5 then 32 else 16
def mxScaleOff (code : Nat) : Nat := if code = 5 then 3968 else 3840
/-- The element format of an MX code. -/
def mxFmt (code : Nat) : FFmt := if code = 5 then fp8e4 else e2m1

/-- A signed value of n bits. -/
def sval (n w : Nat) : Int := if 2 ^ (n - 1) ≤ w then (w : Int) - 2 ^ n else w

/-- The exact value of an element, and whether it is the tern code 0b10 (05 R97). MX elements without their scale. -/
def elemValue (code w : Nat) : Fp × Bool :=
  match code with
  | 0x0 => (fp32.decode w, false)
  | 0x1 => (bf16.decode w, false)
  | 0x2 => (fp16.decode w, false)
  | 0x3 => (fp8e4.decode w, false)
  | 0x4 => (fp8e5.decode w, false)
  | 0x5 => (fp8e4.decode w, false)
  | 0x6 => (e2m1.decode w, false)
  | 0x7 => (Fp.ofInt (sval 32 w), false)
  | 0x8 => (Fp.ofInt (sval 8 w), false)
  | 0x9 => (Fp.ofInt (sval 4 w), false)
  | 0xA => (if w = 2 then .fin false 0 0 else Fp.ofInt (sval 2 w), decide (w = 2))
  | _ => (fp64.decode w, false)

/-- Two's complement code of an integer in n bits. -/
def icode (n : Nat) (i : Int) : Nat := (i % 2 ^ n).toNat

/-- The code of a value in a format, with a direction and explicit or implicit rules (05 Table 05.4): (code, met a NaN). -/
def elemCode (code : Nat) (dir : Dir) (explicit : Bool) (x : Fp) : Nat × Bool :=
  let wide : Over := if explicit then .ieee else .satFin
  match code with
  | 0x0 => (fp32.round dir wide x, x.isNan)
  | 0x1 => (bf16.round dir wide x, x.isNan)
  | 0x2 => (fp16.round dir wide x, x.isNan)
  | 0x3 => (fp8e4.round dir .satAll x, x.isNan)
  | 0x4 => (fp8e5.round dir .satAll x, x.isNan)
  | 0x7 => let (i, n) := toIntSat dir (-2147483648) 2147483647 x; (icode 32 i, n)
  | 0x8 => let (i, n) := toIntSat dir (-128) 127 x; (icode 8 i, n)
  | 0x9 => let (i, n) := toIntSat dir (-8) 7 x; (icode 4 i, n)
  | 0xA => let (i, n) := toIntSat dir (-1) 1 x; (icode 2 i, n)
  | _ => (fp64.round dir wide x, x.isNan)

/-- Decode an MX block: scale 0xFF gives NaNs (05 R98). -/
def mxDecode (code scale : Nat) (xs : List Nat) : List Fp :=
  if scale = 0xFF then xs.map (fun _ => Fp.nan)
  else xs.map (fun x => Fp.scale2 ((scale : Int) - 127) ((mxFmt code).decode x))

/-- floor(log2 |v|) of the largest magnitude of a block, none when all are zero; +∞ counts as fp32's largest finite. -/
def mxAmaxLog (vs : List Fp) : Option Int :=
  vs.foldl (fun acc v =>
    let l : Option Int := match v with
      | .fin _ m e => if m = 0 then none else some ((Nat.log2 m : Int) + e)
      | .inf _ => some 127
      | .nan => none
    match acc, l with
    | none, l => l
    | some a, none => some a
    | some a, some b => some (max a b)) none

/-- Encode a block of values: (scale, codes, met a NaN) (05 R98). -/
def mxEncode (code : Nat) (vs : List Fp) : Nat × List Nat × Bool :=
  if vs.any Fp.isNan then (0xFF, vs.map (fun _ => 0), true)
  else
    let emax : Int := if code = 5 then 8 else 2
    let e : Int := match mxAmaxLog vs with | none => 0 | some l => l - emax
    let e := min (max e (-127)) 127
    ((e + 127).toNat, vs.map (fun v => (mxFmt code).round .rne .satAll (Fp.scale2 (-e) v)), false)

/-- REQUANT of one block (05 R99): (scale, codes, met a NaN: of the block, or of an element that Sat limits). -/
def requantBlock (code old : Nat) (delta : Int) (xs : List Nat) : Nat × List Nat × Bool :=
  if old = 0xFF then (old, xs, true)
  else
    let new : Int := min (max ((old : Int) + delta) 0) 254
    (new.toNat, xs.map (fun x => (mxFmt code).round .rne .satAll (Fp.scale2 ((old : Int) - new) ((mxFmt code).decode x))),
      xs.any (fun x => ((mxFmt code).decode x).isNan))

/-! exp2 (05 R104). -/

/-- The largest m below 2^(k+1) with m^256 ≤ n, bit by bit. -/
def root256From : Nat → Nat → Nat → Nat
  | 0, acc, n => if (acc + 1) ^ 256 ≤ n then acc + 1 else acc
  | k + 1, acc, n =>
    let t := acc + 2 ^ (k + 1)
    root256From k (if t ^ 256 ≤ n then t else acc) n
/-- floor(2^(bits + idx/256)). -/
def pow2Frac (bits idx : Nat) : Nat := root256From bits 0 (2 ^ (bits * 256 + idx))

/-- floor(ln 2 · 2^200), to within 200 units, by the series of 1/(k·2^k). -/
def ln2Fix : Nat := (List.range 200).foldl (fun a k => a + 2 ^ 200 / ((k + 1) * 2 ^ (k + 1))) 0

/-- T0, T1, T2 of 05 R104: the RoundNE of 2^(idx/256), ln 2 times it, (ln 2)²/2 times it. -/
def exp2T0 (idx : Nat) : Lane := BitVec.ofNat 32 (fp32.roundQuot .rne .ieee false (pow2Frac 100 idx) 1 (-100))
def exp2T1 (idx : Nat) : Lane :=
  BitVec.ofNat 32 (fp32.roundQuot .rne .ieee false (ln2Fix * pow2Frac 100 idx) 1 (-300))
def exp2T2 (idx : Nat) : Lane :=
  BitVec.ofNat 32 (fp32.roundQuot .rne .ieee false (ln2Fix * ln2Fix * pow2Frac 100 idx) 1 (-501))

/-- The four roundings of a segment at an exact r (05 R104, 14 R262). -/
def segEval (t0 t1 t2 : Lane) (r : Fp) : Lane := fadd t0 (rne32 (Fp.mul r (f32 (fadd t1 (rne32 (Fp.mul r (f32 t2)))))))

/-- Split m·2^e into floor and the rest: (n, rest numerator, exponent of the rest). -/
def floorSplit (neg : Bool) (m : Nat) (e : Int) : Int × Nat × Int :=
  if 0 ≤ e then ((if neg then -1 else 1) * (m : Int) * 2 ^ e.toNat, 0, 0)
  else
    let d := 2 ^ (-e).toNat
    let v : Int := if neg then -(m : Int) else m
    let n := v / d
    (n, (v - n * d).toNat, e)

/-- Exp2T(x) of 05 R104. -/
def exp2T (x : Lane) : Lane :=
  match f32 x with
  | .nan => nan32
  | .inf n => if n then 0 else pinf32
  | .fin neg m e =>
    match Fp.cmp (.fin neg m e) (Fp.ofInt 128), Fp.cmp (.fin neg m e) (Fp.ofInt (-150)) with
    | some .lt, some .lt => 0
    | some .lt, _ =>
      let (n, rest, er) := floorSplit neg m e
      let d := 2 ^ (-er).toNat
      let idx := rest * 256 / d
      let r : Fp := .fin false (rest * 256 - idx * d) (er - 8)
      let y := segEval (exp2T0 idx) (exp2T1 idx) (exp2T2 idx) r
      rne32 (Fp.scale2 n (f32 y))
    | _, _ => pinf32

/-! The default function tables (14 Table 14.3). -/

/-- A rational ± num/den · 2^e as fp32, zero as +0. -/
def rat32 (neg : Bool) (num den : Nat) (e : Int) : Lane :=
  if num = 0 then 0 else BitVec.ofNat 32 (fp32.roundQuot .rne .ieee neg num den e)

/-- The fraction bits of log2 of a fixed-point number in [1, 2) with 200 bits, by repeated squaring. -/
def log2Bits : Nat → Nat → Nat → Nat
  | 0, _, acc => acc
  | k + 1, x, acc =>
    let y := x * x / 2 ^ 200
    if 2 ^ 201 ≤ y then log2Bits k (y / 2) (2 * acc + 1) else log2Bits k y (2 * acc)

/-- e^(1/8) · 2^200 by its series. -/
def expEighth : Nat :=
  ((List.range 60).foldl (fun (a, t) k => (a + t, t / (8 * (k + 1)))) (0, 2 ^ 200)).1
/-- e^(j/8) as a quotient over 2^(200·j). -/
def expNum (j : Nat) : Nat := expEighth ^ j

/-- The k-th coefficient (T0, T1, T2) of segment idx of default table n: f(a), f′(a), f″(a)/2 rounded (14 R263). -/
def defaultCoef (n idx k : Nat) : Lane :=
  let a := 256 + idx
  match n with
  | 0 => match k with | 0 => exp2T0 idx | 1 => exp2T1 idx | _ => exp2T2 idx
  | 1 => match k with
    | 0 => rat32 false 256 a 0
    | 1 => rat32 true (256 * 256) (a * a) 0
    | _ => rat32 false (256 * 256 * 256) (a * a * a) 0
  | 2 =>
    let s := isqrt (256 * 2 ^ 240 / a)
    match k with
    | 0 => rat32 false s 1 (-120)
    | 1 => rat32 true (s * 256) a (-121)
    | _ => rat32 false (3 * s * 256 * 256) (a * a) (-123)
  | 3 => match k with
    | 0 => rat32 false (log2Bits 120 (a * 2 ^ 192) 0) 1 (-120)
    | 1 => rat32 false (256 * 2 ^ 200) (a * ln2Fix) 0
    | _ => rat32 true (256 * 256 * 2 ^ 200) (a * a * ln2Fix) (-1)
  | 4 =>
    let j := if idx < 128 then 128 - idx else idx - 128
    let neg := decide (idx < 128)
    let E := expNum j
    let D := 2 ^ (200 * j)
    match k with
    | 0 => rat32 neg (E - D) (E + D) 0
    | 1 => rat32 false (4 * E * D) ((E + D) * (E + D)) 0
    | _ => rat32 (!neg) ((E - D) * 4 * E * D) ((E + D) * (E + D) * (E + D)) 0
  | _ => 0

/-- LO and WEXP of default table n (14 Table 14.3). -/
def defaultLo (n : Nat) : Lane :=
  match n with | 1 => 0x3F800000 | 2 => 0x3F800000 | 3 => 0x3F800000 | 4 => 0xC1000000 | _ => 0
def defaultWexp (n : Nat) : Int := if n = 4 then 4 else 0

end Sys2Proof.Machine
end

