-- ==== Sys2Proof/Config.lean ====
section
/-!
DEFINITION. What the spec leaves open and what an implementation fixes. Every free value is an opaque constant: no
proof can see what it is, so a claim holds whatever it is (log 3, log 5, log 9).
-/
namespace Sys2Proof.Config

/-- The free choice of what happens next, by the model's counter (02 R28, 16 R281; log 3). -/
opaque pick : Nat → Nat
/-- A free 64-bit value by the model's counter (log 9). -/
opaque freeWord : Nat → BitVec 64
/-- A free byte by the model's counter and an address (log 9). -/
opaque freeByte : Nat → Nat → BitVec 8
/-- The 4 KB page of VF memory at which a task's context frame begins, by VF and task (08 R180; log 15). -/
opaque frameAt : Nat → Nat → Nat
/-- What a block read under another key decrypts to (11 R219; log 5): generation written, generation read, address. -/
opaque garble : Nat → Nat → Nat → BitVec 8
/-- The bytes of a dump, by its contents (26 R429; log 30). -/
opaque dumpBytes : List Nat → List (BitVec 8)
/-- A digest of bytes: the SHA-256 of 25 R418 (log 5). -/
opaque digest : List (BitVec 8) → Nat
/-- Whether a signature over bytes verifies under the vendor key (25 R418; log 5). -/
opaque verify : List (BitVec 8) → Nat → Nat → Bool
/-- The signature of a measurement report (25 R418; log 5). -/
opaque sign : List Nat → Nat
/-- Authenticated encryption under a session key: sealed bytes (25 R420; log 5). -/
opaque sealBytes : Nat → Nat → List (BitVec 8) → List (BitVec 8)
/-- The tag of sealed bytes (25 R420; log 5). -/
opaque sealTag : Nat → Nat → List (BitVec 8) → Nat
/-- The plaintext of sealed bytes (25 R420; log 5). -/
opaque openBytes : Nat → Nat → List (BitVec 8) → List (BitVec 8)

end Sys2Proof.Config
end

