-- ==== Sys2Proof/Machine/Message.lean ====
section
/-!
DEFINITION. What comes from outside and what travels on the fabric: remote requests and replies, parcels, code objects,
boot images, tile moves.
-/
namespace Sys2Proof.Machine

/-- The remote operations of 18 Table 18.5 and R316, as a request carries them; `finish` is a completion or abort write, which
leaves a negative signal unchanged at its home (24 R402). -/
inductive RemoteOp where
  | add | cas | swp | get | put | red | signal | endpoint | finish
  deriving DecidableEq, Repr

/-- A remote request on the fabric (18 R311 to R316): header key, requester, target word and operands, and whether a migration's
stub sent it on (24 R412). -/
structure RemoteReq where
  srcPkg : Nat
  srcDie : Nat
  xid    : Nat
  retx   : Bool
  vf     : Nat
  op     : RemoteOp
  addr   : Word
  size   : Nat
  val    : Word
  exp    : Word
  fmt    : Nat
  vec    : List Byte
  sem    : Option Nat
  stub   : Bool
  deriving DecidableEq, Repr

/-- What a reply says (18 Table 18.4, R313, R422). `forwarded` is no reply: a migration source's replay cache keeps it for
a key that its stub has passed on, until the answer comes (24 R412). `credit` is none either: the receive FIFO that an endpoint
word names returns credit for some words to a sender of the die (18 R308). -/
inductive ReplyKind where
  | done (old : Word)
  | stale
  | refused (cause : Nat)
  | moved (coord : Nat)
  | forwarded
  | credit (w : Word) (n : Nat)
  deriving DecidableEq, Repr

/-- A reply that reaches the requester's die (18 R314). -/
structure RemoteReply where
  die  : Nat
  xid  : Nat
  kind : ReplyKind
  deriving DecidableEq, Repr

/-- A parcel that another package offers to a mailbox of this one (19 R327, R328). -/
structure ParcelIn where
  pkg   : Nat
  vf    : Nat
  die   : Nat
  mbox  : Nat
  len   : Nat
  words : List Word
  marks : List Nat
  deriving DecidableEq, Repr

/-- Why a task is stopped urgently (08 R178, 21 R353). -/
inductive StopWhy where
  | park | setAside | debug | evict
  deriving DecidableEq, Repr

/-- The fatal events of 26 R429. -/
inductive FatalWhy where
  | lockstep | critical | training | firmwareRegion
  deriving DecidableEq, Repr

/-- One live list of a code object (08 Table 08.5): per column three words, and the LS ranges. -/
structure LiveList where
  cols   : List (Word × Word × Word)
  ranges : List (Nat × Nat)
  deriving DecidableEq, Repr

/-- An overlay segment of a code object (04 `.segment`, 24 R407): its number, the half it is made for, its text by column. -/
structure SegText where
  num  : Nat
  half : Nat
  text : List (List (List Lane))
  deriving DecidableEq, Repr

/-- A code object as hxld produces it. Its byte layout is not in the spec, so a LAUNCH brings it in this form:
text (per column the six words of each bundle) or overlay segments, trap table, live lists, the first tiles of the chain save areas
that hxld finds (12 Table 12.9), initial data (04 R89, 08 R172, 21 R343). -/
structure CodeObj where
  width     : Nat
  check     : Bool
  interlock : Bool
  overlay   : Bool
  text      : List (List (List Lane))
  segText   : List SegText
  saves     : List Nat
  traps     : List (Nat × Nat)
  trapDef   : Option Nat
  lives     : List (Nat × LiveList)
  lsData    : List (Nat × List Byte)
  dmData    : List (Nat × List Byte)
  tnData    : List (Nat × List Byte)
  ftables   : List (Nat × List Byte)
  hxldOk    : Bool
  deriving DecidableEq, Repr

/-- The signed boot image and what bring-up finds (26 R425, 25 R413): contents and signature for the check of R418,
the partition map, the pod's extents and this package's place, each core's WIDTH, dies that fail training, usable
lanes, the time of the PTP master, the mailbox region of every die's DM (24 R393: first granule, granules), the queue slots reserved
for each partition, and the programs of front-end cores (24 R392: die, core 0 for the pair or 1 to 4 for a worker, text). -/
structure BootImage where
  bytes    : List Byte
  sig      : Nat
  extents  : Nat × Nat × Nat
  coord    : Nat × Nat × Nat
  parts    : List (Nat × List Nat × List (Nat × Nat) × List (Nat × Nat))
  circs    : List (Nat × Nat)
  beads    : List (Nat × Nat)
  tickets  : List (Nat × Nat × Nat)
  splits   : List (Nat × Nat)
  owner    : Nat
  badDies  : List Nat
  lanes    : List (Nat × Nat)
  tai      : Nat
  mailbox  : Nat × Nat
  slots    : List (Nat × Nat)
  front    : List (Nat × Nat × CodeObj)
  deriving DecidableEq, Repr

/-- One tile of a key-value move (25 R420): the receiving side with its sealed contents, or the sending side; `peer` is the other
package, as PX, PY and PZ in 12 bits. -/
structure TileMove where
  sess   : Nat
  peer   : Nat
  vf     : Nat
  send   : Bool
  tid    : Nat
  coords : List Nat
  data   : List Byte
  nonce  : Nat
  tag    : Nat
  deriving DecidableEq, Repr

end Sys2Proof.Machine
end

