-- ==== Sys2Proof/Syntax.lean ====
section
/-!
DEFINITION. The syntax of the ZV-GX12: one constructor per row of the opcode table. The slot words carry the
fields of 04 Tables 04.2 to 04.8, each at its encoded width; what an event brings is an `Event` (Machine/State.lean).
-/
namespace Sys2Proof

/-- The steps of the part: 204 slot words and 104 events, in the order of the opcode table. -/
inductive Instr where
  /-- NOP R81. A present no-operation slot word that writes nothing, forms no record and occupies its slot. -/
  | nop (g : BitVec 4)
  /-- BR R110. Branches to pc plus displacement when the guard predicate is true; never squashed. -/
  | br (g : BitVec 4) (d : BitVec 21)
  /-- BRN R110. Branches to pc plus displacement when the guard predicate is false. -/
  | brn (g : BitVec 4) (d : BitVec 21)
  /-- CALL R111. Writes the return address to ln at distance 1 and transfers to pc plus displacement. -/
  | call (g : BitVec 4) (d : BitVec 21)
  /-- CALLR R113. Calls through an i register after the follower bundle, writing ln. -/
  | callr (g : BitVec 4) (a : BitVec 7)
  /-- JMPR R113. Jumps through an i register after the follower bundle. -/
  | jmpr (g : BitVec 4) (a : BitVec 7)
  /-- RET R112. Transfers to bits 11:0 of ln. -/
  | ret (g : BitVec 4)
  /-- LOOP R114. Decrements a loop counter and branches back while iterations remain. -/
  | loop (g : BitVec 4) (n : BitVec 2) (d : BitVec 19)
  /-- LOOPR R115. Closes a modulo-scheduled loop: decrements the counter, rotates index bases, writes the new p8 and branches back. -/
  | loopr (g : BitVec 4) (n : BitVec 2) (r : BitVec 3) (d : BitVec 16)
  /-- LEXIT R116. When its guard holds, clears a loop counter and branches out of the loop. -/
  | lexit (g : BitVec 4) (n : BitVec 2) (d : BitVec 19)
  /-- PSET R117. Sets a predicate register to 0 or 1 with latency 1. -/
  | pset (g : BitVec 4) (d : BitVec 7) (v : BitVec 7)
  /-- PAND R118. Writes the AND of two predicates. -/
  | pand (g : BitVec 4) (d : BitVec 7) (a : BitVec 7) (b : BitVec 7)
  /-- POR R118. Writes the OR of two predicates. -/
  | por (g : BitVec 4) (d : BitVec 7) (a : BitVec 7) (b : BitVec 7)
  /-- PXOR R118. Writes the XOR of two predicates. -/
  | pxor (g : BitVec 4) (d : BitVec 7) (a : BitVec 7) (b : BitVec 7)
  /-- PNOT R118. Writes the complement of a predicate. -/
  | pnot (g : BitVec 4) (d : BitVec 7) (a : BitVec 7)
  /-- PANDN R118. Writes the AND of one predicate with the complement of another. -/
  | pandn (g : BitVec 4) (d : BitVec 7) (a : BitVec 7) (b : BitVec 7)
  /-- TRAP R120. Writes TRAP_ARG and takes a TRAP_INSTR trap after the bundle's other slots issue. -/
  | trap (g : BitVec 4) (c : BitVec 8)
  /-- ERET R122. Returns from a trap handler to the restart point and replays the trap snapshot. -/
  | eret (g : BitVec 4)
  /-- BKPT R121. Takes a BREAKPOINT trap, or enters debug halt when HALT_ON_BKPT is set. -/
  | bkpt (g : BitVec 4) (c : BitVec 8)
  /-- FENCEC R33. Orders the task accesses of the classes in its mask, holding later bundles until earlier accesses perform. -/
  | fencec (g : BitVec 4) (m : BitVec 16)
  /-- FENCESC R36. Sequentially consistent fence at a scope, taking a place in the single order of fences. -/
  | fencesc (g : BitVec 4) (sc : BitVec 3)
  /-- GETLN R119. Copies ln into an i register with latency 2. -/
  | getln (g : BitVec 4) (d : BitVec 7)
  /-- SETLN R119. Copies an i register into ln with latency 2. -/
  | setln (g : BitVec 4) (a : BitVec 7)
  /-- HALT R123. Privileged: stops a front-end core's stream until a wake event. -/
  | halt (g : BitVec 4)
  /-- EXIT R376. Retires the task after the bundle's other slots issue. -/
  | exit (g : BitVec 4)
  /-- YIELD R377. Makes a scheduling point at which the task ranks below its peers of equal class. -/
  | yield (g : BitVec 4)
  /-- BAR R370. Arrives at a barrier of the given scope as a release and sleeps until all members arrive. -/
  | bar (g : BitVec 4) (sc : BitVec 3)
  /-- WAITV R371. Arms a monitor on a DM word and sleeps until its condition holds. -/
  | waitv (g : BitVec 4) (a : BitVec 7) (b : BitVec 7)
  /-- WAITT R371. Waits on a DM word condition with a TAI time limit. -/
  | waitt (g : BitVec 4) (d : BitVec 7) (a : BitVec 7) (b : BitVec 7)
  /-- LOCK R374. Acquires a registered lock word or sleeps as a clasp waiter. -/
  | lock (g : BitVec 4) (a : BitVec 7)
  /-- UNLOCK R374. Releases a held lock word, granting it to the highest-ranked sleeper. -/
  | unlock (g : BitVec 4) (a : BitVec 7)
  /-- TKWAIT R290. Waits until a ticket counter's now-serving value reaches a ticket. -/
  | tkwait (g : BitVec 4) (a : BitVec 7) (b : BitVec 7)
  /-- SSTEP R293. Ends a superstep at die or package scope once every PUT is acknowledged and every member arrives. -/
  | sstep (g : BitVec 4) (sc : BitVec 3)
  /-- PRIO R378. Sets the task's own class, limited by the launch class. -/
  | prio (g : BitVec 4) (im : BitVec 7)
  /-- GETTIME R379. Writes the package timebase value into an i register. -/
  | gettime (g : BitVec 4) (d : BitVec 7)
  /-- DLINFO R379. Writes the deadline, slack, wrap-up budget or remaining estimate into an i register. -/
  | dlinfo (g : BitVec 4) (d : BitVec 7) (sc : BitVec 2)
  /-- VALID R387. Writes a 2-bit code into the launch's validity-map entry as a release. -/
  | valid (g : BitVec 4) (c : BitVec 2) (a : BitVec 7)
  /-- WOBJ R373. Registers a lock object or a holder of a monitored word in the clasp table. -/
  | wobj (g : BitVec 4) (a : BitVec 7)
  /-- WDROP R373. Unregisters a lock object or this task's holder registration. -/
  | wdrop (g : BitVec 4) (a : BitVec 7)
  /-- ADD R124. Integer addition modulo 2^64. -/
  | add (g : BitVec 4) (d : BitVec 7) (a : BitVec 7) (b : BitVec 7)
  /-- ADDI R126. Adds a sign-extended 7-bit immediate. -/
  | addi (g : BitVec 4) (d : BitVec 7) (a : BitVec 7) (im : BitVec 7)
  /-- SUB R124. Integer subtraction modulo 2^64. -/
  | sub (g : BitVec 4) (d : BitVec 7) (a : BitVec 7) (b : BitVec 7)
  /-- MUL R124. Low 64 bits of a signed product, latency 3. -/
  | mul (g : BitVec 4) (d : BitVec 7) (a : BitVec 7) (b : BitVec 7)
  /-- MULH R124. High 64 bits of a signed product. -/
  | mulh (g : BitVec 4) (d : BitVec 7) (a : BitVec 7) (b : BitVec 7)
  /-- MULHU R124. High 64 bits of an unsigned product. -/
  | mulhu (g : BitVec 4) (d : BitVec 7) (a : BitVec 7) (b : BitVec 7)
  /-- DIV R125. Signed division that never traps, latency 18. -/
  | div (g : BitVec 4) (d : BitVec 7) (a : BitVec 7) (b : BitVec 7)
  /-- DIVU R125. Unsigned division that never traps. -/
  | divu (g : BitVec 4) (d : BitVec 7) (a : BitVec 7) (b : BitVec 7)
  /-- REM R125. Signed remainder with the sign of the dividend. -/
  | rem (g : BitVec 4) (d : BitVec 7) (a : BitVec 7) (b : BitVec 7)
  /-- REMU R125. Unsigned remainder. -/
  | remu (g : BitVec 4) (d : BitVec 7) (a : BitVec 7) (b : BitVec 7)
  /-- AND R124. Bitwise AND of two i registers. -/
  | and (g : BitVec 4) (d : BitVec 7) (a : BitVec 7) (b : BitVec 7)
  /-- ANDI R126. Bitwise AND with a sign-extended immediate. -/
  | andi (g : BitVec 4) (d : BitVec 7) (a : BitVec 7) (im : BitVec 7)
  /-- OR R124. Bitwise OR of two i registers. -/
  | or (g : BitVec 4) (d : BitVec 7) (a : BitVec 7) (b : BitVec 7)
  /-- ORI R126. Bitwise OR with a sign-extended immediate. -/
  | ori (g : BitVec 4) (d : BitVec 7) (a : BitVec 7) (im : BitVec 7)
  /-- XOR R124. Bitwise XOR of two i registers. -/
  | xor (g : BitVec 4) (d : BitVec 7) (a : BitVec 7) (b : BitVec 7)
  /-- XORI R126. Bitwise XOR with a sign-extended immediate. -/
  | xori (g : BitVec 4) (d : BitVec 7) (a : BitVec 7) (im : BitVec 7)
  /-- SHL R124. Logical left shift by bits 5:0 of a register. -/
  | shl (g : BitVec 4) (d : BitVec 7) (a : BitVec 7) (b : BitVec 7)
  /-- SHLI R126. Logical left shift by an immediate. -/
  | shli (g : BitVec 4) (d : BitVec 7) (a : BitVec 7) (im : BitVec 7)
  /-- SHR R124. Logical right shift by a register amount. -/
  | shr (g : BitVec 4) (d : BitVec 7) (a : BitVec 7) (b : BitVec 7)
  /-- SHRI R126. Logical right shift by an immediate. -/
  | shri (g : BitVec 4) (d : BitVec 7) (a : BitVec 7) (im : BitVec 7)
  /-- SAR R124. Arithmetic right shift by a register amount. -/
  | sar (g : BitVec 4) (d : BitVec 7) (a : BitVec 7) (b : BitVec 7)
  /-- SARI R126. Arithmetic right shift by an immediate. -/
  | sari (g : BitVec 4) (d : BitVec 7) (a : BitVec 7) (im : BitVec 7)
  /-- MIN R124. Signed minimum. -/
  | min (g : BitVec 4) (d : BitVec 7) (a : BitVec 7) (b : BitVec 7)
  /-- MAX R124. Signed maximum. -/
  | max (g : BitVec 4) (d : BitVec 7) (a : BitVec 7) (b : BitVec 7)
  /-- MINU R124. Unsigned minimum. -/
  | minu (g : BitVec 4) (d : BitVec 7) (a : BitVec 7) (b : BitVec 7)
  /-- MAXU R124. Unsigned maximum. -/
  | maxu (g : BitVec 4) (d : BitVec 7) (a : BitVec 7) (b : BitVec 7)
  /-- CLZ R127. Counts leading zero bits. -/
  | clz (g : BitVec 4) (d : BitVec 7) (a : BitVec 7)
  /-- POPC R127. Counts one bits. -/
  | popc (g : BitVec 4) (d : BitVec 7) (a : BitVec 7)
  /-- BFX R128. Extracts a zero-extended bit field. -/
  | bfx (g : BitVec 4) (d : BitVec 7) (a : BitVec 7) (b : BitVec 7)
  /-- BFI R128. Inserts a bit field into the destination. -/
  | bfi (g : BitVec 4) (d : BitVec 7) (a : BitVec 7) (b : BitVec 7)
  /-- SEL R129. Bitwise select using the destination as mask. -/
  | sel (g : BitVec 4) (d : BitVec 7) (a : BitVec 7) (b : BitVec 7)
  /-- CMP R130. Compares two i registers into a predicate with latency 2. -/
  | cmp (g : BitVec 4) (r : BitVec 1) (c : BitVec 2) (p : BitVec 4) (a : BitVec 7) (b : BitVec 7)
  /-- CMPI R130. Compares an i register with an immediate into a predicate. -/
  | cmpi (g : BitVec 4) (r : BitVec 1) (c : BitVec 2) (p : BitVec 4) (a : BitVec 7) (im : BitVec 7)
  /-- LI R131. Loads a sign-extended 14-bit immediate. -/
  | li (g : BitVec 4) (d : BitVec 7) (im : BitVec 14)
  /-- LIH R131. Shifts the register left 14 bits and ORs in an unsigned immediate. -/
  | lih (g : BitVec 4) (d : BitVec 7) (im : BitVec 14)
  /-- MOV R132. Copies an i register; pops or pushes a link FIFO when it names lq. -/
  | mov (g : BitVec 4) (d : BitVec 7) (a : BitVec 7)
  /-- MOVIV R133. Broadcasts the low 32 bits of an i register to every lane of a v register. -/
  | moviv (g : BitVec 4) (d : BitVec 7) (a : BitVec 7)
  /-- MOVIM R134. Writes a chain staging register mp from an i register. -/
  | movim (g : BitVec 4) (d : BitVec 7) (a : BitVec 7)
  /-- MOVIE R134. Writes a copy staging register ce from an i register. -/
  | movie (g : BitVec 4) (d : BitVec 7) (a : BitVec 7)
  /-- SETIB R137. Sets an index base of the executing column, effective 3 bundles later. -/
  | setib (g : BitVec 4) (sc : BitVec 2) (a : BitVec 7) (im : BitVec 7)
  /-- GETSR R138. Reads a special register into an i register. -/
  | getsr (g : BitVec 4) (d : BitVec 7) (im : BitVec 14)
  /-- SETSR R138. Writes an i register into a special register. -/
  | setsr (g : BitVec 4) (d : BitVec 7) (im : BitVec 14)
  /-- AGSET R140. Configures an address generator's tensor id, mode and strides and clears its position. -/
  | agset (g : BitVec 4) (d : BitVec 7) (a : BitVec 7) (b : BitVec 7)
  /-- AGPOS R141. Sets an address generator's four coordinates. -/
  | agpos (g : BitVec 4) (d : BitVec 7) (a : BitVec 7)
  /-- AGINC R142. Steps selected address-generator coordinates by their strides. -/
  | aginc (g : BitVec 4) (d : BitVec 7) (m : BitVec 4) (n : BitVec 7)
  /-- LDS R145. Loads from the task's LS allocation into a landing register at an arrival offset. -/
  | lds (g : BitVec 4) (l : BitVec 4) (a : BitVec 3) (o : BitVec 6) (c : BitVec 4) (n : BitVec 1) (sc : BitVec 2)
  /-- STS R145. Stores low bytes of an i register into the task's LS allocation. -/
  | sts (g : BitVec 4) (r : BitVec 4) (a : BitVec 3) (c : BitVec 4) (n : BitVec 1) (sc : BitVec 2)
  /-- LDT R146. Loads from a tensor in HBM through a memory port's translation. -/
  | ldt (g : BitVec 4) (l : BitVec 4) (a : BitVec 3) (o : BitVec 6) (c : BitVec 4) (n : BitVec 1) (sc : BitVec 2)
  /-- STT R146. Stores into a tensor in HBM through a memory port's translation. -/
  | stt (g : BitVec 4) (r : BitVec 4) (a : BitVec 3) (c : BitVec 4) (n : BitVec 1) (sc : BitVec 2)
  /-- LDD R147. Loads from the VF's DM allocation on the task's die. -/
  | ldd (g : BitVec 4) (l : BitVec 4) (a : BitVec 3) (o : BitVec 6) (c : BitVec 4) (n : BitVec 1) (sc : BitVec 2)
  /-- STD R147. Stores into the VF's DM allocation on the task's die. -/
  | std (g : BitVec 4) (r : BitVec 4) (a : BitVec 3) (c : BitVec 4) (n : BitVec 1) (sc : BitVec 2)
  /-- LDL R135. Moves one lane or lane pair of a landing register into an i register. -/
  | ldl (g : BitVec 4) (d : BitVec 7) (a : BitVec 6) (x : BitVec 1) (p : BitVec 1) (n : BitVec 5)
  /-- TQRY R221. Queries a tensor translation at the translating port without making an access. -/
  | tqry (g : BitVec 4) (d : BitVec 7) (a : BitVec 6)
  /-- XMOV R136. Pulls an i register from another column of the unit. -/
  | xmov (g : BitVec 4) (d : BitVec 7) (a : BitVec 7) (c : BitVec 2)
  /-- PLD R329. Loads bytes of a parcel at an offset into a landing register. -/
  | pld (g : BitVec 4) (l : BitVec 4) (a : BitVec 3) (o : BitVec 6) (c : BitVec 4) (n : BitVec 1) (sc : BitVec 2)
  /-- PST R329. Stores into a parcel and clears the word's reference mark. -/
  | pst (g : BitVec 4) (r : BitVec 4) (a : BitVec 3) (c : BitVec 4) (n : BitVec 1) (sc : BitVec 2)
  /-- PLDREF R329. Loads a parcel word together with its reference mark. -/
  | pldref (g : BitVec 4) (l : BitVec 4) (a : BitVec 3) (o : BitVec 6) (c : BitVec 4) (n : BitVec 1)
  /-- PSTREF R329. Stores a checked in-parcel offset and sets the word's reference mark. -/
  | pstref (g : BitVec 4) (r : BitVec 4) (a : BitVec 3) (c : BitVec 4) (n : BitVec 1)
  /-- FADD R151. Lane-wise fp32 addition. -/
  | fadd (g : BitVec 4) (d : BitVec 7) (a : BitVec 7) (b : BitVec 7)
  /-- FSUB R151. Lane-wise fp32 subtraction. -/
  | fsub (g : BitVec 4) (d : BitVec 7) (a : BitVec 7) (b : BitVec 7)
  /-- FMUL R151. Lane-wise fp32 multiplication. -/
  | fmul (g : BitVec 4) (d : BitVec 7) (a : BitVec 7) (b : BitVec 7)
  /-- FFMA R152. Lane-wise fused multiply-add. -/
  | ffma (g : BitVec 4) (fl : BitVec 1) (d : BitVec 5) (a : BitVec 5) (b : BitVec 5) (c : BitVec 5)
  /-- FFMS R152. Lane-wise fused multiply-subtract. -/
  | ffms (g : BitVec 4) (fl : BitVec 1) (d : BitVec 5) (a : BitVec 5) (b : BitVec 5) (c : BitVec 5)
  /-- FNMA R152. Lane-wise fused negated multiply-add. -/
  | fnma (g : BitVec 4) (fl : BitVec 1) (d : BitVec 5) (a : BitVec 5) (b : BitVec 5) (c : BitVec 5)
  /-- FMIN R151. Lane-wise fp32 minimum. -/
  | fmin (g : BitVec 4) (d : BitVec 7) (a : BitVec 7) (b : BitVec 7)
  /-- FMAX R151. Lane-wise fp32 maximum. -/
  | fmax (g : BitVec 4) (d : BitVec 7) (a : BitVec 7) (b : BitVec 7)
  /-- FABS R153. Clears the sign bit of each lane. -/
  | fabs (g : BitVec 4) (d : BitVec 7) (a : BitVec 7)
  /-- FNEG R153. Inverts the sign bit of each lane. -/
  | fneg (g : BitVec 4) (d : BitVec 7) (a : BitVec 7)
  /-- FCPS R153. Copies the sign of one vector onto another lane by lane. -/
  | fcps (g : BitVec 4) (d : BitVec 7) (a : BitVec 7) (b : BitVec 7)
  /-- FCMP R154. Compares fp32 lanes into a lane mask. -/
  | fcmp (g : BitVec 4) (c : BitVec 3) (k : BitVec 3) (a : BitVec 7) (b : BitVec 7)
  /-- FCVT R157. Converts lanes between fp32 and narrower or wider formats. -/
  | fcvt (g : BitVec 4) (d : BitVec 7) (a : BitVec 7) (sc : BitVec 2) (c : BitVec 3) (p : BitVec 2)
  /-- FRND R155. Rounds lanes to integral fp32 values in a direction. -/
  | frnd (g : BitVec 4) (d : BitVec 7) (a : BitVec 7) (r : BitVec 2)
  /-- FTOI R156. Converts fp32 lanes to int32. -/
  | ftoi (g : BitVec 4) (d : BitVec 7) (a : BitVec 7) (r : BitVec 2)
  /-- ITOF R156. Converts int32 lanes to fp32. -/
  | itof (g : BitVec 4) (d : BitVec 7) (a : BitVec 7)
  /-- VADD R158. Lane-wise int32 addition. -/
  | vadd (g : BitVec 4) (d : BitVec 7) (a : BitVec 7) (b : BitVec 7)
  /-- VSUB R158. Lane-wise int32 subtraction. -/
  | vsub (g : BitVec 4) (d : BitVec 7) (a : BitVec 7) (b : BitVec 7)
  /-- VMUL R158. Lane-wise low 32 bits of a signed product. -/
  | vmul (g : BitVec 4) (d : BitVec 7) (a : BitVec 7) (b : BitVec 7)
  /-- VMULH R158. Lane-wise high 32 bits of a signed product. -/
  | vmulh (g : BitVec 4) (d : BitVec 7) (a : BitVec 7) (b : BitVec 7)
  /-- VAND R158. Lane-wise AND. -/
  | vand (g : BitVec 4) (d : BitVec 7) (a : BitVec 7) (b : BitVec 7)
  /-- VOR R158. Lane-wise OR. -/
  | vor (g : BitVec 4) (d : BitVec 7) (a : BitVec 7) (b : BitVec 7)
  /-- VXOR R158. Lane-wise XOR. -/
  | vxor (g : BitVec 4) (d : BitVec 7) (a : BitVec 7) (b : BitVec 7)
  /-- VSHL R158. Lane-wise left shift. -/
  | vshl (g : BitVec 4) (d : BitVec 7) (a : BitVec 7) (b : BitVec 7)
  /-- VSHR R158. Lane-wise logical right shift. -/
  | vshr (g : BitVec 4) (d : BitVec 7) (a : BitVec 7) (b : BitVec 7)
  /-- VSAR R158. Lane-wise arithmetic right shift. -/
  | vsar (g : BitVec 4) (d : BitVec 7) (a : BitVec 7) (b : BitVec 7)
  /-- VMIN R158. Lane-wise signed minimum. -/
  | vmin (g : BitVec 4) (d : BitVec 7) (a : BitVec 7) (b : BitVec 7)
  /-- VMAX R158. Lane-wise signed maximum. -/
  | vmax (g : BitVec 4) (d : BitVec 7) (a : BitVec 7) (b : BitVec 7)
  /-- VCMP R159. Compares int32 lanes into a lane mask. -/
  | vcmp (g : BitVec 4) (c : BitVec 3) (k : BitVec 3) (a : BitVec 7) (b : BitVec 7)
  /-- VSEL R161. Selects each lane from one of two vectors by a lane mask. -/
  | vsel (g : BitVec 4) (fl : BitVec 1) (d : BitVec 5) (a : BitVec 5) (b : BitVec 5) (k : BitVec 3)
  /-- VPERM R162. Permutes lanes by an index vector. -/
  | vperm (g : BitVec 4) (d : BitVec 7) (a : BitVec 7) (b : BitVec 7)
  /-- VBCAST R163. Broadcasts one lane or lane pair to every lane. -/
  | vbcast (g : BitVec 4) (d : BitVec 7) (a : BitVec 7) (p : BitVec 1) (n : BitVec 5)
  /-- VRED R169. Reduces masked lanes by a pairwise tree and broadcasts the result. -/
  | vred (g : BitVec 4) (d : BitVec 7) (a : BitVec 7) (fl : BitVec 1) (o : BitVec 2) (k : BitVec 3)
  /-- VIOTA R164. Writes each lane's index or one-hot value. -/
  | viota (g : BitVec 4) (d : BitVec 7) (t : BitVec 1)
  /-- VMOV R165. Copies a v register or a landing register into a v register. -/
  | vmov (g : BitVec 4) (d : BitVec 7) (a : BitVec 7) (sc : BitVec 1)
  /-- VTOI R166. Moves one lane or lane pair of a v register into an i register. -/
  | vtoi (g : BitVec 4) (d : BitVec 7) (a : BitVec 7) (x : BitVec 1) (p : BitVec 1) (n : BitVec 5)
  /-- KOP R168. Performs logic on lane masks. -/
  | kop (g : BitVec 4) (d : BitVec 7) (a : BitVec 7) (o : BitVec 3) (b : BitVec 3)
  /-- REQUANT R170. Moves MX blocks held in vector registers to a new scale. -/
  | requant (g : BitVec 4) (d : BitVec 7) (a : BitVec 7) (fl : BitVec 1) (x : BitVec 6)
  /-- VDOT4 R160. Accumulates four-way int8 dot products into int32 lanes. -/
  | vdot4 (g : BitVec 4) (d : BitVec 7) (a : BitVec 7) (b : BitVec 7)
  /-- VXMOV R167. Pulls a v register from another column of the unit. -/
  | vxmov (g : BitVec 4) (d : BitVec 7) (a : BitVec 7) (c : BitVec 2)
  /-- FN R268. Runs a function microprogram on each lane. -/
  | fn (g : BitVec 4) (d : BitVec 7) (a : BitVec 7) (n : BitVec 4)
  /-- FNP R268. Runs a function microprogram with a per-lane parameter from the destination. -/
  | fnp (g : BitVec 4) (d : BitVec 7) (a : BitVec 7) (n : BitVec 4)
  /-- FRCP R269. Fixed-hardware fp32 reciprocal of each lane. -/
  | frcp (g : BitVec 4) (d : BitVec 7) (a : BitVec 7)
  /-- FRSQ R269. Fixed-hardware fp32 reciprocal square root of each lane. -/
  | frsq (g : BitVec 4) (d : BitVec 7) (a : BitVec 7)
  /-- MCFG R243. Replaces a strip's chain configuration, resets its running state and takes its save area. -/
  | mcfg (g : BitVec 4) (a : BitVec 7)
  /-- TCFG R244. Configures a tile register's shape and type, zeroing it on a change. -/
  | tcfg (g : BitVec 4) (a : BitVec 7) (t : BitVec 3)
  /-- TZERO R244. Zeroes every byte of a tile register. -/
  | tzero (g : BitVec 4) (t : BitVec 3)
  /-- TRESHAPE R244. Changes a tile register's shape keeping its bytes. -/
  | treshape (g : BitVec 4) (a : BitVec 7) (t : BitVec 3)
  /-- TLDQ R245. Loads the strip's stationary query tile from LS. -/
  | tldq (g : BitVec 4) (a : BitVec 7) (b : BitVec 7)
  /-- TLD R246. Loads a tile register from LS with conversion. -/
  | tld (g : BitVec 4) (a : BitVec 7) (t : BitVec 3)
  /-- TST R246. Stores a tile register to LS with conversion. -/
  | tst (g : BitVec 4) (a : BitVec 7) (k : BitVec 1) (t : BitVec 3)
  /-- TST_O R246. Stores rows of the strip's output accumulator O to LS. -/
  | tstO (g : BitVec 4) (a : BitVec 7) (b : BitVec 7) (k : BitVec 1)
  /-- QBIND R247. Binds an operand queue to a link FIFO register. -/
  | qbind (g : BitVec 4) (a : BitVec 7) (q : BitVec 1)
  /-- QDROP R248. Flushes or unbinds an operand queue. -/
  | qdrop (g : BitVec 4) (q : BitVec 1) (u : BitVec 1) (fl : BitVec 1)
  /-- CHAIN R249. Runs a count of tile pairs through the fused attention chain. -/
  | chain (g : BitVec 4) (a : BitVec 7) (im : BitVec 1)
  /-- CHAINM R249. Runs tile pairs through the chain with row masks from a mask64 tile register. -/
  | chainm (g : BitVec 4) (a : BitVec 7) (m : BitVec 3) (im : BitVec 1)
  /-- CHFIN R250. Divides each row of O by its row sum, marking empty rows. -/
  | chfin (g : BitVec 4) (k : BitVec 1)
  /-- STSAVE R252. Writes the strip's partial softmax state and ticket to LS. -/
  | stsave (g : BitVec 4) (a : BitVec 7) (b : BitVec 7) (k : BitVec 1)
  /-- STLD R253. Replaces the strip's partial state from an LS record. -/
  | stld (g : BitVec 4) (a : BitVec 7)
  /-- STLD_MERGE R253. Merges an LS partial-state record into the strip with a ticket check in reproducible mode. -/
  | stldMerge (g : BitVec 4) (a : BitVec 7) (b : BitVec 7)
  /-- MCALL R254. Runs a charm on the strip with parameters from mp0-mp7. -/
  | mcall (g : BitVec 4) (a : BitVec 7)
  /-- MREP R255. Repeats a short body of bundles ending in an M word a count of times. -/
  | mrep (g : BitVec 4) (a : BitVec 7)
  /-- MVB R257. Loads a resident batch of vectors for matrix-vector mode. -/
  | mvb (g : BitVec 4) (a : BitVec 7) (b : BitVec 7)
  /-- MV R258. Streams weight groups past the batch into a tile register. -/
  | mv (g : BitVec 4) (a : BitVec 7) (t : BitVec 3)
  /-- MPOLL R259. Reports the strip's status after earlier records of the task have ended. -/
  | mpoll (g : BitVec 4) (a : BitVec 7)
  /-- CHLD R273. Loads microwords from LS into a charm of the charm store. -/
  | chld (g : BitVec 4) (a : BitVec 7) (b : BitVec 7)
  /-- FTLD R271. Binds a function table slot to an LS table tile. -/
  | ftld (g : BitVec 4) (a : BitVec 7) (n : BitVec 4)
  /-- FMLD R272. Copies a function microprogram image into a program slot. -/
  | fmld (g : BitVec 4) (a : BitVec 7) (n : BitVec 4)
  /-- ROWSTAT R274. Reduces 32 rows of a tile register into a v register. -/
  | rowstat (g : BitVec 4) (a : BitVec 7) (o : BitVec 2) (h : BitVec 1) (t : BitVec 3)
  /-- CPY R199. Carries out the single transfer entry held in ce0-ce3. -/
  | cpy (g : BitVec 4) (k : BitVec 1)
  /-- CPYL R199. Carries out a list of transfer entries read from LS. -/
  | cpyl (g : BitVec 4) (a : BitVec 7) (b : BitVec 7) (k : BitVec 1)
  /-- CPYQ R200. Fills one entry of a strip's operand queue qa or qb. -/
  | cpyq (g : BitVec 4) (k : BitVec 1) (q : BitVec 1)
  /-- KVCOMMIT R201. Copies the accepted rows of a speculative tile, packed, by a bitmap. -/
  | kvcommit (g : BitVec 4) (a : BitVec 7) (b : BitVec 7) (k : BitVec 1)
  /-- GIVE R202. Flips a range of LS tiles from the core unit to an agent. -/
  | give (g : BitVec 4) (a : BitVec 7) (b : BitVec 7) (e : BitVec 3) (h : BitVec 2)
  /-- TAKE R202. Flips a range of LS tiles from an agent back to the core unit after its commanded writes. -/
  | take (g : BitVec 4) (a : BitVec 7) (b : BitVec 7) (e : BitVec 3) (h : BitVec 2)
  /-- CBCFG R203. Configures a circular buffer descriptor and gives the ring to the producer. -/
  | cbcfg (g : BitVec 4) (a : BitVec 7) (n : BitVec 3)
  /-- CBPUSH R204. Completes the core unit's side of a buffer, flipping tiles and advancing the pointer. -/
  | cbpush (g : BitVec 4) (n : BitVec 3)
  /-- CBPOP R204. Waits for the core unit's side of a buffer to fire and delivers its ring position. -/
  | cbpop (g : BitVec 4) (a : BitVec 7) (n : BitVec 3)
  /-- CPYST R206. Reports the state of the column's copy channel. -/
  | cpyst (g : BitVec 4) (a : BitVec 7)
  /-- TTINV R222. Privileged: drops cached tile-table entries or descriptors at every port. -/
  | ttinv (g : BitVec 4) (a : BitVec 7) (b : BitVec 7) (m : BitVec 2)
  /-- BADD R283. Adds to a DM word at its bank. -/
  | badd (g : BitVec 4) (a : BitVec 7) (b : BitVec 7) (c : BitVec 4) (z : BitVec 2)
  /-- BFADD R283. Floating-point add to a DM word at its bank. -/
  | bfadd (g : BitVec 4) (a : BitVec 7) (b : BitVec 7) (c : BitVec 4) (fl : BitVec 2)
  /-- BMIN R283. Minimum into a DM word at its bank. -/
  | bmin (g : BitVec 4) (a : BitVec 7) (b : BitVec 7) (c : BitVec 4) (u : BitVec 1) (z : BitVec 2)
  /-- BMAX R283. Maximum into a DM word at its bank. -/
  | bmax (g : BitVec 4) (a : BitVec 7) (b : BitVec 7) (c : BitVec 4) (u : BitVec 1) (z : BitVec 2)
  /-- BAND R283. AND into a DM word at its bank. -/
  | band (g : BitVec 4) (a : BitVec 7) (b : BitVec 7) (c : BitVec 4) (z : BitVec 2)
  /-- BOR R283. OR into a DM word at its bank. -/
  | bor (g : BitVec 4) (a : BitVec 7) (b : BitVec 7) (c : BitVec 4) (z : BitVec 2)
  /-- BXOR R283. XOR into a DM word at its bank. -/
  | bxor (g : BitVec 4) (a : BitVec 7) (b : BitVec 7) (c : BitVec 4) (z : BitVec 2)
  /-- BSWP R283. Swaps a DM word at its bank, landing the old value. -/
  | bswp (g : BitVec 4) (a : BitVec 7) (b : BitVec 7) (c : BitVec 4) (z : BitVec 2)
  /-- BCAS R283. Compare-and-swap of a DM word at its bank, landing the old value. -/
  | bcas (g : BitVec 4) (a : BitVec 7) (b : BitVec 7) (c : BitVec 4) (z : BitVec 2)
  /-- BFAA R283. Fetch-and-add of a DM word at its bank, landing the old value. -/
  | bfaa (g : BitVec 4) (a : BitVec 7) (b : BitVec 7) (c : BitVec 4) (z : BitVec 2)
  /-- TKTAKE R288. Takes the next ticket of a ticket counter, landing it. -/
  | tktake (g : BitVec 4) (a : BitVec 7) (c : BitVec 4)
  /-- TKNEXT R289. Advances or resets a ticket counter's now-serving value as a release and broadcasts it. -/
  | tknext (g : BitVec 4) (a : BitVec 7) (c : BitVec 4) (r : BitVec 1)
  /-- PUT R292. Writes a value into a peer task's LS or DM during a communication step. -/
  | put (g : BitVec 4) (a : BitVec 7) (b : BitVec 7) (c : BitVec 4) (z : BitVec 2)
  /-- LQBIND R317. Binds or unbinds a link FIFO register to a circuit or endpoint. -/
  | lqbind (g : BitVec 4) (a : BitVec 7) (u : BitVec 1) (m : BitVec 1) (d : BitVec 1) (n : BitVec 3)
  /-- RADD R315. Remote add to a word in another package's memory. -/
  | radd (g : BitVec 4) (a : BitVec 7) (b : BitVec 7) (c : BitVec 4) (r : BitVec 1) (w : BitVec 1)
  /-- RCAS R315. Remote compare-and-swap of a word. -/
  | rcas (g : BitVec 4) (a : BitVec 7) (b : BitVec 7) (c : BitVec 4) (w : BitVec 1)
  /-- RSWP R315. Remote swap of a word. -/
  | rswp (g : BitVec 4) (a : BitVec 7) (b : BitVec 7) (c : BitVec 4) (w : BitVec 1)
  /-- RRED R316. Remote reduction of a 128-byte vector into an LS tile with optional semaphore increment. -/
  | rred (g : BitVec 4) (a : BitVec 7) (b : BitVec 7) (c : BitVec 4) (fl : BitVec 2)
  /-- RGET R315. Remote read of a word. -/
  | rget (g : BitVec 4) (a : BitVec 7) (b : BitVec 7) (c : BitVec 4) (z : BitVec 2)
  /-- RPUT R315. Remote write of a word. -/
  | rput (g : BitVec 4) (a : BitVec 7) (b : BitVec 7) (c : BitVec 4) (z : BitVec 2)
  /-- BEADLD R318. Privileged: writes bead shadow-table entries and optionally commits all tables. -/
  | beadld (g : BitVec 4) (a : BitVec 7) (b : BitVec 7) (m : BitVec 1) (n : BitVec 2)
  /-- PNEW R330. Creates a new LOCAL parcel of a given length. -/
  | pnew (g : BitVec 4) (a : BitVec 7) (b : BitVec 7)
  /-- PGROW R330. Lengthens a LOCAL parcel with zero unmarked words. -/
  | pgrow (g : BitVec 4) (a : BitVec 7) (b : BitVec 7)
  /-- PTRIM R330. Shortens a LOCAL parcel, discarding removed words and marks. -/
  | ptrim (g : BitVec 4) (a : BitVec 7) (b : BitVec 7)
  /-- POST R331. Scans, seals and sends a parcel to a mailbox as a release. -/
  | post (g : BitVec 4) (a : BitVec 7) (b : BitVec 7)
  /-- PRECV R332. Takes the oldest arrived parcel from a mailbox, sleeping if it is empty. -/
  | precv (g : BitVec 4) (a : BitVec 7) (b : BitVec 7)
  /-- PFREE R333. Releases a LOCAL parcel or a FREED entry. -/
  | pfree (g : BitVec 4) (a : BitVec 7)
  /-- BUNDLE_PRESENTATION R83. A bundle is presented, checked in order and issued with its header's stall, sync, safe point and segment mark. -/
  | bundlePresentation
  /-- DEFERRED_TRAP R171. A trap raised by a completing landing, engine command or port report is taken at the task's next bundle boundary. -/
  | deferredTrap
  /-- LATENCY_WRITEBACK R62. An exposed fixed-latency write takes effect at its distance from the issuing bundle. -/
  | latencyWriteback
  /-- LANDING_DATA_ARRIVAL R66. Load data reaches the column and is written to its landing register at the arrival bundle, freeing the buffer entry. -/
  | landingDataArrival
  /-- FREEZE_TIMEOUT R67. A freeze reaching 65,536 cycles ends the landing with zeros and a POISON trap. -/
  | freezeTimeout
  /-- COMMAND_RECORD_ENTRY R16. A command record leaves the slip window and enters its engine queue when an entry is free. -/
  | commandRecordEntry
  /-- SLIP_STOP R16. A record not entered by the end of its 16th bundle stops the unit's issue until it enters. -/
  | slipStop
  /-- SECONDARY_FORCED_ISSUE R351. After 4,095 cycles without secondary issue the primary is held one cycle so the secondary issues. -/
  | secondaryForcedIssue
  /-- CB_PRODUCER_COMPLETION R24. A producer side completes: its tiles flip to the consumer and PROD advances. -/
  | cbProducerCompletion
  /-- CB_CONSUMER_COMPLETION R24. A consumer side completes: its tiles flip to the producer and CONS advances. -/
  | cbConsumerCompletion
  /-- TAKE_FLIP R22. The copy engine takes a TAKE record after the agent's writes and flips the tiles to the core unit. -/
  | takeFlip
  /-- CBPOP_GRANT R204. A waiting CBPOP is granted when the firing rule lets the core side fire. -/
  | cbpopGrant
  /-- DELIVERED_RESULT_WRITE R205. A pending engine or port result is written to its register at the first bundle of the task after it arrives. -/
  | deliveredResultWrite
  /-- CBCFG_APPLY R203. An accepted CBCFG is applied once fired operations complete, with tiles flipping as agents finish. -/
  | cbcfgApply
  /-- COMPLETION_RECORD R195. A copy command ends and writes its completion record after all its writes have performed. -/
  | completionRecord
  /-- TTINV_COMPLETION R222. TTINV completes after every port has dropped the entries and every access through them has performed. -/
  | ttinvCompletion
  /-- PORT_ACCESS R214. A memory port translates and checks a tensor access in order and performs it at the home port. -/
  | portAccess
  /-- TILE_TABLE_MISS R215. A fetched tile-table entry returns to the port, installing it or raising a page request when not present. -/
  | tileTableMiss
  /-- PAGE_ANSWER R216. A host answer installs the entry and resumes waiters, or fails them into XLATE_FAULT. -/
  | pageAnswer
  /-- UNCORRECTABLE_HBM_ERROR R218. An uncorrectable HBM error lists the frame in the port's poison list and reports it to firmware. -/
  | uncorrectableHbmError
  /-- BANK_ACCESS R281. A bank arithmetic unit applies one access per cycle to its DM bank. -/
  | bankAccess
  /-- DM_UNCORRECTABLE_ERROR R281. An uncorrectable DM error sets the line's poison bit and reports once to firmware. -/
  | dmUncorrectableError
  /-- MONITOR_WAKE R285. A write to a monitored DM word wakes its waiters, which re-read and re-arm or complete. -/
  | monitorWake
  /-- BARRIER_COMPLETION R9. A barrier evaluation finds every present member arrived and completes the barrier. -/
  | barrierCompletion
  /-- SUPERSTEP_COMPLETION R293. Every member has arrived at a superstep and the step phases invert. -/
  | superstepCompletion
  /-- PUT_ARRIVAL R292. A PUT reaches the target's die and is performed, held or refused, then acknowledged. -/
  | putArrival
  /-- PAIR_FIRE R229. A waiting chain command's tile pair fires once both queues hold its entries. -/
  | pairFire
  /-- CHAIN_COMMIT R232. A pair's step commits for all strip rows in one cycle and its queue entries pop. -/
  | chainCommit
  /-- MV_GROUP_COMMIT R234. A matrix-vector group completes, writing its rows and popping its entries. -/
  | mvGroupCommit
  /-- CHARM_COMPLETION R235. A running charm reaches END and its pending tile writes take effect. -/
  | charmCompletion
  /-- CHARM_WRITE R273. A checked CHLD writes the charm once no strip of the core runs it. -/
  | charmWrite
  /-- BOUND_QUEUE_WORD R230. A word arriving at a link FIFO bound to an operand queue joins the queue's current entry. -/
  | boundQueueWord
  /-- REQUEST_INJECT R302. A remote request is injected once a reply slot is reserved and a safe path is available. -/
  | requestInject
  /-- REMOTE_REQUEST_RECEIVE R312. The receive side checks a remote request against its replay cache and carries it out. -/
  | remoteRequestReceive
  /-- REMOTE_REPLY R314. A reply reaches the requester, delivering value and status or redirecting a MOVED request. -/
  | remoteReply
  /-- RETRANSMIT_TIMEOUT R313. A request with no reply after 20 microseconds is retransmitted, ending UNREACH after the third. -/
  | retransmitTimeout
  /-- CIRCUIT_FLIT_ARRIVAL R306. A circuit flit arrives at an eject port and goes to its bound lq or is dropped. -/
  | circuitFlitArrival
  /-- SEND_FIFO_PARTIAL_FLUSH R308. A send FIFO sends a partial flit after 16 cycles without a push. -/
  | sendFifoPartialFlush
  /-- UNSAFE_MAP_UPDATE R303. A firmware broadcast updates the package's map of UNSAFE links. -/
  | unsafeMapUpdate
  /-- LANE_RETIREMENT R320. A link lane fails and is retired, revoking circuits and possibly making the link UNSAFE. -/
  | laneRetirement
  /-- BEAD_TABLE_COMMIT R318. Committed shadow bead tables become active at the next timebase multiple of 2,048. -/
  | beadTableCommit
  /-- MAILBOX_GRANT R327. The mailbox's die grants a sealed parcel a place, entry and pages. -/
  | mailboxGrant
  /-- PARCEL_ARRIVAL R328. A parcel becomes ARRIVED in a mailbox once every word and mark is written, waking a PRECV. -/
  | parcelArrival
  /-- PARCEL_DELIVERY_ACK R328. The sender's die receives the arrival acknowledgement, frees the parcel and writes the POST result. -/
  | parcelDeliveryAck
  /-- SCHEDULING_POINT R349. The die scheduler recomputes ranks and decides placements, replacements and role swaps. -/
  | schedulingPoint
  /-- URGENT_STOP R179. A task's fetch freezes and its exposed operations drain into the locket. -/
  | urgentStop
  /-- ROLE_SWAP R352. At the primary's safe point the two resident tasks exchange roles. -/
  | roleSwap
  /-- SLICE_END_EVICTION R355. At a safe point the task's live state is written to its context frame and its LS released. -/
  | sliceEndEviction
  /-- ANTI_STARVATION_RAISE R350. After 2^20 ready cycles without issue a task gains a class raise. -/
  | antiStarvationRaise
  /-- LAUNCH_END R359. Once every task has ended the front end writes the launch's completion signal. -/
  | launchEnd
  /-- DEADLINE_EXPIRY R380. A deadline check finds the launch's deadline passed and diverts its tasks. -/
  | deadlineExpiry
  /-- WRAPUP_BUDGET_EXPIRY R382. A wrap-up that reaches its budget without EXIT is killed. -/
  | wrapupBudgetExpiry
  /-- WAITT_LIMIT_EXPIRY R372. A sleeping WAITT ends EXPIRED at the first deadline check past its limit. -/
  | waittLimitExpiry
  /-- FIRMWARE_CYCLE_WALK R368. Firmware completes a long clasp walk and traps DEADLOCK if the edge closes a cycle. -/
  | firmwareCycleWalk
  /-- DEBUG_HALT_REQUEST R182. A write of HALT_REQ urgently stops the task into debug halt. -/
  | debugHaltRequest
  /-- DEBUG_RESUME R182. A write of RESUME leaves debug halt and replays the working snapshot. -/
  | debugResume
  /-- LOCKET_CANCEL R183. A write of DBG_LOCKET_CANCEL removes selected locket entries. -/
  | locketCancel
  /-- DEBUGGER_REGISTER_WRITE R183. A debugger writes a register of a halted task's file. -/
  | debuggerRegisterWrite
  /-- CORE_SPLIT_WRITE R11. A write of CORE_SPLIT changes how columns form units, or is refused with BUSY. -/
  | coreSplitWrite
  /-- BANK_FMT_WRITE R100. A write of BANK_FMT_n sets a bank's format or is refused with REFUSED. -/
  | bankFmtWrite
  /-- REGISTER_WRITE R138. A write of a special register that has no row of its own stores the value. -/
  | registerWrite
  /-- DOORBELL R397. A doorbell message advances a queue's WRITE index or faults the ring. -/
  | doorbell
  /-- QUEUE_IDLE_UNMAP R398. A mapped queue idle for 10 microseconds is unmapped to IDLE. -/
  | queueIdleUnmap
  /-- NOP_PACKET R400. A NOP packet starts and completes at once. -/
  | nopPacket
  /-- LAUNCH R339. A LAUNCH packet's descriptor is checked and accepted, making the launch's tasks PENDING. -/
  | launch
  /-- BARRIER_AND R403. A BARRIER_AND packet waits until every named signal reads 0. -/
  | barrierAnd
  /-- BARRIER_AND_EVALUATION R403. A waiting BARRIER_AND is re-evaluated after a signal write and completes or puts the queue in ERROR. -/
  | barrierAndEvaluation
  /-- SIGNAL R402. A SIGNAL packet writes a value into a signal word unconditionally. -/
  | signal
  /-- COPY R400. A COPY packet copies bytes between VF addresses. -/
  | copy
  /-- SEGTAB R407. A SEGTAB packet installs a code object's overlay segment table. -/
  | segtab
  /-- SEGMENT_COPY_COMPLETE R408. A background overlay segment copy completes, releasing stalled fetches. -/
  | segmentCopyComplete
  /-- FRONT_END_TICK R395. At each multiple of 1,024 ns the front end wakes, settles token buckets and re-reads HBM signals. -/
  | frontEndTick
  /-- TOKEN_BUCKET_EMPTY R406. A VF's token bucket level reaching 0 unmaps its queues and evicts or sets aside its tasks. -/
  | tokenBucketEmpty
  /-- FRONT_END_WAKE R395. A halted front-end core wakes on a doorbell, message, answer or event. -/
  | frontEndWake
  /-- QUEUE_RESET R404. A host reset message takes a queue out of ERROR to IDLE. -/
  | queueReset
  /-- QUEUE_DESTROY R410. A destroy message ends a queue's packets with signal -2 and releases its QCB. -/
  | queueDestroy
  /-- TABLE_UPDATE R409. A host table-update message writes a tile-table entry and runs TTINV for it. -/
  | tableUpdate
  /-- LOCKSTEP_MISMATCH R394. A decision pair's comparator finds disagreement and the pair stops with a fatal event. -/
  | lockstepMismatch
  /-- WORKER_FAILURE R394. A front-end worker traps or stops and its queues go to the remaining workers. -/
  | workerFailure
  /-- VF_RECORD R415. A VF record message is checked and written into the VF's registers, or refused with CFG_STATUS. -/
  | vfRecord
  /-- VF_RESET R417. A VF reset destroys its queues, redraws its key, drops its caches and returns it to UNLOCKED. -/
  | vfReset
  /-- INTERFACE_LOCK R419. A LOCK message freezes the VF record and moves the interface to LOCKED. -/
  | interfaceLock
  /-- INTERFACE_START R419. A START message moves a LOCKED interface to RUN. -/
  | interfaceStart
  /-- INTERFACE_STOP R419. A STOP message runs the reset steps except the key discard and moves the interface to UNLOCKED. -/
  | interfaceStop
  /-- SESSION_END R419. The end of the locking session faults the VF's interface into ERROR. -/
  | sessionEnd
  /-- GET_MEASUREMENTS R418. An SPDM request returns the measurement log signed with the identity key. -/
  | getMeasurements
  /-- TILE_MOVE R420. A tensor tile is moved encrypted to another package's VF and acknowledged. -/
  | tileMove
  /-- PRE_COPY_ROUND R421. A migration round clears DIRTY, invalidates and copies tiles, DM, pools and QCBs. -/
  | preCopyRound
  /-- FINAL_ROUND R421. The final migration round stops tasks and copies remaining state with the forwarding stub active. -/
  | finalRound
  /-- ACTIVATION R421. The destination re-registers objects, starts RUN and restores the tasks. -/
  | activation
  /-- MIGRATION_END R423. A reset, STOP, session end or failure ends a migration before or after activation. -/
  | migrationEnd
  /-- BRING_UP R425. After power is applied the package derives its identity, checks its image, trains and announces READY. -/
  | bringUp
  /-- RECOVERY_BOOT_IMAGE R425. In the recovery state a new boot image is accepted. -/
  | recoveryBootImage
  /-- PTP_SYNC R426. A PTP message disciplines the timebase by slewing. -/
  | ptpSync
  /-- TIME_UNLOCKED R426. No PTP message for 1 s puts the timebase into holdover. -/
  | timeUnlocked
  /-- HEALTH_MONITOR_SAMPLE R427. Every 1,024 ns the pair reads temperature, voltage and process monitors. -/
  | healthMonitorSample
  /-- HEALTH_REPORT R428. A management message returns the health counters. -/
  | healthReport
  /-- FATAL_EVENT R429. A fatal event stops the front ends, kills every task and writes a dump. -/
  | fatalEvent
  /-- FATAL_NODUMP R429. With no running pair, mask ROM sends FATAL_NODUMP 10 ms after the first event. -/
  | fatalNodump
  /-- RESET_PACKAGE R429. A RESET_PACKAGE message discards every key and restarts bring-up. -/
  | resetPackage
  /-- STRIP_TRANSFER_COMPLETION R240. A strip's LS transfer command (TLDQ, TLD, TST, STSAVE, STLD, MVB) finishes moving its bytes at 64 bytes per cycle, and the strip takes its next record. -/
  | stripTransferCompletion
  /-- DISPENSER_ACCESS R288. A TKTAKE or TKNEXT record reaches the ticket dispenser, which applies it to the counter, lands the ticket or broadcasts the new SERVING value. -/
  | dispenserAccess
  /-- ENDPOINT_PACKET_ARRIVAL R308. A packet from a send-endpoint lq arrives at the receiving die and its words enter the receive-endpoint lq FIFO, with a reply returned. -/
  | endpointPacketArrival
  /-- SPDM_SESSION_START R418. The host opens an SPDM session, which its first message binds to one VF or to the package owner key. -/
  | spdmSessionStart
  deriving DecidableEq, Repr

end Sys2Proof
end

