-- ==== Sys2Proof/Machine/State.lean ====
section
/-!
DEFINITION. The state of the package: plain data, every piece the spec names, with its value at reset. The register
banks and the control of one task come first, then units, cores, dies, VFs and the package.
-/
namespace Sys2Proof.Machine

/-! One task's registers. -/

/-- An address generator (06 Table 06.13). -/
structure Ag where
  tid    : BitVec 16
  linear : Bool
  c      : Vector (BitVec 16) 4
  st     : Vector (BitVec 16) 4
  deriving DecidableEq, Repr

/-- How a link register is bound (18 R308). -/
inductive LqBind where
  | sendCirc (c : Nat)
  | recvCirc (c : Nat)
  | sendEnd (dst : Word)
  | recvEnd
  deriving DecidableEq, Repr

/-- A link FIFO register: binding, words held (oldest first), sender's credit, circuit lost, cycles without a push,
the chain queue it feeds, qb or qa, if QBIND binds it, and the senders of the words that a receive endpoint holds: package, die and
words of each packet, oldest first (18 R308). -/
structure Lq where
  bind   : Option LqBind
  fifo   : List Word
  credit : Nat
  lost   : Bool
  quiet  : Nat
  queue  : Option Bool
  src    : List (Nat × Nat × Nat)
  deriving DecidableEq, Repr

/-- A table slot bound to an LS tile of the allocation, with its copy of the tile's header (14 R260, R267). -/
structure FtBind where
  tile : Nat
  lo   : Lane
  hdr  : Lane
  deriving DecidableEq, Repr

/-- The register files of one column for one task (03 Table 03.1), its link registers and its function-stage slots:
table slots bound to a tile, program images; unbound and empty slots have their start contents (14 R263). -/
structure ColBank where
  ireg : Vector Word 56
  vreg : Vector VWord 32
  preg : Vector Bool 16
  kreg : Vector Lane 8
  lreg : Vector VWord 16
  ag   : Vector Ag 8
  lc   : Vector Word 4
  ln   : Word
  ibi  : Nat
  ibv  : Nat
  ibp  : Nat
  mp   : Vector Word 8
  ce   : Vector Word 8
  lq   : Vector Lq 8
  ft   : Vector (Option FtBind) 16
  fm   : Vector (List Lane) 16
  deriving DecidableEq, Repr

/-- A register write on its way (03 R62): register, physical number, value. The last ones are the index bases
and a trap that an instruction raises at its result bundle (14 R267). -/
inductive RegWrite where
  | i (n : Nat) (w : Word)
  | v (n : Nat) (w : VWord)
  | p (n : Nat) (b : Bool)
  | k (n : Nat) (m : Lane)
  | mp (n : Nat) (w : Word)
  | ce (n : Nat) (w : Word)
  | ag (n : Nat) (a : Ag)
  | lc (n : Nat) (w : Word)
  | ln (w : Word)
  | lq (n : Nat) (w : Word)
  | sr (n : Nat) (w : Word)
  | ib (n : Nat) (b : Nat)
  | rot (p8 : Bool)
  | trap (cause : Nat)
  deriving DecidableEq, Repr

/-- An exposed write in flight: the distance count at which it takes effect, its column, the write, and the flags of
05 R96 it sets then. In a locket snapshot `due` holds the bundles still lacking. -/
structure Pend where
  due   : Nat
  col   : Nat
  w     : RegWrite
  flags : Lane
  deriving DecidableEq, Repr

/-- A landing in flight (03 R66): access number, arrival distance, register, data if arrived, the deferred trap it
raises at arrival, frozen cycles so far, and whether its access must be issued again (03 R68). -/
structure Landing where
  id     : Nat
  due    : Nat
  col    : Nat
  reg    : Nat
  data   : Option VWord
  trap   : Option Nat
  frozen : Nat
  again  : Bool
  deriving DecidableEq, Repr

/-- A locket snapshot (08 R180). -/
structure Snap where
  pend : List Pend
  land : List Landing
  deriving DecidableEq, Repr

/-- A trap that a completing operation raises (08 R171): cause and column. -/
structure DTrap where
  cause : Nat
  col   : Nat
  deriving DecidableEq, Repr

/-- The home of a word (02 R30): a core's LS, a die's DM, a die's HBM stacks, another package; a tensor word whose page
is not there has none yet. -/
inductive Home where
  | ls (core : Nat)
  | dm (die : Nat)
  | hbm (die : Nat)
  | far (pkg : Nat)
  | unmapped
  deriving DecidableEq, Repr

/-- A task access issued and not yet performed (02 R29): number, class, load, store, home, the words it touches
(memory number and size), the bytes it stores, none for an operation whose result its home decides, and earlier
accesses that a fence orders before it as if both had one class (R33). -/
structure Acc where
  id   : Nat
  cls  : Nat
  ld   : Bool
  st   : Bool
  home : Home
  addr : Nat
  size : Nat
  val  : List Byte
  ord  : List Nat
  deriving DecidableEq, Repr

/-- A fence that still holds later bundles (02 R33, R36): its mask and the accesses it waits for, loads before any
access of the mask's classes, stores before a store, and stores before a load (FENCESC); whether the bundle it holds for them has issued, and the bundle
that the last ones hold. -/
structure Fence where
  mask   : BitVec 16
  past   : Bool
  pastLd : Bool
  loads  : List Nat
  stores : List Nat
  strict : List Nat
  deriving DecidableEq, Repr

/-- A result that a later bundle of the task writes into an i register, or a v register for ROWSTAT (10 R205, 14 R275):
record number, column, register, the value once granted, and a CBPOP's buffer, whose ring stalls too. -/
structure PendRes where
  id    : Nat
  col   : Nat
  vec   : Bool
  reg   : Nat
  val   : Option VWord
  cb    : Option Nat
  deriving DecidableEq, Repr

/-- Task states (21 Table 21.2); `never` is a PENDING task that will never start. -/
inductive TaskState where
  | pending | primary | secondary | aside | evicted | retired | killed | never
  deriving DecidableEq, Repr

/-- What a task waits on (22 R362, R364). -/
inductive WaitObj where
  | word (die addr : Nat)
  | lock (die addr : Nat)
  | ticket (die n : Nat)
  | barrier (die n : Nat)
  | super (die n : Nat)
  deriving DecidableEq, Repr

/-- A pending repetition of MREP (13 R255): repetitions left, body address, step of an address generator, whether the
step is due, bundles of the body presented, the MREP bundle's live list, suspended while a handler runs. -/
structure Mrep where
  left : Nat
  body : Nat
  step : Option (Nat × Nat × Int)
  due  : Bool
  seen : Nat
  live : Nat
  susp : Bool
  deriving DecidableEq, Repr

/-- A wait in progress: the object, the value or ticket waited for, the limit of WAITT, the
COND of WAITV and WAITT, and the wait bundle's place: its address, pending target and repetition (22 R368). -/
structure Sleep where
  obj      : WaitObj
  val      : Word
  limit    : Option Nat
  cond     : Nat
  pc       : Nat
  follower : Option Nat
  mrep     : Option Mrep
  deriving DecidableEq, Repr

/-- A PRECV that sleeps (19 R332): mailbox number on the task's die, column and i register of its result. -/
structure Recv where
  box : Nat
  col : Nat
  reg : Nat
  deriving DecidableEq, Repr

/-- How a stopped task stands (08 R178, R182): running, halted by a debugger, parked on its pages, stopped by HALT, stopped
to be moved with its VF (25 R421). -/
inductive StopState where
  | run | debug | page | front | moving
  deriving DecidableEq, Repr

/-- One tile task (01 R27, 21 R342): identity, place, registers of its columns, control, timing, and the rest of its
bank. `key` 0 is no task, `tbank` the task bank of its unit that it uses, `pages` the tags of the pages that its loads
wait for (11 R215), `resumeAt` the bundle and the column of an access whose page request failed, `evictFor` the task for
which its removal was asked for (21 R349), `divDue` a diversion that waits for the end of a freeze (03 R67). -/
structure Task where
  key      : Nat
  vf       : Nat
  die      : Nat
  launch   : Nat
  idx      : Nat
  coord    : Word
  priv     : Bool
  width    : Nat
  unit     : Nat
  half     : Nat
  tbank    : Nat
  state    : TaskState
  banks    : Vector ColBank 4
  pc       : Nat
  follower : Option Nat
  dist     : Nat
  idle     : Nat
  pend     : List Pend
  land     : List Landing
  work     : Snap
  snap     : Snap
  deferred : List DTrap
  held     : Option DTrap
  results  : List PendRes
  accs     : List Acc
  fences   : List Fence
  sleep    : Option Sleep
  recv     : List Recv
  first    : Bool
  stop     : StopState
  pages    : List Nat
  resumeAt : Option (Nat × Nat)
  mrep     : Option Mrep
  chk      : Lane
  arith    : Lane
  lsCtl    : Word
  lsOob    : Word
  lsBase   : Nat
  lsSize   : Nat
  dmSize   : Nat
  trapCause : Word
  trapArg  : Word
  pclFault : Word
  waitStat : Word
  taskId   : Word
  claspRec : Vector Word 33
  comm     : Bool
  demoted  : Bool
  expired  : Bool
  restored : Bool
  cls      : Nat
  inherit  : Nat
  raises   : Nat
  ready    : Nat
  used     : Nat
  wrapLeft : Option Nat
  evict    : Bool
  evictFor : Nat
  safeNow  : Option Nat
  divert   : Bool
  divDue   : Bool
  exiting  : Bool
  hasLs    : Bool
  barCnt   : List (Nat × Nat)
  yielded  : Bool
  doom     : Bool
  dbgStep  : Bool
  dbgBkpt  : Bool
  dbgReq   : Bool
  dbgSel   : Nat
  deriving DecidableEq, Repr

/-! Values at task start (03 R57). -/

/-- An address generator of zeros. -/
def Ag.zero : Ag := ⟨0, false, Vector.replicate 4 0, Vector.replicate 4 0⟩
/-- An unbound link register (log 8). -/
def Lq.none : Lq := ⟨.none, [], 0, false, 0, .none, []⟩
/-- The register bank of a column at task start. -/
def ColBank.zero : ColBank :=
  { ireg := Vector.replicate 56 0, vreg := Vector.replicate 32 0, preg := Vector.replicate 16 false,
    kreg := Vector.replicate 8 0, lreg := Vector.replicate 16 0, ag := Vector.replicate 8 Ag.zero,
    lc := Vector.replicate 4 0, ln := 0, ibi := 0, ibv := 0, ibp := 0,
    mp := Vector.replicate 8 0, ce := Vector.replicate 8 0, lq := Vector.replicate 8 Lq.none,
    ft := Vector.replicate 16 .none, fm := Vector.replicate 16 [] }
/-- An empty snapshot. -/
def Snap.empty : Snap := ⟨[], []⟩
/-- No task, and the start of every task before its launch fills it in. -/
def Task.zero : Task :=
  { key := 0, vf := 0, die := 0, launch := 0, idx := 0, coord := 0, priv := false, width := 1, unit := 0, half := 0,
    tbank := 0, state := .pending, banks := Vector.replicate 4 ColBank.zero, pc := 0, follower := .none, dist := 0, idle := 0,
    pend := [], land := [], work := Snap.empty, snap := Snap.empty, deferred := [], held := .none, results := [],
    accs := [], fences := [], sleep := .none, recv := [], first := false, stop := .run, pages := [], resumeAt := .none, mrep := .none,
    chk := 0, arith := 0, lsCtl := 0, lsOob := 0, lsBase := 0, lsSize := 1, dmSize := 0, trapCause := 0, trapArg := 0,
    pclFault := 0, waitStat := 0, taskId := 0, claspRec := Vector.replicate 33 0, comm := false,
    demoted := false, expired := false, restored := false, cls := 0, inherit := 0, raises := 0, ready := 0, used := 0,
    wrapLeft := .none, evict := false, evictFor := 0, safeNow := .none, divert := false, divDue := false, exiting := false, hasLs := false, barCnt := [], yielded := false, doom := false, dbgStep := false,
    dbgBkpt := false, dbgReq := false, dbgSel := 0 }

/-! Bundles, records and units. -/

/-- What the words of the presented bundle have decided about what follows it: a taken transfer, the CALLR or JMPR
target, the trap to take after the other slots with its slot and column, ERET, EXIT, HALT, debug halt, a rotation with its new p8, a fence's
mask and scope, a sleep begun; and from the header the stall count, the safe point's live list and the segment mark, whether it ends
a body of MREP, and the first number that its own records and accesses get (0: none runs). -/
structure Ctl where
  on     : Bool
  jump   : Option Nat
  indir  : Option Nat
  trap   : Option Nat
  place  : Nat × Nat
  eret   : Bool
  exit   : Bool
  halt   : Bool
  brk    : Bool
  kill   : Bool
  yield  : Bool
  rot    : Option Bool
  fence  : Option (BitVec 16)
  fscope : Option Nat
  slept  : Bool
  stall  : Nat
  live   : Option Nat
  seg    : Bool
  bodyEnd : Bool
  mark   : Nat
  deriving DecidableEq, Repr

/-- No bundle presented. -/
def Ctl.none : Ctl :=
  { on := false, jump := .none, indir := .none, trap := .none, place := (0, 0), eret := false, exit := false, halt := false,
    brk := false, kill := false, yield := false, rot := .none, fence := .none, fscope := .none, slept := false,
    stall := 0, live := .none, seg := false, bodyEnd := false, mark := 0 }

/-- A command record (01 R15): number, task, unit-local column, word, the two operands, the pair value, the staging
values, the unit's bundle count at its formation, its access number, the i register a result goes to, and the number of its
entry into its queue (0 before). -/
structure Rec where
  id   : Nat
  task : Nat
  col  : Nat
  ins  : Instr
  s1   : Word
  s2   : Word
  pair : Word
  stag : List Word
  born : Nat
  acc  : Nat
  dst  : Nat
  ent  : Nat
  deriving DecidableEq, Repr

/-- A unit of a core (01 R12, R14, R23, R27): resident tasks (0 for none), slip window, whether a record in it stops the
issue (R16), the four queues, circular buffers with their holders and granted CBPOPs, bundle count, the secondary's cycles without issue (4,096: the primary is
held), the slots the primary used in the cycle, the text halves (launch; segment + 1 it holds; copy in progress: marking
task · 64 + segment + 1), a role swap
asked for, the buffer advances due (buffer, producer's side), waiting CBPOP and CBPUSH records, and tile flips of a CBCFG
still to come (tile, owner, last record number before it, task). -/
structure UnitSt where
  prim    : Nat
  sec     : Nat
  slip    : List Rec
  stopped : Bool
  qChain  : List Rec
  qCopy   : List Rec
  qBank   : List Rec
  qFabric : List Rec
  cb      : Vector Word 8
  cbTask  : Vector Nat 8
  cbGrant : Vector (Option Nat) 8
  count   : Nat
  secIdle : Nat
  slots   : List (Nat × Nat)
  text    : Vector Nat 2
  segOf   : Vector Nat 2
  segBusy : Vector Nat 2
  swap    : Bool
  cbDue   : List (Nat × Bool)
  pops    : List Rec
  pushes  : List Rec
  late    : List (Nat × BitVec 8 × Nat × Nat)
  deriving DecidableEq, Repr

/-- A unit with nothing in it. -/
def UnitSt.zero : UnitSt :=
  { prim := 0, sec := 0, slip := [], stopped := false, qChain := [], qCopy := [], qBank := [], qFabric := [],
    cb := Vector.replicate 8 0, cbTask := Vector.replicate 8 0, cbGrant := Vector.replicate 8 .none, count := 0,
    secIdle := 0, slots := [], text := Vector.replicate 2 0, segOf := Vector.replicate 2 0,
    segBusy := Vector.replicate 2 0, swap := false, cbDue := [], pops := [], pushes := [], late := [] }

/-! Cores. -/

/-- A core's registers (01 Table 01.2, 03 Table 03.7, 05 R100). -/
structure CoreSt where
  split  : Lane
  freeze : Word
  fmt    : Vector Lane 8
  deriving DecidableEq, Repr

/-- A core at reset: one wide unit, no frozen cycle, format codes 0. -/
def CoreSt.zero : CoreSt := { split := 1, freeze := 0, fmt := Vector.replicate 8 0 }

/-! VFs, launches, the clasp table. -/

/-- The states of a VF's interface (25 Table 25.4). -/
inductive IfState where
  | unlocked | locked | run | error
  deriving DecidableEq, Repr

/-- A VF's registers from its VF record (25 Table 25.3): per die the SEG, DM and PCL pairs; the token bucket's LEVEL in
millionths of a unit-µs and whether it holds the VF back (24 R405, R406); the key's generation; the interface's state and the
session that locked it (25 R419); 1 while a reset runs, 2 while a STOP does (R417). -/
structure VfSt where
  valid     : Bool
  part      : Nat
  scopeCap  : Nat
  scopeTrap : Bool
  claspTrap : Bool
  dbgOk     : Bool
  qcbBase   : Nat
  tdtBase   : Nat
  tdtCount  : Nat
  depth     : Nat
  rate      : Nat
  thresh    : Nat
  tkBase    : Nat
  tkCount   : Nat
  mbxCount  : Nat
  pclCount  : Nat
  pclBase   : Vector Nat 12
  pclSize   : Vector Nat 12
  segBase   : Vector Nat 12
  segBound  : Vector Nat 12
  dmBase    : Vector Nat 12
  dmSize    : Vector Nat 12
  level     : Int
  dry       : Bool
  keyGen    : Nat
  iface     : IfState
  lockBy    : Option Nat
  rst       : Nat
  deriving DecidableEq, Repr

/-- A VF before any record (25 Table 25.3 resets; the token bucket's level: log 8). -/
def VfSt.zero : VfSt :=
  { valid := false, part := 0, scopeCap := 7, scopeTrap := false, claspTrap := false, dbgOk := false, qcbBase := 0,
    tdtBase := 0, tdtCount := 0, depth := 0, rate := 0, thresh := 0, tkBase := 0, tkCount := 0, mbxCount := 0,
    pclCount := 0, pclBase := Vector.replicate 12 0, pclSize := Vector.replicate 12 0,
    segBase := Vector.replicate 12 0, segBound := Vector.replicate 12 0, dmBase := Vector.replicate 12 0,
    dmSize := Vector.replicate 12 0, level := 0, dry := false, keyGen := 0, iface := .unlocked, lockBy := none, rst := 0 }

/-- An accepted launch (21 R338 to R341, 22 R361): its queue and packet, code object with the segment table it started
with (24 R407), descriptor fields, acceptance time and launch number, whether a task was killed, its queue destroyed, its deadline expired. -/
structure Launch where
  live     : Bool
  vf       : Nat
  queue    : Nat
  packet   : Nat
  code     : Nat
  obj      : CodeObj
  segs     : List (Nat × Nat)
  width    : Nat
  xm       : Nat
  ym       : Nat
  zm       : Nat
  dies     : List Nat
  cls      : Nat
  arg      : Option Word
  lsTiles  : Nat
  deadline : Option Nat
  budget   : Nat
  wrapPc   : Nat
  estimate : Nat
  signal   : Nat
  vmap     : Nat
  fmt      : Option Lane
  tacc     : Nat
  lnum     : Nat
  left     : List Nat
  killed   : Bool
  destroyed : Bool
  expired  : Bool
  deriving DecidableEq, Repr

/-- A code object with nothing in it. -/
def CodeObj.empty : CodeObj :=
  { width := 4, check := false, interlock := false, overlay := false, text := [], segText := [], saves := [], traps := [], trapDef := .none,
    lives := [], lsData := [], dmData := [], tnData := [], ftables := [], hxldOk := false }

/-- No launch. -/
def Launch.zero : Launch :=
  { live := false, vf := 0, queue := 0, packet := 0, code := 0, obj := CodeObj.empty, segs := [], width := 4, xm := 0, ym := 0, zm := 0,
    dies := [], cls := 0, arg := .none, lsTiles := 1, deadline := .none, budget := 0, wrapPc := 0, estimate := 0,
    signal := 0, vmap := 0, fmt := .none, tacc := 0, lnum := 0, left := [], killed := false, destroyed := false,
    expired := false }

/-- The three sorts of clasp table entry (22 R360). -/
inductive ClaspSort where
  | obj | wait | hold
  deriving DecidableEq, Repr

/-- A clasp table entry (22 R360): its sort, the object word of Table 22.3, the object's VF, the task of an edge. -/
structure ClaspE where
  sort : ClaspSort
  obj  : Word
  vf   : Nat
  task : Nat
  deriving DecidableEq, Repr

/-! Requests, ports, counters. -/

/-- What a request asks of its home: plain loads and stores of LS, of DM and of tensors, a bank operation, the ticket
words, a PUT, loads and stores of a parcel. -/
inductive ReqKind where
  | lsLoad | lsStore | dmLoad | dmStore | bank | tkTake | tkNext (rst : Bool)
  | tnLoad | tnStore | query | put
  | pcLoad (ref : Bool) | pcStore
  deriving DecidableEq, Repr

/-- A request on its way to its home (02 R30, 16 R281): access number, task, VF, die and column, kind and word, memory
number or counter, size, stored bytes, operand and expected value, the address generator of a tensor access, the
register of a result or the core of an LS access, and the tag of the page it waits for. -/
structure Req where
  id    : Nat
  task  : Nat
  vf    : Nat
  die   : Nat
  col   : Nat
  kind  : ReqKind
  ins   : Instr
  addr  : Nat
  size  : Nat
  val   : List Byte
  v     : Word
  e     : Word
  ag    : Ag
  dst   : Nat
  tag   : Option Nat
  deriving DecidableEq, Repr

/-- Loaded data on its way to the column (03 R430): task, landing, value, and the deferred trap it brings. -/
structure Flight where
  task : Nat
  id   : Nat
  data : VWord
  trap : Option Nat
  deriving DecidableEq, Repr

/-- A cached tensor descriptor (11 R207): VF, tensor, words W0 to W3. -/
structure DescE where
  vf  : Nat
  tid : Nat
  w   : Vector Nat 4
  deriving DecidableEq, Repr

/-- A cached tile-table entry (11 R212): VF, tensor, tile, entry. -/
structure TileE where
  vf   : Nat
  tid  : Nat
  tile : Nat
  e    : Nat
  deriving DecidableEq, Repr

/-- An outstanding tile-table miss of a port (11 R215): VF, tensor, tile, the tag of its page request if it is one, and the
numbers of the requests whose fetch of the entry it is. -/
structure Miss where
  vf   : Nat
  tid  : Nat
  tile : Nat
  tag  : Option Nat
  ids  : List Nat
  deriving DecidableEq, Repr

/-- A memory port (11 R207, R212, R215, R218): descriptor and tile-table caches, most recently used first, outstanding
misses, and the poison list of frames. -/
structure PortSt where
  desc   : List DescE
  tile   : List TileE
  miss   : List Miss
  poison : List Nat
  deriving DecidableEq, Repr

/-- A port with empty caches. -/
def PortSt.zero : PortSt := ⟨[], [], [], []⟩

/-- A page request (11 R215 to R217): tag, port, VF, tensor, tile, whether a waiting access writes, the requests and copy
channels that wait; no waiter left makes it quarantined. -/
structure PageReq where
  tag   : Nat
  port  : Nat
  vf    : Nat
  tid   : Nat
  tile  : Nat
  write : Bool
  reqs  : List Nat
  chans : List Nat
  deriving DecidableEq, Repr

/-- A ticket counter (16 Table 16.7): the takers hold ticket and task. -/
structure Ticket where
  next    : Nat
  serving : Nat
  takers  : List (Nat × Nat)
  deriving DecidableEq, Repr

/-- A counter at reset. -/
def Ticket.zero : Ticket := ⟨0, 0, []⟩

/-! Copy channels, strips, charms. -/

/-- Where an element lies: memory number of its first byte, first bit within it, format, for MX the first byte of its
block and its scale byte, the key of an HBM byte (0 elsewhere), and whether its frame is poisoned. -/
structure Loc where
  a     : Nat
  bit   : Nat
  fmt   : Nat
  blk   : Nat
  scale : Nat
  key   : Nat
  pois  : Bool
  deriving DecidableEq, Repr

/-- An element as a transfer entry names it (10 R190): of a tensor by its coordinates, or at a place in LS or DM. -/
inductive Spot where
  | tn (tid c0 c1 c2 c3 : Nat)
  | at (l : Loc)
  deriving DecidableEq, Repr

/-- An element still to be read: source, destination, whether it ends a row that KVCOMMIT counts. -/
structure Item where
  src : Spot
  dst : Spot
  eor : Bool
  deriving DecidableEq, Repr

/-- An element read and still to be written: format, code, scale byte of its block, poison, destination, end of a row. -/
structure Got where
  fmt   : Nat
  code  : Nat
  scale : Nat
  pois  : Bool
  dst   : Spot
  eor   : Bool
  deriving DecidableEq, Repr

/-- An entry that a channel has started and not performed (10 R192): index, the buffer and side (producer's) that it
completes, whether bytes move raw, whether it counts when it is done (not what is left of a failed one), elements to
read and elements to write, whether the channel's last wait for a page was for it. -/
structure Ent where
  idx   : Nat
  side  : Option (Nat × Bool)
  raw   : Bool
  whole : Bool
  todo  : List Item
  held  : List Got
  wait  : Bool
  deriving DecidableEq, Repr

/-- The command a copy channel runs (10 R187): its record, its task's unit, the BANK_FMT registers and the queue format
it sampled (05 R101, 10 R200), entries started, performed and in all, bits written (rows for KVCOMMIT), whether poison was
propagated, a NaN or the bad tern code met, whether it is cancelled at the next entry, the entries started and not performed,
the failure it will end with (status, cause, index, firmware event), and the bits written from unpoisoned sources of the LS
tiles (by 2 · number) and DM lines (by 2 · number + 1) that it has written (R194). -/
structure Run where
  cmd  : Rec
  unit : Nat
  fmts : Vector Lane 8
  dfmt : Nat
  n    : Nat
  fin  : Nat
  tot  : Nat
  cnt  : Nat
  pois : Bool
  nan  : Bool
  tern : Bool
  stop : Bool
  ents : List Ent
  fail : Option (Nat × Nat × Nat × Bool)
  clean : FMap Nat
  deriving DecidableEq, Repr

/-- A copy channel (10 Table 10.10): the running command and what CPYST reports of it and of the last ones,
whether it waits for a page, and whether the page it waits for was answered with failure. -/
structure Chan where
  run    : Option Run
  index  : Nat
  cause  : Nat
  status : Nat
  pois   : Bool
  fault  : Bool
  page   : Bool
  noPage : Bool
  deriving DecidableEq, Repr

/-- An idle channel. -/
def Chan.zero : Chan := ⟨none, 0, 0, 0, false, false, false, false⟩

/-- An entry of an operand queue (12 R229): rows, columns, format, element codes row by row, MX scales by block of 32,
poison, and the words of a bound entry that has still to fill. -/
structure QEnt where
  rows   : Nat
  cols   : Nat
  fmt    : Nat
  codes  : List Nat
  scales : List Nat
  pois   : Bool
  words  : List Word
  done   : Bool
  deriving DecidableEq, Repr

/-- A tile register (12 R228): TILE_CFG and the bytes that are not 0. -/
structure TileReg where
  cfg   : Lane
  data  : FMap Byte
  deriving DecidableEq, Repr

/-- A tile register at reset (12 Table 12.4; contents: log 8). -/
def TileReg.zero : TileReg := { cfg := 0x1F80 + 0x7E, data := [] }

/-- A charm of the charm store (12 R235): the VF it belongs to and its microwords. -/
structure Charm where
  vf    : Nat
  words : List Word
  deriving DecidableEq, Repr

/-- A charm that runs (12 R235): index, microwords, next microword, parameters, counters, the four feeds, accumulators
of the score and the value array by row · 64 + column (element kind first: 0 fp32, 1 fp64, 2 int32), tile writes to
come, the queue entries it has taken, and whether a conversion met a NaN or the bad tern code was read. -/
structure CharmRun where
  num   : Nat
  words : List Word
  pc    : Nat
  par   : Vector Word 8
  cnt   : Vector Nat 4
  feeds : Vector (Option QEnt) 4
  accK  : Vector Nat 2
  acc   : Vector (List (List Nat)) 2
  outs  : Vector (Option TileReg) 2
  popA  : List QEnt
  popB  : List QEnt
  nan   : Bool
  tern  : Bool
  deriving DecidableEq, Repr

/-- A strip of the chain engine (12 Table 12.1): holder, Q or the MV batch as element codes by row · 256 + column, O as
fp32 by the same index, running statistics, queues with the head entries this strip has used, bindings (link register,
rows, format), CHAIN_CFG, ROW_EMPTY, vectors of the batch, whether Q or the batch is loaded, tile registers and their
holders, the running command with the BANK_FMT it sampled, the pairs it lacks, whether one has fired, its charm, whether
a diversion ends it, whether it read the bad tern code, and what MPOLL reports (13 Table 13.4). -/
structure Strip where
  holder : Nat
  q      : FMap Nat
  o      : FMap Lane
  sm     : Vector Lane 16
  sl     : Vector Lane 16
  sc     : Vector Lane 16
  qa     : List QEnt
  qb     : List QEnt
  usedA  : Nat
  usedB  : Nat
  bindA  : Option (Nat × Nat × Nat)
  bindB  : Option (Nat × Nat × Nat)
  cfg    : Word
  empty  : BitVec 16
  batch  : Nat
  loaded : Bool
  treg   : Vector TileReg 2
  thold  : Vector Nat 2
  run    : Option Rec
  fmts   : Vector Lane 8
  left   : Nat
  row    : Nat
  fired  : Bool
  charm  : Option CharmRun
  cancel : Bool
  tern   : Bool
  lastStatus : Nat
  lastCause  : Nat
  partDrop   : Bool
  pairs      : Nat
  deriving DecidableEq, Repr

/-- A strip at reset. -/
def Strip.zero : Strip :=
  { holder := 0, q := [], o := [], sm := Vector.replicate 16 0xFF800000, sl := Vector.replicate 16 0,
    sc := Vector.replicate 16 0, qa := [], qb := [], usedA := 0, usedB := 0, bindA := none, bindB := none,
    cfg := 0x3F80000000111000, empty := 0, batch := 0, loaded := false, treg := Vector.replicate 2 TileReg.zero,
    thold := Vector.replicate 2 0, run := none, fmts := Vector.replicate 8 0, left := 0, row := 0, fired := false,
    charm := none, cancel := false, tern := false, lastStatus := 0, lastCause := 0, partDrop := false, pairs := 0 }

/-- The barriers of a launch at one scope in one instance (01 R9): BAR's or SSTEP's, scope code, instance (core, quad or
die of the package), barriers completed, and the arrivals not yet used as sequence number and task. -/
structure Barr where
  launch : Nat
  step   : Bool
  scope  : Nat
  inst   : Nat
  count  : Nat
  arr    : List (Nat × Nat)
  deriving DecidableEq, Repr

/-- Parcel states (19 Table 19.2); `unused` is an entry that is free. -/
inductive PState where
  | unused | localP | sealedP | transit | arrived | freed
  deriving DecidableEq, Repr

/-- A parcel table entry (19 R321, R322): state, length, pages of the pool, marked words. -/
structure Parcel where
  st    : PState
  len   : Nat
  pages : List Nat
  marks : List Nat
  deriving DecidableEq, Repr

/-- A free entry. -/
def Parcel.zero : Parcel := ⟨.unused, 0, [], []⟩

/-- A parcel on its way (19 R327, R328): number (even: posted here), package it goes to if not this one, VF, sender's
handle (the sender's package of a parcel from outside), task, mailbox's die and number, length, contents of a parcel from
outside, and the handle granted. -/
structure Xfer where
  id    : Nat
  far   : Option Nat
  vf    : Nat
  src   : Nat
  task  : Nat
  die   : Nat
  mbox  : Nat
  len   : Nat
  words : List Word
  marks : List Nat
  dst   : Option Nat
  deriving DecidableEq, Repr

/-- The pod's extents and this package's coordinates in it (18 R299). -/
structure Pod where
  ex : Nat
  ey : Nat
  ez : Nat
  x  : Nat
  y  : Nat
  z  : Nat
  deriving DecidableEq, Repr

/-- An outstanding request of a die (18 R302, R313): transaction id, target package, the request, task and column, its
access, the number under which its results are awaited, the time of its last transmission, retransmissions, the
register of an endpoint sender, the path fixed at injection as links with their channel, vc1 or vc0 (R301, R303), whether it
returns a value, and the package, die and id of a request that a migration's stub forwards (24 R412). -/
structure Remote where
  xid  : Nat
  pkg  : Nat
  req  : RemoteReq
  task : Nat
  col  : Nat
  acc  : Nat
  id   : Nat
  sent : Nat
  tries : Nat
  lq   : Nat
  path : List (Nat × Bool)
  ret  : Bool
  fwd  : Option (Nat × Nat × Nat)
  deriving DecidableEq, Repr

/-- A reply in a replay cache by its key (18 R313). -/
structure Replay where
  pkg  : Nat
  die  : Nat
  xid  : Nat
  kind : ReplyKind
  deriving DecidableEq, Repr

/-- A packet for an endpoint lq (18 R308): endpoint word, VF, words, the sender's package and die. -/
structure Packet where
  dst : Word
  vf  : Nat
  ws  : List Word
  src : Nat × Nat
  deriving DecidableEq, Repr

/-- The fabric (18 R302, R303, R305, R307, R313, R319): outstanding requests, requests that wait for a reply slot or a path, the
next transaction id of each die, requests of this package to itself in order, replay caches, packets, circuit flits held at an
input by input port · 256 + circuit (0 at a link input), bead tables by port · 256 + slot
(active and shadow, 16-bit entries) and the time of a commit, circuits' partitions plus 1 by die · 256 + circuit, UNSAFE
links of the pod by package · 24 + link, lanes retired by link · 2 + output, and requests that a stub sent on before their VF's
activation here, in order of arrival (24 R412). -/
structure FabSt where
  out    : List Remote
  pend   : List Remote
  next   : FMap Nat
  wire   : List RemoteReq
  replay : FMap (List Replay)
  pkts   : List Packet
  flits  : List (Nat × List Word)
  bead   : FMap Nat
  shadow : FMap Nat
  commit : Option Nat
  circ   : FMap Nat
  unsafeLinks : List Nat
  lost   : FMap Nat
  held   : List RemoteReq
  deriving DecidableEq, Repr

/-- The fabric at reset. -/
def FabSt.zero : FabSt :=
  { out := [], pend := [], next := [], wire := [], replay := [], pkts := [], flits := [], bead := [], shadow := [],
    commit := none, circ := [], unsafeLinks := [], lost := [], held := [] }

/-- What a context frame keeps beside the task's registers (08 Table 08.8; log 15): its records in entry order, waiting
CBPOPs and CBPUSHes, its strips by local column, its circular buffers (number, descriptor, granted) and the flips of a CBCFG
still to come (tile of the allocation, owner, last record number before it), its live LS tiles, the owner of every tile of
its allocation, the format registers of its core and the allocation's first tile. -/
structure Frame where
  recs   : List Rec
  pops   : List Rec
  pushes : List Rec
  strips : List Strip
  cbs    : List (Nat × Word × Bool)
  late   : List (Nat × BitVec 8 × Nat)
  tiles  : List (Nat × List Byte)
  owners : List (BitVec 8)
  fmts   : Vector Lane 8
  base   : Nat
  deriving DecidableEq, Repr

/-- A frame with nothing in it. -/
def Frame.zero : Frame := ⟨[], [], [], [], [], [], [], [], Vector.replicate 8 0, 0⟩

/-- A started packet not yet completed (24 R401): index, type, signal reference, operands P2 to P6, its launch, bytes done. -/
structure Pkt where
  n      : Nat
  ty     : Nat
  sig    : Nat
  ops    : List Nat
  launch : Nat
  done   : Nat
  deriving DecidableEq, Repr

/-- A queue's hardware side (24 R398): mapped, waiting for a slot, the place of its doorbell among all, the time of its last
activity, its started packets. -/
structure QueueSt where
  mapped : Bool
  want   : Bool
  bell   : Nat
  since  : Nat
  run    : List Pkt
  deriving DecidableEq, Repr

/-- A queue with nothing in it. -/
def QueueSt.zero : QueueSt := ⟨false, false, 0, 0, []⟩

/-- A segment table (24 R407): VF, code object, entries as W0 and W1. -/
structure SegTab where
  vf   : Nat
  code : Nat
  ents : List (Nat × Nat)
  deriving DecidableEq, Repr

/-- The partition map (25 R413): partition plus 1 of each physical column; ranges (partition, first, count) of DM granules
(die · 4,096 + granule), HBM granules (die · 131,072 + granule) and ticket counters (die · 2,048 + counter); partition plus 1 of
bead entries; the queue slots reserved for a partition. -/
structure PMap where
  cols  : FMap Nat
  dm    : List (Nat × Nat × Nat)
  hbm   : List (Nat × Nat × Nat)
  ticks : List (Nat × Nat × Nat)
  beads : FMap Nat
  slots : List (Nat × Nat)
  deriving DecidableEq, Repr

/-- Where the package stands (26 R425, R429): powered off or in mask ROM, in recovery, running, stopped by a fatal event. -/
inductive Phase where
  | off | recovery | ready | stopped
  deriving DecidableEq, Repr

/-- A session of the SPDM responder (25 R418): number, the VF it is bound to, none when package-wide. -/
structure Session where
  num  : Nat
  bind : Option Nat
  deriving DecidableEq, Repr

/-- What the final round of a migration moves beside tiles (25 R421): the VF's launches by key, its tasks, their context
frames by task, accesses that wait for a saved record and held PUTs, parcels posted and not granted, its queues by number, clasp
entries by die, parcels and mailboxes by their keys, ticket counters by die and number, segment tables, barriers, the bytes of DM
and of the parcel pools by die, the queue control blocks, poisoned DM lines by die and offset, the next record number, and where
its DM (memory number by die) and its counters began. -/
structure MigIn where
  vf       : Nat
  launches : List (Nat × Launch)
  tasks    : List Task
  frames   : List (Nat × Frame)
  reqs     : List Req
  puts     : List Req
  xfers    : List Xfer
  queues   : List (Nat × QueueSt)
  clasp    : List (Nat × List ClaspE)
  parcels  : List (Nat × Parcel)
  boxes    : List (Nat × List Nat)
  ticks    : List (Nat × Ticket)
  segs     : List SegTab
  bars     : List Barr
  dm       : List (Nat × List Byte)
  pools    : List (Nat × List Byte)
  qcbs     : List Byte
  pois     : List (Nat × Nat)
  nid      : Nat
  dmOld    : List Nat
  tkOld    : Nat
  deriving DecidableEq, Repr

/-- A message to the host, to another package or to a link, in the order sent (log 1): its sort and contents. `sealed` carries
bytes under a session key to the package at some coordinates, `tileAck` the acknowledgement of a tile to it (25 R420);
`offerMoved` answers a parcel's offer with the VF's new package (R422). -/
inductive OutMsg where
  | host (vf : Nat) (sort : Nat) (ws : List Nat)
  | request (r : RemoteReq) (pkg die : Nat)
  | reply (pkg die xid : Nat) (k : ReplyKind)
  | circuit (port slot : Nat) (ws : List Word)
  | revoked (port slot : Nat)
  | credit (pkg : Option Nat) (w : Word) (n : Nat)
  | offer (vf pkg die mbox len n : Nat)
  | parcel (pkg n : Nat) (ws : List Word) (marks : List Nat)
  | grant (pkg n : Nat) (ok : Bool)
  | ack (pkg n status : Nat)
  | migrate (pkg : Nat) (m : MigIn)
  | sealed (dest sess sort : Nat) (what : List Nat) (nonce tag : Nat) (data : List Byte)
  | tileAck (dest sess tid tile : Nat)
  | offerMoved (pkg n coord : Nat)
  deriving DecidableEq, Repr

/-- A live migration that leaves this package (25 R421): number, VF, destination coordinates, session, round (0 pre-copy,
1 final, 2 final and copied, 3 activated), the next tile of a pre-copy round (tensor, tile), the time the final round began. -/
structure Mig where
  num   : Nat
  vf    : Nat
  dest  : Nat
  sess  : Nat
  round : Nat
  pos   : Nat × Nat
  since : Nat
  deriving DecidableEq, Repr

/-- Firmware's state (24 R392 to R394, 25 R418, 26 R425 to R429): phase, dies whose pair has stopped, workers lost, the
events of a dump with their times, the measurement log, the owner key, sessions, the clock's lock, the last
PTP message and what is left to slew (R426), the last front-end tick, the last launch number, the launch numbers that the leader
has given to other dies' queues (vf · 64 + queue, number; 24 R392), the mailbox region of every die's DM (24 R393: first
granule, granules), the key store's session slots (25 R416: slot to session plus 1). -/
structure FwSt where
  phase  : Phase
  down   : List Nat
  lostW  : List (Nat × Nat)
  fatal  : List (Nat × Nat × FatalWhy)
  dumped : Bool
  mlog   : List Nat
  owner  : Nat
  sess   : List Session
  locked : Bool
  synced : Nat
  slew   : Int
  tick   : Nat
  lnum   : Nat
  grants : List (Nat × Nat)
  mbox   : Nat × Nat
  keys   : FMap Nat
  deriving DecidableEq, Repr

/-- What one pair tells another (24 R392, R393, R399): a launch record; to the leader, that a queue asks for a launch number or
has something to parse; from the leader, the number, that the queue has a slot, that a VF's token bucket is empty. -/
inductive FeWhat where
  | record (launch : Nat)
  | askLnum (vf q : Nat)
  | lnum (vf q n : Nat)
  | askSlot (vf q : Nat)
  | slot (vf q : Nat)
  | bucket (vf : Nat)
  deriving DecidableEq, Repr

/-- A front-end message in a mailbox (24 R393): the sending die, the receiving die, what it says. -/
structure FeMsg where
  src    : Nat
  die    : Nat
  what   : FeWhat
  deriving DecidableEq, Repr

/-- Firmware at reset: no image loaded. -/
def FwSt.zero : FwSt :=
  { phase := .off, down := [], lostW := [], fatal := [], dumped := false, mlog := [], owner := 0, sess := [],
    locked := false, synced := 0, slew := 0, tick := 0, lnum := 0, grants := [], mbox := (0, 0), keys := [] }

/-- What an event carries from outside its step: one constructor per event of the table, with its operands. -/
inductive Event where
  /-- Nothing: a slot word runs. -/
  | none
  | bundlePresentation (u : Nat)
  | deferredTrap (k : Nat)
  | latencyWriteback (k : Nat)
  | landingDataArrival (k : Nat) (n : Nat)
  | freezeTimeout (k : Nat) (n : Nat)
  | commandRecordEntry (u : Nat) (q : Queue)
  | slipStop (u : Nat)
  | secondaryForcedIssue (u : Nat)
  | cbProducerCompletion (u : Nat) (n : Nat)
  | cbConsumerCompletion (u : Nat) (n : Nat)
  | takeFlip (c : Nat)
  | cbpopGrant (u : Nat) (n : Nat)
  | deliveredResultWrite (k : Nat)
  | cbcfgApply (c : Nat)
  | completionRecord (c : Nat)
  | ttinvCompletion (c : Nat)
  | portAccess (n : Nat)
  | tileTableMiss (n : Nat)
  | pageAnswer (tag : Nat) (ok : Bool) (entry : Word)
  | uncorrectableHbmError (die : Nat) (frame : Nat)
  | bankAccess (n : Nat)
  | dmUncorrectableError (die : Nat) (line : Nat)
  | monitorWake (k : Nat)
  | barrierCompletion (die : Nat) (obj : Nat)
  | superstepCompletion (die : Nat) (obj : Nat)
  | putArrival (n : Nat)
  | pairFire (c : Nat)
  | chainCommit (c : Nat)
  | mvGroupCommit (c : Nat)
  | charmCompletion (c : Nat)
  | charmWrite (c : Nat)
  | boundQueueWord (c : Nat) (qb : Bool)
  | requestInject (u : Nat)
  | remoteRequestReceive (r : RemoteReq)
  | remoteReply (r : RemoteReply)
  | retransmitTimeout (n : Nat)
  | circuitFlitArrival (port circ : Nat) (ws : List Word)
  | sendFifoPartialFlush (k : Nat) (col : Nat) (n : Nat)
  | unsafeMapUpdate (links : List Nat)
  | laneRetirement (link : Nat) (out : Bool)
  | beadTableCommit
  | mailboxGrant (n : Nat) (inc : Option ParcelIn)
  | parcelArrival (n : Nat)
  | parcelDeliveryAck (n : Nat) (status : Nat)
  | schedulingPoint (die : Nat)
  | urgentStop (k : Nat) (why : StopWhy)
  | roleSwap (u : Nat)
  | sliceEndEviction (k : Nat)
  | antiStarvationRaise (k : Nat)
  | launchEnd (l : Nat)
  | deadlineExpiry (l : Nat)
  | wrapupBudgetExpiry (k : Nat)
  | waittLimitExpiry (k : Nat)
  | firmwareCycleWalk (k : Nat)
  | debugHaltRequest (k : Nat) (sess : Nat)
  | debugResume (k : Nat) (sess : Nat)
  | locketCancel (k : Nat) (mask : Word) (sess : Nat)
  | debuggerRegisterWrite (k : Nat) (col : Nat) (file : Nat) (n : Nat) (val : VWord) (sess : Nat)
  | coreSplitWrite (c : Nat) (w : Lane)
  | bankFmtWrite (c : Nat) (n : Nat) (w : Lane) (alloc : Word)
  | registerWrite (k : Nat) (col : Nat) (num : Nat) (w : Word)
  | doorbell (vf : Nat) (q : Nat) (w : Lane)
  | queueIdleUnmap (vf : Nat) (q : Nat)
  | nopPacket (vf : Nat) (q : Nat)
  | launch (vf : Nat) (q : Nat) (obj : CodeObj)
  | barrierAnd (vf : Nat) (q : Nat)
  | barrierAndEvaluation (vf : Nat) (q : Nat)
  | signal (vf : Nat) (q : Nat)
  | copy (vf : Nat) (q : Nat)
  | segtab (vf : Nat) (q : Nat)
  | segmentCopyComplete (u : Nat) (half : Bool)
  | frontEndTick
  | tokenBucketEmpty (vf : Nat)
  | frontEndWake (k : Nat)
  | queueReset (vf : Nat) (q : Nat) (sess : Nat)
  | queueDestroy (vf : Nat) (q : Nat) (sess : Nat)
  | tableUpdate (vf : Nat) (tid : Nat) (tile : Nat) (entry : Word)
  | lockstepMismatch (die : Nat)
  | workerFailure (die : Nat) (w : Nat)
  | vfRecord (vf : Nat) (ws : List Word) (sess : Nat)
  | vfReset (vf : Nat) (sess : Nat)
  | interfaceLock (vf : Nat) (sess : Nat)
  | interfaceStart (vf : Nat) (sess : Nat)
  | interfaceStop (vf : Nat) (sess : Nat)
  | sessionEnd (sess : Nat)
  | getMeasurements
  | tileMove (m : TileMove)
  | preCopyRound (n : Nat) (vf : Nat) (dest : Nat) (sess : Nat)
  | finalRound (n : Nat)
  | activation (n : Nat) (inc : Option MigIn) (sess : Nat)
  | migrationEnd (n : Nat) (cause : Nat)
  | bringUp (img : BootImage)
  | recoveryBootImage (img : BootImage)
  | ptpSync (tai : Nat)
  | timeUnlocked
  | healthMonitorSample (die : Nat) (temps : List Nat) (railBad : Bool) (process : Nat) (corrected : List (Nat × Nat))
  | healthReport (sess : Nat)
  | fatalEvent (die : Nat) (why : FatalWhy)
  | fatalNodump
  | resetPackage (sess : Nat)
  | stripTransferCompletion (c : Nat)
  | dispenserAccess (n : Nat)
  | endpointPacketArrival (src die : Nat) (dst : Word) (vf : Nat) (ws : List Word)
  | spdmSessionStart (sess : Nat) (bind : Option Nat)
  deriving DecidableEq, Repr

/-- The step an event is. -/
def Event.instr : Event → Instr
  | .none => .nop 0
  | .bundlePresentation .. => .bundlePresentation
  | .deferredTrap .. => .deferredTrap
  | .latencyWriteback .. => .latencyWriteback
  | .landingDataArrival .. => .landingDataArrival
  | .freezeTimeout .. => .freezeTimeout
  | .commandRecordEntry .. => .commandRecordEntry
  | .slipStop .. => .slipStop
  | .secondaryForcedIssue .. => .secondaryForcedIssue
  | .cbProducerCompletion .. => .cbProducerCompletion
  | .cbConsumerCompletion .. => .cbConsumerCompletion
  | .takeFlip .. => .takeFlip
  | .cbpopGrant .. => .cbpopGrant
  | .deliveredResultWrite .. => .deliveredResultWrite
  | .cbcfgApply .. => .cbcfgApply
  | .completionRecord .. => .completionRecord
  | .ttinvCompletion .. => .ttinvCompletion
  | .portAccess .. => .portAccess
  | .tileTableMiss .. => .tileTableMiss
  | .pageAnswer .. => .pageAnswer
  | .uncorrectableHbmError .. => .uncorrectableHbmError
  | .bankAccess .. => .bankAccess
  | .dmUncorrectableError .. => .dmUncorrectableError
  | .monitorWake .. => .monitorWake
  | .barrierCompletion .. => .barrierCompletion
  | .superstepCompletion .. => .superstepCompletion
  | .putArrival .. => .putArrival
  | .pairFire .. => .pairFire
  | .chainCommit .. => .chainCommit
  | .mvGroupCommit .. => .mvGroupCommit
  | .charmCompletion .. => .charmCompletion
  | .charmWrite .. => .charmWrite
  | .boundQueueWord .. => .boundQueueWord
  | .requestInject .. => .requestInject
  | .remoteRequestReceive .. => .remoteRequestReceive
  | .remoteReply .. => .remoteReply
  | .retransmitTimeout .. => .retransmitTimeout
  | .circuitFlitArrival .. => .circuitFlitArrival
  | .sendFifoPartialFlush .. => .sendFifoPartialFlush
  | .unsafeMapUpdate .. => .unsafeMapUpdate
  | .laneRetirement .. => .laneRetirement
  | .beadTableCommit => .beadTableCommit
  | .mailboxGrant .. => .mailboxGrant
  | .parcelArrival .. => .parcelArrival
  | .parcelDeliveryAck .. => .parcelDeliveryAck
  | .schedulingPoint .. => .schedulingPoint
  | .urgentStop .. => .urgentStop
  | .roleSwap .. => .roleSwap
  | .sliceEndEviction .. => .sliceEndEviction
  | .antiStarvationRaise .. => .antiStarvationRaise
  | .launchEnd .. => .launchEnd
  | .deadlineExpiry .. => .deadlineExpiry
  | .wrapupBudgetExpiry .. => .wrapupBudgetExpiry
  | .waittLimitExpiry .. => .waittLimitExpiry
  | .firmwareCycleWalk .. => .firmwareCycleWalk
  | .debugHaltRequest .. => .debugHaltRequest
  | .debugResume .. => .debugResume
  | .locketCancel .. => .locketCancel
  | .debuggerRegisterWrite .. => .debuggerRegisterWrite
  | .coreSplitWrite .. => .coreSplitWrite
  | .bankFmtWrite .. => .bankFmtWrite
  | .registerWrite .. => .registerWrite
  | .doorbell .. => .doorbell
  | .queueIdleUnmap .. => .queueIdleUnmap
  | .nopPacket .. => .nopPacket
  | .launch .. => .launch
  | .barrierAnd .. => .barrierAnd
  | .barrierAndEvaluation .. => .barrierAndEvaluation
  | .signal .. => .signal
  | .copy .. => .copy
  | .segtab .. => .segtab
  | .segmentCopyComplete .. => .segmentCopyComplete
  | .frontEndTick => .frontEndTick
  | .tokenBucketEmpty .. => .tokenBucketEmpty
  | .frontEndWake .. => .frontEndWake
  | .queueReset .. => .queueReset
  | .queueDestroy .. => .queueDestroy
  | .tableUpdate .. => .tableUpdate
  | .lockstepMismatch .. => .lockstepMismatch
  | .workerFailure .. => .workerFailure
  | .vfRecord .. => .vfRecord
  | .vfReset .. => .vfReset
  | .interfaceLock .. => .interfaceLock
  | .interfaceStart .. => .interfaceStart
  | .interfaceStop .. => .interfaceStop
  | .sessionEnd .. => .sessionEnd
  | .getMeasurements => .getMeasurements
  | .tileMove .. => .tileMove
  | .preCopyRound .. => .preCopyRound
  | .finalRound .. => .finalRound
  | .activation .. => .activation
  | .migrationEnd .. => .migrationEnd
  | .bringUp .. => .bringUp
  | .recoveryBootImage .. => .recoveryBootImage
  | .ptpSync .. => .ptpSync
  | .timeUnlocked => .timeUnlocked
  | .healthMonitorSample .. => .healthMonitorSample
  | .healthReport .. => .healthReport
  | .fatalEvent .. => .fatalEvent
  | .fatalNodump => .fatalNodump
  | .resetPackage .. => .resetPackage
  | .stripTransferCompletion .. => .stripTransferCompletion
  | .dispenserAccess .. => .dispenserAccess
  | .endpointPacketArrival .. => .endpointPacketArrival
  | .spdmSessionStart .. => .spdmSessionStart

/-- Why a step ends in a fault. -/
inductive Fault where
  /-- step raises it when the package has stopped after a fatal event and nothing is left to happen (26 R429). Safe:
  the spec gives no further behaviour before the next reset, and none is claimed. -/
  | packageStopped
  deriving DecidableEq, Repr

/-- Why an instruction has no meaning. -/
inductive Refusal where
  /-- exec raises it for an instruction this model gives no meaning. Safe: nothing is claimed of it. -/
  | notModelled (mnemonic : String)
  deriving DecidableEq, Repr

/-- The package (00 R1). `fg` and `col` are the task and the unit-local column whose word runs; `issue` holds the words
of the presented bundle still to run; `ctl` what they have decided. `bg` holds every other task by key, `units` by
core and unit, `cores` by die and core; `mem` is all memory (Machine/Ops.lean gives the numbering). `monitors` holds the sleepers
whose monitors are in a bank's slots, `overflow` those in a die's overflow list, with their banks (16 R286); `mail` the
messages in the front ends' mailboxes (24 R393). `agenda` holds the events that may happen next, `ev` is the event that
happens, `turns` holds the streams, primary or secondary of a unit, that have still to be presented in this cycle,
`choice` feeds the free choices (log 3), `nid` numbers records and accesses. -/
structure State where
  fg     : Task
  col    : Nat
  issue  : List (Nat × Instr)
  ctl    : Ctl
  bg     : FMap Task
  units  : FMap UnitSt
  cores  : FMap CoreSt
  mem    : List Host.Cell
  lsOwn  : FMap (BitVec 8)
  lsPois : FMap Bool
  agenda : List Event
  ev     : Event
  turns  : List (Nat × Bool)
  choice : Nat
  nid    : Nat
  cycle  : Nat
  vfs      : FMap VfSt
  launches : FMap Launch
  clasp    : FMap (List ClaspE)
  claspFull : FMap Word
  dmPois   : FMap Bool
  monitors : FMap (List Nat)
  overflow : FMap (List (Nat × Nat))
  hbmGen   : FMap Nat
  tai      : Nat
  out      : List OutMsg
  reqs     : List Req
  heldPuts : List Req
  flight   : List Flight
  ports    : FMap PortSt
  pages    : List PageReq
  tickets  : FMap Ticket
  chans    : FMap Chan
  strips   : FMap Strip
  charms   : FMap Charm
  bars     : List Barr
  parcels  : FMap Parcel
  mailbox  : FMap (List Nat)
  xfers    : List Xfer
  pod      : Pod
  fab      : FabSt
  counters : FMap Nat
  frames   : FMap Frame
  queues   : FMap QueueSt
  segs     : List SegTab
  pmap     : PMap
  fw       : FwSt
  mail     : List FeMsg
  migs     : List Mig
  deriving DecidableEq, Repr

/-- The package right after reset. -/
def State.reset : State :=
  { fg := Task.zero, col := 0, issue := [], ctl := Ctl.none, bg := [], units := [], cores := [], mem := [],
    lsOwn := [], lsPois := [], agenda := [], ev := .none, turns := [], choice := 0, nid := 1, cycle := 0,
    vfs := [], launches := [], clasp := [], claspFull := [], dmPois := [], monitors := [], overflow := [], hbmGen := [], tai := 0, out := [],
    reqs := [], heldPuts := [], flight := [], ports := [], pages := [], tickets := [],
    chans := [], strips := [], charms := [], bars := [],
    parcels := [], mailbox := [], xfers := [], pod := ⟨1, 1, 1, 0, 0, 0⟩, fab := FabSt.zero, counters := [],
    frames := [], queues := [], segs := [], pmap := ⟨[], [], [], [], [], []⟩, fw := FwSt.zero,
    mail := [], migs := [] }

end Sys2Proof.Machine
end

