-- ==== Sys2Proof/Machine/Base.lean ====
section
/-!
DEFINITION. The plain operations over the state: bytes and memory, the tasks and their banks, units and cores, exposed
writes. Everything else reaches registers and memory through these.
-/
namespace Sys2Proof.Machine

/-! Bytes, words, lanes. -/

/-- Bytes of a number, least significant first (03 R30, 04 R74). -/
def bytesOf : Nat → Nat → List Byte
  | 0, _ => []
  | n + 1, x => BitVec.ofNat 8 x :: bytesOf n (x / 256)
/-- The number that bytes give, least significant first. -/
def ofBytes : List Byte → Nat
  | [] => 0
  | b :: r => b.toNat + 256 * ofBytes r
/-- Lane n of a vector (07 R148). -/
def lane (v : VWord) (n : Nat) : Lane := v.extractLsb' (32 * n) 32
/-- The 32 lanes of a vector, from lane 0. -/
def lanes (v : VWord) : List Lane := (List.range 32).map (lane v)
/-- The number whose 32-bit digits are the lanes. -/
def lanesNat : List Lane → Nat
  | [] => 0
  | x :: r => x.toNat + 4294967296 * lanesNat r
/-- A vector from its lanes. -/
def ofLanes (l : List Lane) : VWord := BitVec.ofNat 1024 (lanesNat l)
/-- Bits hi:lo of a number (00 R5). -/
def bits (x hi lo : Nat) : Nat := x / 2 ^ lo % 2 ^ (hi + 1 - lo)
/-- A field of n bits read as two's complement. -/
def sext (n x : Nat) : Int := if 2 ^ (n - 1) ≤ x % 2 ^ n then (x % 2 ^ n : Nat) - 2 ^ n else (x % 2 ^ n : Nat)
/-- A 64-bit word of an integer, modulo 2^64. -/
def wordOf (i : Int) : Word := BitVec.ofInt 64 i
/-- A word with bits hi:lo replaced by a number. -/
def putBits (w : Word) (hi lo x : Nat) : Word :=
  BitVec.ofNat 64 (w.toNat - bits w.toNat hi lo * 2 ^ lo + x % 2 ^ (hi + 1 - lo) * 2 ^ lo)

/-! Memory (02 R30): one list of cells. HBM, DM, LS and instruction memory each have a range of numbers (log 11). What
an unlisted address reads as is 0 (log 4). -/

/-- A byte of a die's HBM by physical address. -/
def hbmNo (die pa : Nat) : Nat := die * 1099511627776 + pa
/-- A byte of a die's DM by physical address (16 R280). -/
def dmNo (die pd : Nat) : Nat := 17592186044416 + die * 134217728 + pd
/-- A byte of a core's LS. -/
def lsNo (core b : Nat) : Nat := 35184372088832 + core * 4194304 + b
/-- A byte of a column's instruction memory (04 R74). -/
def imemNo (core phys b : Nat) : Nat := 70368744177664 + (core * 4 + phys) * 98304 + b

/-- What an unlisted address reads as (log 4). -/
def Memory.dflt : Byte := 0
/-- The canonical form of memory. -/
abbrev Memory.wf (m : List Host.Cell) : Prop := fwf Memory.dflt m = true
/-- Read a byte. -/
def State.byte (s : State) (a : Nat) : Byte := fget Memory.dflt s.mem a
/-- Write a byte. -/
def State.setByte (s : State) (a : Nat) (b : Byte) : State := { s with mem := fset Memory.dflt s.mem a b }
/-- Read n bytes upward. -/
def State.bytes (s : State) (a : Nat) : Nat → List Byte
  | 0 => []
  | n + 1 => s.byte a :: s.bytes (a + 1) n
/-- Write bytes upward. -/
def State.setBytes (s : State) (a : Nat) : List Byte → State
  | [] => s
  | b :: r => (s.setByte a b).setBytes (a + 1) r
/-- Read an n-byte number. -/
def State.num (s : State) (a n : Nat) : Nat := ofBytes (s.bytes a n)
/-- Write an n-byte number. -/
def State.setNum (s : State) (a n x : Nat) : State := s.setBytes a (bytesOf n x)

/-! Tasks. -/

/-- A task by key. -/
def State.task (s : State) (k : Nat) : Task := if s.fg.key = k then s.fg else fget Task.zero s.bg k
/-- Replace a task. -/
def State.setTask (s : State) (t : Task) : State :=
  if s.fg.key = t.key then { s with fg := t } else { s with bg := fins s.bg t.key t }
/-- Replace a task by a function of it. -/
def State.mapTask (s : State) (k : Nat) (f : Task → Task) : State :=
  if s.fg.key = k then { s with fg := f s.fg } else { s with bg := fins s.bg k (f (fget Task.zero s.bg k)) }
/-- Every task of the package. -/
def State.tasks (s : State) : List Task := s.fg :: fvals s.bg
/-- Make a task the foreground one; the former goes to the background. -/
def State.bring (s : State) (k : Nat) : State :=
  if s.fg.key = k then s
  else
    let t := fget Task.zero s.bg k
    { s with fg := { t with key := k }, bg := if s.fg.key = 0 then fdel s.bg k else fdel (fins s.bg s.fg.key s.fg) k }
/-- A task that is resident on a unit. -/
def Task.resident (t : Task) : Bool := decide (t.state = .primary) || decide (t.state = .secondary)
/-- A task that has not ended and is not the empty one. -/
def Task.alive (t : Task) : Bool :=
  decide (t.key ≠ 0) && decide (t.state ≠ .retired) && decide (t.state ≠ .killed) && decide (t.state ≠ .never)
/-- A handler is running (08 Table 08.3 ACTIVE). -/
def Task.active (t : Task) : Bool := t.trapCause.getLsbD 15
/-- The launch of a task. -/
def State.launchOf (s : State) (t : Task) : Launch := fget Launch.zero s.launches t.launch
/-- A VF's registers. -/
def State.vf (s : State) (n : Nat) : VfSt := fget VfSt.zero s.vfs n
/-- Replace a VF's registers. -/
def State.setVf (s : State) (n : Nat) (v : VfSt) : State := { s with vfs := fset VfSt.zero s.vfs n v }

/-- A column's bank of a task. -/
def Task.bank (t : Task) (c : Nat) : ColBank := vget ColBank.zero t.banks c
/-- Replace a column's bank. -/
def Task.setBank (t : Task) (c : Nat) (b : ColBank) : Task := { t with banks := vset t.banks c b }
/-- The bank of the column whose word runs. -/
def State.bank (s : State) : ColBank := s.fg.bank s.col
/-- Replace the bank of the column whose word runs. -/
def State.setBank (s : State) (b : ColBank) : State := { s with fg := s.fg.setBank s.col b }

/-! Units and cores. A core is die · 36 + its number (01 R9), a unit is core · 4 + its number, a physical column of the
package is core · 4 + its number. -/

/-- The core of a unit. -/
def coreOf (u : Nat) : Nat := u / 4
/-- The die of a unit. -/
def dieOf (u : Nat) : Nat := u / 144
/-- The physical column of a unit's local column (01 R12). -/
def physCol (u width c : Nat) : Nat := u / 4 * 4 + u % 4 * width + c
/-- The physical column whose word runs. -/
def State.phys (s : State) : Nat := physCol s.fg.unit s.fg.width s.col
/-- A unit. -/
def State.unit (s : State) (u : Nat) : UnitSt := fget UnitSt.zero s.units u
/-- Replace a unit. -/
def State.setUnit (s : State) (u : Nat) (x : UnitSt) : State := { s with units := fset UnitSt.zero s.units u x }
/-- Replace a unit by a function of it. -/
def State.mapUnit (s : State) (u : Nat) (f : UnitSt → UnitSt) : State := s.setUnit u (f (s.unit u))
/-- A core. -/
def State.core (s : State) (c : Nat) : CoreSt := fget CoreSt.zero s.cores c
/-- Replace a core. -/
def State.setCore (s : State) (c : Nat) (x : CoreSt) : State := { s with cores := fset CoreSt.zero s.cores c x }
/-- Columns of a unit under a WIDTH value (01 Table 01.2). -/
def widthCols (w : Nat) : Nat := if w = 1 then 4 else if w = 2 then 2 else 1

/-- The narrow unit of a front-end core of a die: core 0 stands for the lock-step pair, cores 1 to 4 are the workers (24 R392). -/
def frontUnit (die core : Nat) : Nat := 4 * (432 + die * 5 + core)
/-- A task is the program of a front-end core. -/
def Task.front (t : Task) : Bool := decide (1728 ≤ t.unit)

/-! The agenda and the free choices (log 3). -/

/-- Put an event on the agenda unless it is there. -/
def State.soon (s : State) (e : Event) : State :=
  if s.agenda.elem e then s else { s with agenda := s.agenda ++ [e] }
/-- Take a free choice. -/
def State.choose (s : State) : Nat × State := (Config.pick s.choice, { s with choice := s.choice + 1 })
/-- A fresh number for a record or an access. -/
def State.fresh (s : State) : Nat × State := (s.nid, { s with nid := s.nid + 1 })
/-- Send a message out of the package. -/
def State.send (s : State) (m : OutMsg) : State := { s with out := s.out ++ [m] }
/-- Now() of 26 R426 in ns. -/
def State.now (s : State) : Nat := s.tai + s.cycle / 2

/-! Exposed writes (03 R62, R64). -/

/-- Insert behind every write due no later: writes to take effect together keep program order. -/
def insPend (x : Pend) : List Pend → List Pend
  | [] => [x]
  | y :: r => if x.due < y.due then x :: y :: r else y :: insPend x r
/-- Add writes in order. -/
def addPends (l : List Pend) (xs : List Pend) : List Pend := xs.foldl (fun acc x => insPend x acc) l
/-- A write by the running word: latency, write, flags of 05 R96. -/
def State.post (s : State) (lat : Nat) (w : RegWrite) (flags : Lane := 0) : State :=
  { s with fg := { s.fg with pend := insPend ⟨s.fg.dist + lat, s.col, w, flags⟩ s.fg.pend } }

/-- The register a write names, as file and number, for the checks of 03 R65 and R70. -/
def RegWrite.dest : RegWrite → Nat × Nat
  | .i n _ => (0, n) | .v n _ => (1, n) | .p n _ => (2, n) | .k n _ => (3, n)
  | .mp n _ => (5, n) | .ce n _ => (6, n) | .ag n _ => (7, n) | .lc n _ => (7, 8 + n) | .ln _ => (7, 12)
  | .lq n _ => (0, 56 + n) | .sr n _ => (8, n) | .ib n _ => (9, n) | .rot _ => (9, 3) | .trap _ => (10, 0)

/-- LS bank n lies wholly within a task's allocation (05 R100). -/
def bankInside (t : Task) (n : Nat) : Bool :=
  decide (t.lsBase ≤ 128 * n) && decide (128 * n + 128 ≤ t.lsBase + t.lsSize)
/-- A BANK_FMT image that R100 takes: no reserved bit, an assigned code. -/
def fmtCodeOk (x : Nat) : Bool := decide (x ≤ 11)

/-- LS_WRAP, LS_OOB_TRAP and LS_OOB_FLAG of LS_CTL (06 Table 06.9). -/
def Task.lsWrap (t : Task) : Bool := t.lsCtl.getLsbD 2
def Task.lsOobTrap (t : Task) : Bool := t.lsCtl.getLsbD 1
def Task.lsOobFlag (t : Task) : Bool := t.lsCtl.getLsbD 0
/-- The next out-of-range LS access is the first one since LS_OOB_FLAG was 0: none stands in LS_CTL or is on its way. -/
def Task.oobArmed (t : Task) : Bool :=
  !t.lsOobFlag && !t.pend.any (fun x => match x.w with | .sr n _ => decide (n = 6) | _ => false)
/-- What a SETSR stores when it takes effect (06 R138): CHK_MODE, ARITH_FLAGS, LS_CTL. A TRAP or BKPT writes TRAP_ARG, an
LS access outside its range the sticky flag, 7, and the first one LS_OOB_ADDR too, 6 (06 R145); number 0 is the class that a
PRIO sets (22 R378), 1 sets SCOPE_DEMOTED (02 R35). -/
def Task.setSr (t : Task) (n : Nat) (w : Word) : Task :=
  if n = 0 then { t with cls := w.toNat }
  else if n = 1 then { t with demoted := true }
  else if n = 2 then { t with trapArg := w }
  else if n = 3 then { t with chk := BitVec.ofNat 32 (w.toNat % 2) }
  else if n = 4 then { t with arith := BitVec.ofNat 32 (w.toNat % 4) }
  else if n = 5 then { t with lsCtl := BitVec.ofNat 64 (w.toNat % 8) }
  else if n = 6 then { t with lsOob := w, lsCtl := t.lsCtl ||| 1 }
  else if n = 7 then { t with lsCtl := t.lsCtl ||| 1 }
  else t

/-- Rotate the index bases of a column and write the register newly named p8 (03 R61). -/
def ColBank.rotate (b : ColBank) (p8 : Bool) : ColBank :=
  let ibp := (b.ibp + 1) % 8
  { b with ibi := (b.ibi + 1) % 24, ibv := (b.ibv + 1) % 16, ibp := ibp, preg := vset b.preg (8 + ibp) p8 }

/-- A bank after a register write. Writes to p0 and k0 are discarded (03 R56). -/
def ColBank.write (b : ColBank) : RegWrite → ColBank
  | .i n w => { b with ireg := vset b.ireg n w }
  | .v n w => { b with vreg := vset b.vreg n w }
  | .p n x => if n = 0 then b else { b with preg := vset b.preg n x }
  | .k n m => if n = 0 then b else { b with kreg := vset b.kreg n m }
  | .mp n w => { b with mp := vset b.mp n w }
  | .ce n w => { b with ce := vset b.ce n w }
  | .ag n a => { b with ag := vset b.ag n a }
  | .lc n w => { b with lc := vset b.lc n w }
  | .ln w => { b with ln := w }
  | .lq n w =>
    let q := vget Lq.none b.lq n
    { b with lq := vset b.lq n { q with fifo := q.fifo ++ [w], quiet := 0 } }
  | .ib n x => if n = 0 then { b with ibi := x } else if n = 1 then { b with ibv := x } else { b with ibp := x }
  | .rot p8 => b.rotate p8
  | .sr _ _ => b
  | .trap _ => b

/-- One exposed write takes effect. -/
def Task.applyPend (t : Task) (x : Pend) : Task :=
  let t := t.setBank x.col ((t.bank x.col).write x.w)
  match x.w with
  | .sr n w => t.setSr n w
  | .trap c => { t with deferred := t.deferred ++ [⟨c, x.col⟩] }
  | _ => t

/-- The writes whose distance has come take effect: index bases first (03 R61), then the rest in order, then the
flags of 05 R96. -/
def Task.applyDue (t : Task) : Task :=
  let now := t.pend.filter (fun x => decide (x.due ≤ t.dist))
  let isIb (x : Pend) : Bool := match x.w with | .ib _ _ => true | _ => false
  let t := { t with pend := t.pend.filter (fun x => decide (t.dist < x.due)) }
  let t := (now.filter isIb ++ now.filter (fun x => !isIb x)).foldl Task.applyPend t
  { t with arith := now.foldl (fun f x => f ||| x.flags) t.arith }



/-! Landings (03 R66). -/

/-- The landing register of a landing whose bundle has come is written. -/
def Task.land1 (t : Task) (x : Landing) : Task :=
  let b := t.bank x.col
  let t := t.setBank x.col { b with lreg := vset b.lreg x.reg (x.data.getD 0) }
  match x.trap with
  | some c => { t with deferred := t.deferred ++ [⟨c, x.col⟩] }
  | none => t
/-- Landings whose bundle has come and whose data has arrived land, in order of issue. -/
def Task.landDue (t : Task) : Task :=
  let due (x : Landing) : Bool := decide (x.due ≤ t.dist) && x.data.isSome
  (t.land.filter due).foldl Task.land1 { t with land := t.land.filter (fun x => !due x) }
/-- A landing whose bundle has come without its data: the core freezes (03 R67), but not for a load that met a missing
page and will be issued again (R68). -/
def Landing.late (x : Landing) (dist : Nat) : Bool := decide (x.due ≤ dist) && x.data.isNone && !x.again
def Task.lateLanding (t : Task) : Bool := t.land.any (fun x => x.late t.dist)
/-- The core's issue logic is frozen by a landing whose bundle has come without its data (03 R67). -/
def State.frozen (s : State) (core : Nat) : Bool :=
  (List.range 4).any (fun n => [(s.unit (core * 4 + n)).prim, (s.unit (core * 4 + n)).sec].any (fun k =>
    decide (k ≠ 0) && (s.task k).lateLanding && decide ((s.task k).stop = .run)))
/-- Give a landing its data, in flight or in a snapshot. -/
def giveData (l : List Landing) (id : Nat) (d : VWord) (trap : Option Nat) : List Landing :=
  l.map (fun x => if x.id = id then { x with data := some d, trap := trap, again := false } else x)
/-- A landing of an access that is issued again: it can freeze the core like any other (03 R68, 08 R179). -/
def reissued (l : List Landing) (id : Nat) : List Landing := l.map (fun x => if x.id = id then { x with again := false } else x)
def Task.reissue (t : Task) (id : Nat) : Task :=
  { t with land := reissued t.land id, work := { t.work with land := reissued t.work.land id },
           snap := { t.snap with land := reissued t.snap.land id } }
/-- Data reaches the column of a task's landing. -/
def Task.arrive (t : Task) (id : Nat) (d : VWord) (trap : Option Nat) : Task :=
  { t with land := giveData t.land id d trap, work := { t.work with land := giveData t.work.land id d trap },
           snap := { t.snap with land := giveData t.snap.land id d trap } }
/-- The next distance at which a write in flight, or a landing whose data has arrived, takes effect. -/
def Task.nextDue (t : Task) : Option Nat :=
  (t.pend.map (·.due) ++ (t.land.filter (fun x => x.data.isSome)).map (·.due)).foldl
    (fun a d => match a with | none => some d | some b => some (min b d)) none
/-- Send loaded data towards its column, which it reaches when contention lets it (03 R430). -/
def State.fly (s : State) (k id : Nat) (d : VWord) (trap : Option Nat) : State :=
  State.soon { s with flight := s.flight ++ [⟨k, id, d, trap⟩] } (.landingDataArrival k id)
/-- A new landing of the running word. -/
def State.landing (s : State) (id reg off : Nat) : State :=
  { s with fg := { s.fg with land := s.fg.land ++ [⟨id, s.fg.dist + off, s.col, reg, none, none, 0, false⟩] } }

/-! Deferred traps (08 R171). -/

/-- A completing operation raises a trap in a task. -/
def State.raise (s : State) (k cause col : Nat) : State :=
  s.mapTask k (fun t => { t with deferred := t.deferred ++ [⟨cause, col⟩] })

end Sys2Proof.Machine
end

