-- ==== Sys2Proof/Machine/Access.lean ====
section
/-!
DEFINITION. Task accesses between their issue and their performing: the order in which they may perform (02 R30 to R33),
and the LS accesses, which perform as soon as that order lets them (log 7).
-/
namespace Sys2Proof.Machine

/-! The order of a task's accesses. -/

/-- A home that may hold a tensor word whose page is not there yet. -/
def Home.tensor : Home → Bool
  | .hbm _ | .unmapped => true
  | _ => false
/-- The words of two accesses overlap; a tensor word without a page may be any tensor word (log 12). -/
def sameWord (a b : Acc) : Bool :=
  if a.home = .unmapped ∨ b.home = .unmapped then a.home.tensor && b.home.tensor
  else decide (a.home = b.home) && decide (a.addr / 8 ≤ (b.addr + b.size - 1) / 8) &&
    decide (b.addr / 8 ≤ (a.addr + a.size - 1) / 8)
/-- The accesses of a list before a number. -/
def before (l : List Acc) (id : Nat) : List Acc := l.takeWhile (fun a => decide (a.id ≠ id))
/-- The earlier accesses that an access must let perform first (02 R31, R33): those of its class and those a fence
orders, but for a store to another word when it only loads. -/
def Acc.blockers (a : Acc) (earlier : List Acc) : List Acc :=
  earlier.filter (fun b =>
    (decide (b.cls = a.cls) || a.ord.elem b.id) && !(a.ld && !a.st && b.st && !b.ld && !sameWord a b))
/-- The bytes of a load that an earlier store of the task covers; of tensor words without a page nothing says so (log 12). -/
def covered (a b : Acc) : Option (List Byte) :=
  if a.home = b.home ∧ a.home ≠ .unmapped ∧ b.addr ≤ a.addr ∧ a.addr + a.size ≤ b.addr + b.val.length then
    some ((b.val.drop (a.addr - b.addr)).take a.size)
  else none
/-- Whether an access may perform now: at its home, or, for a load, from the task's store path (02 R30), or not yet. -/
inductive May where
  | home
  | path (bs : List Byte)
  | no
  deriving DecidableEq, Repr
/-- The order of 02 R30 and R31 for an access after some earlier ones that have not performed. -/
def Acc.may (a : Acc) (earlier : List Acc) : May :=
  match (a.blockers earlier).reverse with
  | [] => .home
  | b :: rest =>
    if a.ld && !a.st && b.st && !b.ld && rest.all (fun c => c.st && !c.ld) then
      match covered a b with | some bs => .path bs | none => .no
    else .no
/-- The same for an access number of a task. -/
def Task.may (t : Task) (id : Nat) : May :=
  match t.accs.find? (fun a => decide (a.id = id)) with
  | none => .home
  | some a => a.may (before t.accs id)
/-- The earlier accesses that a task's fences order before an access of a class (02 R33). -/
def Task.fencedBy (t : Task) (cls : Nat) : List Nat :=
  t.fences.flatMap (fun f => if f.mask.getLsbD cls then f.loads ++ f.stores ++ f.strict else [])
/-- An access of the foreground task as it would take its place now. -/
def State.newAcc (s : State) (id cls : Nat) (ld st : Bool) (home : Home) (addr size : Nat) (val : List Byte) : Acc :=
  ⟨id, cls, ld, st, home, addr, size, val, s.fg.fencedBy cls⟩
/-- Register an access of the running word. -/
def State.access (s : State) (id cls : Nat) (ld st : Bool) (home : Home) (addr size : Nat) (val : List Byte) : State :=
  { s with fg := { s.fg with accs := s.fg.accs ++ [s.newAcc id cls ld st home addr size val] } }
/-- An access of a task leaves its order, and the fences that wait for it. -/
def Task.dropAcc (t : Task) (id : Nat) : Task :=
  { t with accs := t.accs.filter (fun a => decide (a.id ≠ id)),
           fences := (t.fences.map (fun f =>
             { f with loads := f.loads.filter (· ≠ id), stores := f.stores.filter (· ≠ id),
                      strict := f.strict.filter (· ≠ id) })).filter
             (fun f => !(f.loads.isEmpty && f.stores.isEmpty && f.strict.isEmpty)) }

/-! LS (06 R145). -/

/-- The landing value of loaded bytes: from byte 0 of lane 0 upward, zero in the rest (06 R143). -/
def landVal (bs : List Byte) : VWord := BitVec.ofNat 1024 (ofBytes bs)
/-- The poison bit of an LS tile by core and physical tile (10 R194). -/
def State.tilePoisoned (s : State) (core tile : Nat) : Bool := fget false s.lsPois (core * 1024 + tile)
/-- What an LS load of a core brings: its bytes, or zeros and a trap from a poisoned tile. -/
def State.lsLoad (s : State) (core b size : Nat) (m : May) : VWord × Option Nat :=
  match m with
  | .path bs => (landVal bs, none)
  | _ => if s.tilePoisoned core (b / 4096) then (0, some 0x12) else (landVal (s.bytes (lsNo core b) size), none)
/-- An LS access that has waited performs; `addr` of its request is the byte of its core's LS, `dst` the core. -/
def State.lsPerform (s : State) (r : Req) (m : May) : State :=
  let s := match r.kind with
    | .lsStore => s.setBytes (lsNo r.dst r.addr) r.val
    | _ =>
      let (d, trap) := s.lsLoad r.dst r.addr r.size m
      s.fly r.task r.id d trap
  State.mapTask { s with reqs := s.reqs.filter (fun q => decide (q.id ≠ r.id)) } r.task (fun t => t.dropAcc r.id)
/-- The waiting LS accesses of a task that may now perform do so, in order. -/
def State.lsFlow (s : State) (k : Nat) : Nat → State
  | 0 => s
  | n + 1 =>
    match s.reqs.find? (fun r => decide (r.task = k) && (decide (r.kind = .lsLoad) || decide (r.kind = .lsStore)) &&
        decide ((s.task k).may r.id ≠ .no)) with
    | some r => (s.lsPerform r ((s.task k).may r.id)).lsFlow k n
    | none => s
/-- An access has performed, or is gone; the LS accesses that waited for it perform. -/
def State.performed (s : State) (k id : Nat) : State :=
  (s.mapTask k (fun t => t.dropAcc id)).lsFlow k s.reqs.length
/-- Several of them. -/
def State.performedAll (s : State) (k : Nat) (ids : List Nat) : State := ids.foldl (fun s id => s.performed k id) s
/-- A store to an LS tile that is an agent's now has still to perform: the agent does not read the tile before it has
(01 R21). -/
def State.lsStores (s : State) (core : Nat) : Bool :=
  s.reqs.any (fun r => decide (r.kind = .lsStore) && decide (r.dst = core) && (fget 0 s.lsOwn (core * 1024 + r.addr / 4096)).getLsbD 7)
/-- A task has LS accesses that have still to perform. -/
def State.lsWaiting (s : State) (k : Nat) : Bool :=
  s.reqs.any (fun r => decide (r.task = k) && (decide (r.kind = .lsLoad) || decide (r.kind = .lsStore)))

end Sys2Proof.Machine
end

