-- ==== Sys2Proof/Machine/Kill.lean ====
section
/-!
DEFINITION. VF memory (11 R213, R219), the removal of a task's records, edges and resources, and the end of a task by
retirement or kill (21 R357, R358, 22 R375).
-/
namespace Sys2Proof.Machine

/-! HBM behind a port: the segment comparator and the encryption of blocks. -/

/-- The port's segment comparator (11 R213): the die and physical address of a VF address, none when it refuses. -/
def State.segment (s : State) (vf a : Nat) : Option (Nat × Nat) :=
  let d := bits a 43 40
  let f := bits a 39 0
  let v := s.vf vf
  if d < 12 ∧ f < vget 0 v.segBound d * 2097152 then some (d, vget 0 v.segBase d * 2097152 + f) else none
/-- The key under which a VF's blocks are written now (11 R219); 0 marks a block nothing has written. -/
def State.keyNo (s : State) (vf : Nat) : Nat := vf * 4294967296 + (s.vf vf).keyGen + 1
/-- A byte of HBM read under a key: of a block written under another key, the decryption is free (log 5). -/
def State.hbmByte (s : State) (key a : Nat) : Byte :=
  let g := fget 0 s.hbmGen (a / 16)
  if g = 0 ∨ g = key then s.byte a else Config.garble g key a
/-- Bytes of HBM read under a key. -/
def State.hbmBytes (s : State) (key a : Nat) : Nat → List Byte
  | 0 => []
  | n + 1 => s.hbmByte key a :: s.hbmBytes key (a + 1) n
/-- A byte of HBM written under a key: the rest of its block is read, and written again, under the same key. -/
def State.setHbmByte (s : State) (key a : Nat) (b : Byte) : State :=
  let g := fget 0 s.hbmGen (a / 16)
  let s := if g = 0 ∨ g = key then s else s.setBytes (a / 16 * 16) (s.hbmBytes key (a / 16 * 16) 16)
  { s.setByte a b with hbmGen := fset 0 s.hbmGen (a / 16) key }
/-- Bytes of HBM written under a key. -/
def State.setHbmBytes (s : State) (key a : Nat) : List Byte → State
  | [] => s
  | b :: r => (s.setHbmByte key a b).setHbmBytes key (a + 1) r
/-- Read n bytes of VF memory; none when the comparator refuses. -/
def State.vfRead (s : State) (vf a n : Nat) : Option (List Byte) :=
  match s.segment vf a, s.segment vf (a + n - 1) with
  | some (d, p), some _ => some (s.hbmBytes (s.keyNo vf) (hbmNo d p) n)
  | _, _ => none
/-- Read an n-byte number of VF memory. -/
def State.vfNum (s : State) (vf a n : Nat) : Option Nat := (s.vfRead vf a n).map ofBytes
/-- Write bytes of VF memory; none when the comparator refuses. -/
def State.vfWrite (s : State) (vf a : Nat) (bs : List Byte) : Option State :=
  match s.segment vf a, s.segment vf (a + bs.length - 1) with
  | some (d, p), some _ => some (s.setHbmBytes (s.keyNo vf) (hbmNo d p) bs)
  | _, _ => none
/-- The memory number of a VF's DM offset on a die (16 R280). -/
def State.dmAt (s : State) (vf die off : Nat) : Nat := dmNo die (vget 0 (s.vf vf).dmBase die * 32768 + off)
/-- Report an event of a VF to its host or to firmware (24 R411): sort and numbers. -/
def State.report (s : State) (vf sort : Nat) (ws : List Nat) : State := s.send (.host vf sort ws)

/-- Set an entry of a launch's validity map (22 R386, R387); none when the map word is refused. -/
def State.markValid (s : State) (l : Launch) (n code : Nat) : Option State :=
  let a := l.vmap + 8 * (n / 32)
  match s.vfNum l.vf a 8 with
  | some x => s.vfWrite l.vf a (bytesOf 8 (putBits (BitVec.ofNat 64 x) (2 * (n % 32) + 1) (2 * (n % 32)) code).toNat)
  | none => none

/-! Banks and monitors (16 R280, R286). -/

/-- The decoding of a physical DM address (16 R280): bank, line within the bank, byte within the line. -/
def dmBank (pd : Nat) : Nat := bits pd 14 6
def dmLine (pd : Nat) : Nat := bits pd 26 15
def dmByte (pd : Nat) : Nat := bits pd 5 0
/-- The bank of a DM byte by its memory number, counted through the package, as die · 512 + bank. -/
def bankNo (die a : Nat) : Nat := die * 512 + dmBank (a - dmNo die 0)
/-- The banks that n bytes touch. -/
def banksOf (die a n : Nat) : List Nat :=
  (List.range (min 512 ((a + n - 1) / 64 + 1 - a / 64))).map (fun k => bankNo die (64 * (a / 64 + k)))
/-- Arm a monitor of a sleeper on a DM word: in a slot of its bank, else in the die's overflow list (16 R286). -/
def State.arm (s : State) (e die a : Nat) : State :=
  let b := bankNo die a
  let l := fget [] s.monitors b
  if l.length < 16 then { s with monitors := fset [] s.monitors b (l ++ [e]) }
  else { s with overflow := fset [] s.overflow die (fget [] s.overflow die ++ [(b, e)]) }
/-- The monitors of a sleeper are gone. -/
def State.disarm (s : State) (e : Nat) : State :=
  { s with monitors := (s.monitors.map (fun m => (m.1, m.2.filter (· ≠ e)))).filter (fun m => !m.2.isEmpty),
           overflow := (s.overflow.map (fun m => (m.1, m.2.filter (fun x => decide (x.2 ≠ e))))).filter (fun m => !m.2.isEmpty) }
/-- A write of n bytes wakes a sleeper's monitor of a word: it touches the word, or any word of the bank of a monitor in
the overflow list. -/
def State.wakes (s : State) (die a n e w : Nat) : Bool :=
  (decide (w / 8 ≤ (a + n - 1) / 8) && decide (a / 8 ≤ w / 8)) ||
    (fget [] s.overflow die).any (fun x => decide (x.2 = e) && (banksOf die a n).elem x.1)

/-! Records. -/

/-- A word formed with the keep flag (01 R18). -/
def keeps : Instr → Bool
  | .cpy _ k => k.getLsbD 0
  | .cpyl _ _ _ k => k.getLsbD 0
  | .cpyq _ k _ => k.getLsbD 0
  | .kvcommit _ _ _ k => k.getLsbD 0
  | .tst _ _ k _ => k.getLsbD 0
  | .tstO _ _ _ k => k.getLsbD 0
  | .chfin _ k => k.getLsbD 0
  | .stsave _ _ _ k => k.getLsbD 0
  | _ => false
/-- Every record of a unit, slip window first. -/
def UnitSt.recs (u : UnitSt) : List Rec := u.slip ++ u.qChain ++ u.qCopy ++ u.qBank ++ u.qFabric
/-- Keep only the records that a test passes. -/
def UnitSt.filterRecs (u : UnitSt) (f : Rec → Bool) : UnitSt :=
  { u with slip := u.slip.filter f, qChain := u.qChain.filter f, qCopy := u.qCopy.filter f,
           qBank := u.qBank.filter f, qFabric := u.qFabric.filter f }
/-- Discard a task's records but those with the keep flag (01 R18), and the accesses and results they stood for, waiting
CBPOPs and CBPUSHes among them (10 R205). -/
def State.dropRecs (s : State) (t : Task) : State :=
  let gone := ((s.unit t.unit).recs.filter (fun r => decide (r.task = t.key) && !keeps r.ins)).map (fun r => r.acc)
  let s := s.mapUnit t.unit (fun u => { u.filterRecs (fun r => decide (r.task ≠ t.key) || keeps r.ins) with
    pops := u.pops.filter (fun r => decide (r.task ≠ t.key)), pushes := u.pushes.filter (fun r => decide (r.task ≠ t.key)) })
  (s.performedAll t.key gone).mapTask t.key (fun t => { t with results := [] })

/-! Clasp edges and locks. -/

/-- The effective class without raises (21 R348): its own, an inherited one, 3 in wrap-up code. -/
def Task.base (t : Task) : Nat := if t.expired || t.divert then 3 else max t.cls t.inherit
/-- The effective class (21 R348, R350). -/
def Task.eclass (t : Task) : Nat := if t.expired || t.divert then 3 else max t.base (min 3 (t.base + t.raises))
/-- The clasp table of a die. -/
def State.claspOf (s : State) (die : Nat) : List ClaspE := fget [] s.clasp die
/-- Replace it, dropping objects that no edge names, but for registered lock words (22 R360). -/
def State.setClasp (s : State) (die : Nat) (l : List ClaspE) : State :=
  let kept := l.filter (fun e => match e.sort with
    | .obj => decide (bits e.obj.toNat 63 60 = 0) ||
        l.any (fun x => decide (x.sort ≠ .obj) && decide (x.obj = e.obj) && decide (x.vf = e.vf))
    | _ => true)
  { s with clasp := fset [] s.clasp die kept }
/-- The dies of the package. -/
def dies : List Nat := List.range 12
/-- Remove every edge that a test picks, in every slice. -/
def State.dropEdges (s : State) (f : ClaspE → Bool) : State :=
  dies.foldl (fun s d => s.setClasp d ((s.claspOf d).filter (fun e => decide (e.sort = .obj) || !f e))) s
/-- The clasp object word of Table 22.3. -/
def objWord (kind die val : Nat) : Word := BitVec.ofNat 64 (kind * 2 ^ 60 + die * 2 ^ 56 + val)

/-! Barriers (01 R9). -/

/-- A task that counts as arrived at every later barrier: retired, killed or diverted (22 R370, 16 R293). -/
def Task.left (t : Task) : Bool :=
  decide (t.state = .retired) || decide (t.state = .killed) || t.expired || t.divert
/-- The quad of the package that a core belongs to. -/
def quadOf (core : Nat) : Nat := core / 36 * 9 + core % 36 / 4
/-- The instance of a scope that a task is in (02 R34): core, quad, die of the package; 0 above. -/
def Task.instOf (t : Task) (sc : Nat) : Nat :=
  match sc with
  | 1 => coreOf t.unit
  | 2 => quadOf (coreOf t.unit)
  | 3 => t.die
  | _ => 0
/-- A task is a member of a barrier's instance at this moment (01 R9). -/
def Barr.member (b : Barr) (t : Task) : Bool :=
  decide (t.key ≠ 0) && decide (t.launch = b.launch) && decide (t.instOf b.scope = b.inst) &&
    (decide (3 ≤ b.scope) ||
      ((decide (t.state = .primary) || decide (t.state = .secondary) || decide (t.state = .aside)) && !t.left))
/-- A member has arrived at the open barrier, or counts as arrived. -/
def Barr.arrived (b : Barr) (t : Task) : Bool :=
  b.arr.elem (b.count, t.key) || (decide (3 ≤ b.scope) && t.left)
/-- The die whose slice holds a barrier: the lowest-numbered die with a member (22 R360). -/
def State.barDie (s : State) (b : Barr) : Nat :=
  match b.scope with
  | 1 => b.inst / 36
  | 2 => b.inst / 9
  | 3 => b.inst
  | _ => (s.tasks.filter (fun t => decide (t.key ≠ 0) && decide (t.launch = b.launch))).foldl (fun a t => min a t.die) 11
/-- The VALUE of a barrier's object word, for sequence number k (22 Table 22.1). -/
def State.barValue (s : State) (b : Barr) (k : Nat) : Nat :=
  let inst := match b.scope with | 1 => b.inst % 36 | 2 => b.inst % 9 | _ => 0
  inst * 2 ^ 48 + (fget Launch.zero s.launches b.launch).lnum * 2 ^ 36 + b.step.toNat * 2 ^ 35 + b.scope * 2 ^ 32 + k % 2 ^ 32
/-- The object word of a barrier. -/
def State.barWord (s : State) (b : Barr) (k : Nat) : Word := objWord 3 (s.barDie b) (s.barValue b k)
/-- The barrier that an object word names, and its sequence number modulo 2^32. -/
def State.barOf (s : State) (w : Word) : Option Barr := s.bars.find? (fun b => decide (s.barWord b (bits w.toNat 31 0) = w))
/-- Complete the open barrier as long as every member has arrived and some task has (01 R9). -/
def State.evalBar (s : State) (b : Barr) : Nat → State × Barr
  | 0 => (s, b)
  | n + 1 =>
    if b.arr.any (fun a => decide (a.1 = b.count)) && s.tasks.all (fun t => !b.member t || b.arrived t) then
      let d := s.barDie b
      let v := s.barValue b b.count
      let s := s.soon (if b.step then .superstepCompletion d v else .barrierCompletion d v)
      s.evalBar { b with count := b.count + 1, arr := b.arr.filter (fun a => decide (a.1 ≠ b.count)) } n
    else (s, b)
/-! Holders and inheritance (22 R365). -/

/-- The object word a task sleeps on, if it has an edge to one. -/
def State.sleepWord (s : State) (t : Task) : Option Word :=
  match t.sleep with
  | none => none
  | some sl => match sl.obj with
    | .word d a => some (objWord 1 d (a - s.dmAt t.vf d 0))
    | .lock d a => some (objWord 0 d (a - s.dmAt t.vf d 0))
    | .ticket d n => some (objWord 2 d n)
    | .barrier d n | .super d n => some (objWord 3 d n)
/-- The tasks that hold an object: by edges, and the members of a barrier not yet arrived (22 Table 22.1). -/
def State.holders (s : State) (w : Word) (vf : Nat) : List Nat :=
  if bits w.toNat 63 60 = 3 then
    match s.barOf w with
    | some b => if b.count % 2 ^ 32 = bits w.toNat 31 0 then
        (s.tasks.filter (fun t => b.member t && !b.arrived t)).map Task.key else []
    | none => []
  else ((s.claspOf (bits w.toNat 59 56)).filter (fun e =>
    decide (e.sort = .hold) && decide (e.obj = w) && decide (e.vf = vf) && (s.task e.task).alive)).map (·.task)
/-- The greatest effective class among the waiters on the objects a task holds, one level. -/
def State.heirClass (s : State) (t : Task) : Nat :=
  dies.foldl (fun a d =>
    (s.claspOf d).foldl (fun a w =>
      if w.sort = .wait ∧ w.task ≠ t.key ∧ (s.holders w.obj w.vf).elem t.key then max a (s.task w.task).eclass else a) a) 0
/-- Recompute every inherited class until nothing changes: at most four classes rise along any chain (22 R365). -/
def State.inheritOnce (s : State) : State :=
  (s.tasks.map Task.key).foldl (fun s k => if k = 0 then s else
    let c := s.heirClass (s.task k)
    s.mapTask k (fun t => { t with inherit := c })) s
/-- A die makes a scheduling point (21 R349). -/
def State.schedule (s : State) (die : Nat) : State := s.soon (.schedulingPoint die)
/-- Inherited classes from scratch: all 0, then raised along chains as long as there are tasks. A class that changes brings a
scheduling point (21 R349). -/
def State.inheritAll (s : State) : State :=
  let was := s.tasks.filter (fun t => decide (t.key ≠ 0))
  let s := was.foldl (fun s t => s.mapTask t.key (fun t => { t with inherit := 0 })) s
  let s := (List.range (was.length + 1)).foldl (fun s _ => s.inheritOnce) s
  was.foldl (fun s t => if (s.task t.key).inherit = t.inherit then s else s.schedule t.die) s
/-- Evaluate every barrier of a launch. Its members that have not arrived hold it, so inherited classes follow (22 R365). -/
def State.evalBars (s : State) (launch : Nat) : State :=
  if s.bars.any (fun b => decide (b.launch = launch)) then
    (s.bars.foldl (fun s b =>
      if b.launch = launch then
        let (s, b') := s.evalBar b (b.arr.length + 1)
        { s with bars := s.bars.map (fun x => if x = b then b' else x) }
      else s) s).inheritAll
  else s
/-- A VF in the final round of a migration, or moved, starts no packet and no task (25 R421). -/
def State.leaving (s : State) (vf : Nat) : Bool := s.migs.any (fun m => decide (m.vf = vf) && decide (0 < m.round))
/-- A VF whose last state has gone to its new package: a waiting BARRIER_AND is evaluated there alone (24 R412). -/
def State.copied (s : State) (vf : Nat) : Bool := s.migs.any (fun m => decide (m.vf = vf) && decide (1 < m.round))
/-- End a sleep with a status code of 22 Table 22.6. -/
def State.endSleep (s : State) (k code : Nat) : State :=
  let t := s.task k
  match s.sleepWord t with
  | none => s
  | some w =>
    let s := (s.disarm k).dropEdges (fun e => decide (e.sort = .wait) && decide (e.task = k) && decide (e.obj = w))
    let s := s.mapTask k (fun t => { t with sleep := none, waitStat := putBits t.waitStat 2 0 code })
    s.inheritAll.schedule t.die
/-- The test of Table 22.9. -/
def waitTest (cond : Nat) (w v : Word) : Bool :=
  match cond with
  | 0 => decide (w = v) | 1 => decide (w ≠ v) | 2 => w.slt v | 3 => !w.slt v | 4 => w.ult v | 5 => !w.ult v
  | 6 => decide (w &&& v = 0) | _ => decide (w &&& v ≠ 0)
/-- A doubleword of memory. -/
def State.word (s : State) (a : Nat) : Word := BitVec.ofNat 64 (s.num a 8)
/-- A completed step of SSTEP inverts the phase (16 R293). -/
def Task.stepDone (t : Task) (step : Bool) : Task := if step then { t with comm := !t.comm } else t
/-- A sleep that is over ends DONE although its wake is still on its way (22 R385): the test of a word holds, a barrier is
complete. -/
def State.settleWait (s : State) (k : Nat) : State :=
  let past (o : Nat) (d : Nat) : Bool := match s.barOf (objWord 3 d o) with
    | some b => decide (bits o 31 0 < b.count)
    | none => false
  match (s.task k).sleep with
  | none => s
  | some sl => match sl.obj with
    | .word _ a => if waitTest sl.cond (s.word a) sl.val then s.endSleep k 0 else s
    | .barrier d o => if past o d then s.endSleep k 0 else s
    | .super d o => if past o d then (s.mapTask k (fun t => t.stepDone true)).endSleep k 0 else s
    | _ => s
/-- End a sleeping PRECV: its result word is a pending result, written with the next bundle (19 R323, R332). -/
def State.endRecv (s : State) (k : Nat) (r : Recv) (w : Word) : State :=
  let t := s.task k
  let s := s.setClasp t.die ((s.claspOf t.die).erase ⟨.wait, objWord 4 t.die r.box, t.vf, k⟩)
  let (id, s) := s.fresh
  let s := s.mapTask k (fun t => { t with
    results := t.results ++ [(⟨id, r.col, false, r.reg, some (w.setWidth 1024), none⟩ : PendRes)], recv := t.recv.erase r })
  s.schedule t.die

/-- End a sleeping PRECV whose result is discarded (19 R323, 22 R381): its edge leaves the clasp table. -/
def State.dropRecv (s : State) (k : Nat) (r : Recv) : State :=
  let t := s.task k
  let s := s.setClasp t.die ((s.claspOf t.die).erase ⟨.wait, objWord 4 t.die r.box, t.vf, k⟩)
  (s.mapTask k (fun t => { t with recv := t.recv.erase r })).schedule t.die

/-! Rank (21 R347, R348). -/

/-- REM in ns and the slack of a task (21 R347). -/
def State.slack (s : State) (t : Task) : Int :=
  let l := s.launchOf t
  match l.deadline with
  | none => 4611686018427387904
  | some d => (d : Int) - s.now - ((l.estimate - t.used + 1) / 2 : Nat)
/-- Task a outranks task b (21 R348). -/
def State.outranks (s : State) (a b : Task) : Bool :=
  if a.eclass ≠ b.eclass then decide (b.eclass < a.eclass)
  else if s.slack a ≠ s.slack b then decide (s.slack a < s.slack b)
  else if (s.launchOf a).tacc ≠ (s.launchOf b).tacc then decide ((s.launchOf a).tacc < (s.launchOf b).tacc)
  else decide (a.idx < b.idx)
/-- The highest-ranked of some tasks. -/
def State.best (s : State) (l : List Task) : Option Task :=
  l.foldl (fun a t => match a with | none => some t | some b => if s.outranks t b then some t else some b) none

/-! Monitors and locks. -/

/-- The number of the edges of a queue's BARRIER_AND packets in the clasp table (24 R403), above every task key's. -/
def queueEdge (vf q : Nat) : Nat := 18446744073709551616 + vf * 64 + q
/-- A write to DM wakes the monitors of its words (16 R285, R286): each sleeper on one of the words reads it again, and a
queue that watches one evaluates its signals (24 R403). -/
def State.wakeMonitors (s : State) (die a n : Nat) : State :=
  let s := s.tasks.foldl (fun s t => match t.sleep with
    | some sl => match sl.obj with
      | .word d w => if d = die && s.wakes die a n t.key w then s.soon (.monitorWake t.key) else s
      | _ => s
    | none => s) s
  (s.claspOf die).foldl (fun s e =>
    let w := s.dmAt e.vf die (bits e.obj.toNat 27 0)
    if e.sort = .wait ∧ queueEdge 0 0 ≤ e.task ∧ s.wakes die a n e.task w then
      s.soon (.barrierAndEvaluation e.vf ((e.task - queueEdge 0 0) % 64)) else s) s
/-- The tasks that sleep on a lock word, by die and memory number. -/
def State.lockSleepers (s : State) (vf die a : Nat) : List Task :=
  s.tasks.filter (fun t => decide (t.key ≠ 0) && decide (t.vf = vf) &&
    (match t.sleep with | some sl => decide (sl.obj = .lock die a) | none => false))
/-- Whether a lock object is registered at an offset (22 R373). -/
def State.lockThere (s : State) (vf die off : Nat) : Bool :=
  (s.claspOf die).any (fun e => decide (e.sort = .obj) && decide (e.obj = objWord 0 die off) && decide (e.vf = vf))
/-- The holder edge of a lock moves to a task (22 R374): no other task holds the lock any more. -/
def State.moveLock (s : State) (vf die : Nat) (w : Word) (k : Nat) : State :=
  s.setClasp die ((s.claspOf die).filter (fun e =>
    !(decide (e.sort = .hold) && decide (e.obj = w) && decide (e.vf = vf))) ++ [⟨.hold, w, vf, k⟩])
/-- A free lock word goes to the sleeper that outranks the others (22 R374): the word, the holder edge, the end of its
LOCK. Without a sleeper the word becomes 0. -/
def State.grantLock (s : State) (vf die a : Nat) : State :=
  let w := objWord 0 die (a - s.dmAt vf die 0)
  match s.best (s.lockSleepers vf die a) with
  | none => (s.setNum a 8 0).wakeMonitors die a 8
  | some t =>
    let s := (s.setNum a 8 t.taskId.toNat).wakeMonitors die a 8
    (s.moveLock vf die w t.key).endSleep t.key 0
/-- A plain write that leaves a lock word 0 while LOCKs sleep on it grants it (22 R374). -/
def State.grantFreed (s : State) (die a n : Nat) : State :=
  s.tasks.foldl (fun s t => match t.sleep with
    | some sl => match sl.obj with
      | .lock d w =>
        if d = die ∧ w / 8 ≤ (a + n - 1) / 8 ∧ a / 8 ≤ w / 8 ∧ s.num w 8 = 0 ∧ (s.task t.key).sleep.isSome then
          s.grantLock t.vf d w else s
      | _ => s
    | none => s) s
/-- Write bytes of DM: its monitors wake, a freed lock is granted. -/
def State.dmWrite (s : State) (die a : Nat) (bs : List Byte) : State :=
  ((s.setBytes a bs).wakeMonitors die a bs.length).grantFreed die a bs.length
/-- When a holder ends, each lock word it holds becomes 0 and its sleepers end ABORTED (22 R375). -/
def State.abandonLocks (s : State) (t : Task) : State :=
  dies.foldl (fun s d =>
    (s.claspOf d).foldl (fun s e =>
      let off := bits e.obj.toNat 27 0
      if e.sort = .obj ∧ bits e.obj.toNat 63 60 = 0 ∧ e.vf = t.vf ∧ s.num (s.dmAt e.vf d off) 8 = t.taskId.toNat then
        let s := (s.setNum (s.dmAt e.vf d off) 8 0).wakeMonitors d (s.dmAt e.vf d off) 8
        (s.claspOf d).foldl (fun s w =>
          if w.sort = .wait ∧ w.obj = e.obj ∧ w.vf = e.vf then s.endSleep w.task 2 else s) s
      else s) s) s

/-! Link registers and LS tiles. -/

/-- The linear index of package coordinates (18 R299), and this package's. -/
def pkgNo (x y z : Nat) : Nat := x + 16 * y + 256 * z
def State.ownPkg (s : State) : Nat := pkgNo s.pod.x s.pod.y s.pod.z
/-- The package an address word names, if it lies in the pod (18 Table 18.3). -/
def State.wordPkg (s : State) (w : Word) : Option Nat :=
  let x := bits w.toNat 63 60
  let y := bits w.toNat 59 56
  let z := bits w.toNat 55 52
  if x < s.pod.ex ∧ y < s.pod.ey ∧ z < s.pod.ez then some (pkgNo x y z) else none
/-- Count a health event (26 Table 26.2, numbered in the table's order). -/
def State.tally (s : State) (n k : Nat) : State :=
  { s with counters := fset 0 s.counters n ((fget 0 s.counters n + k) % 18446744073709551616) }
/-- Put a request on its way to a package: this one's requests to itself go in order of injection (18 R304). -/
def State.transmit (s : State) (pkg : Nat) (r : RemoteReq) : State :=
  if pkg = s.ownPkg then
    State.soon { s with fab := { s.fab with wire := s.fab.wire ++ [r] } } (.remoteRequestReceive r)
  else s.send (.request r pkg (bits r.addr.toNat 51 48))
/-- The next transaction id of a die: one that no outstanding request has (18 R313). -/
def State.freeXid (s : State) (die : Nat) : Nat :=
  let n := fget 0 s.fab.next die
  (((List.range 65536).map (fun k => (n + k) % 65536)).find?
    (fun x => !s.fab.out.any (fun o => decide (o.req.srcDie = die) && decide (o.xid = x)))).getD n
/-! Paths (18 R299 to R303). -/

/-- The hops of a request in one dimension, or none when both ways cross an UNSAFE link: extent, own and target coordinate,
direction number of the + links, the package at a coordinate, and link k. A hop is a link and its channel: vc0 up to the dateline
between coordinates E − 1 and 0, vc1 from the hop that crosses it (R301). -/
def State.dimPath (s : State) (e a b dir k : Nat) (pkg : Nat → Nat) : Option (List (Nat × Bool)) :=
  let d := (b + e - a) % e
  let plus := (List.range d).map (fun i => (pkg ((a + i) % e) * 24 + 4 * dir + k, decide (e ≤ a + i + 1)))
  let minus := (List.range (e - d)).map (fun i => (pkg ((a + e - i) % e) * 24 + 4 * (dir + 1) + k, decide (a ≤ i)))
  let ok (p : List (Nat × Bool)) : Bool := p.all (fun l => !s.fab.unsafeLinks.elem l.1)
  if d = 0 then some []
  else
    let (p, q) := if d ≤ e - d then (plus, minus) else (minus, plus)
    if ok p then some p else if ok q then some q else none
/-- The path of a request of a die to a package under the map of UNSAFE links, none while it must wait (18 R300, R303). -/
def State.path (s : State) (die pkg : Nat) : Option (List (Nat × Bool)) :=
  let p := s.pod
  let (x, y, z) := (pkg % 16, pkg / 16 % 16, pkg / 256 % 16)
  let k := (pkg + die) % 4
  match s.dimPath p.ex p.x x 0 k (fun c => pkgNo c p.y p.z), s.dimPath p.ey p.y y 2 k (fun c => pkgNo x c p.z),
      s.dimPath p.ez p.z z 4 k (fun c => pkgNo x y c) with
  | some a, some b, some c => some (a ++ b ++ c)
  | _, _, _ => none

/-! Injection (18 R302, R313). -/

/-- Reply slots that a die's outstanding requests hold. -/
def State.slotsHeld (s : State) (die : Nat) : Nat := (s.fab.out.filter (fun o => decide (o.req.srcDie = die))).length
/-- What one task's requests are ordered by: their class, for words to an endpoint their link register. -/
def State.stream (s : State) (o : Remote) : Nat :=
  if o.req.op = .endpoint then 16 + o.col * 8 + o.lq
  else (((s.task o.task).accs.find? (fun a => decide (a.id = o.acc))).map (·.cls)).getD 0
/-- The path on which a request can leave now: a reply slot is free, the map of UNSAFE links leaves a way, and no earlier request
of its task and class to the package is on another path (18 R302, R303). -/
def State.mayInject (s : State) (o : Remote) : Option (List (Nat × Bool)) :=
  if 1024 ≤ s.slotsHeld o.req.srcDie then none
  else (s.path o.req.srcDie o.pkg).filter (fun p => !s.fab.out.any (fun x =>
    decide (x.task = o.task) && decide (x.pkg = o.pkg) && decide (x.path ≠ p) && decide (s.stream x = s.stream o)))
/-- A request leaves as a first transmission. -/
def State.injectNow (s : State) (o : Remote) (path : List (Nat × Bool)) : State :=
  let x := s.freeXid o.req.srcDie
  let r := { o.req with srcPkg := s.ownPkg, xid := x, retx := false }
  let s : State := { s with fab := { s.fab with
    next := fset 0 s.fab.next r.srcDie ((x + 1) % 65536), out := s.fab.out ++ [{ o with xid := x, req := r, sent := s.now, path := path }] } }
  s.transmit o.pkg r
/-- Inject a request: at once, or when a slot and a path are there, after the die's earlier ones that wait. -/
def State.inject (s : State) (o : Remote) : State :=
  match s.mayInject o with
  | some p =>
    if s.fab.pend.any (fun q => decide (q.req.srcDie = o.req.srcDie)) then { s with fab := { s.fab with pend := s.fab.pend ++ [o] } }
    else s.injectNow o p
  | none => { s with fab := { s.fab with pend := s.fab.pend ++ [o] } }
/-- The waiting requests leave, those of a die in order. -/
def State.drainPend (s : State) : Nat → State
  | 0 => s
  | n + 1 =>
    let first (o : Remote) : Bool := s.fab.pend.find? (fun q => decide (q.req.srcDie = o.req.srcDie)) = some o
    match s.fab.pend.findSome? (fun o => if first o then (s.mayInject o).map (fun p => (o, p)) else none) with
    | some (o, p) => (State.injectNow { s with fab := { s.fab with pend := s.fab.pend.erase o } } o p).drainPend n
    | none => s
/-- A request to a package for a task's column: its access, the number of its results, the register of an endpoint sender,
whether it returns a value. -/
def Remote.mk' (pkg : Nat) (r : RemoteReq) (task col acc id lq : Nat) (ret : Bool) : Remote :=
  ⟨0, pkg, r, task, col, acc, id, 0, 0, lq, [], ret, none⟩
/-- The request that carries words to an endpoint lq. -/
def packetReq (die vf : Nat) (dst : Word) (ws : List Word) : RemoteReq :=
  ⟨0, die, 0, false, vf, .endpoint, dst, 0, 0, 0, 0, ws.flatMap (fun w => bytesOf 8 w.toNat), none, false⟩
/-- Words of a send FIFO leave as one flit, which waits at the die's inject port (18 R306), or as a packet, which is a request
with its reply slot (R302). -/
def State.sendWords (s : State) (t : Task) (b : LqBind) (col n : Nat) (ws : List Word) : State :=
  match b with
  | .sendCirc c => { s with fab := { s.fab with flits := s.fab.flits ++ [((24 + t.die) * 256 + c, ws)] } }
  | .sendEnd dst =>
    match s.wordPkg dst with
    | some pkg => s.inject (Remote.mk' pkg (packetReq t.die t.vf dst ws) t.key col 0 0 n false)
    | none => s
  | _ => s
/-- The words of a FIFO in flits of eight. -/
def flitsOf : Nat → List Word → List (List Word)
  | 0, _ => []
  | _, [] => []
  | k + 1, ws => ws.take 8 :: flitsOf k (ws.drop 8)
/-- Unbind a link register: a send FIFO is sent out first, unless its circuit is lost (18 R320); a receive FIFO is discarded
(18 R310). -/
def State.closeLq (s : State) (t : Task) (col n : Nat) (q : Lq) : State :=
  match q.bind with
  | some b => if q.lost then s else (flitsOf 9 q.fifo).foldl (fun s ws => s.sendWords t b col n ws) s
  | none => s
/-- Unbind every link register of a task. -/
def State.closeLqs (s : State) (k : Nat) : State :=
  let t := s.task k
  let s := (List.range 4).foldl (fun s c => (List.range 8).foldl (fun s n =>
    s.closeLq t c n (vget Lq.none (t.bank c).lq n)) s) s
  s.mapTask k (fun t => { t with banks := t.banks.map (fun b => { b with lq := Vector.replicate 8 Lq.none }) })
/-- The owner state of an LS tile, by core and physical tile (01 Table 01.5). -/
def State.owner (s : State) (core tile : Nat) : BitVec 8 := fget 0 s.lsOwn (core * 1024 + tile)
/-- Set the owner state of an LS tile. -/
def State.setOwner (s : State) (core tile : Nat) (o : BitVec 8) : State :=
  { s with lsOwn := fset 0 s.lsOwn (core * 1024 + tile) o }
/-- Every tile of a task's allocation returns to the core unit, and its poison bit clears (10 R194). -/
def State.freeTiles (s : State) (t : Task) : State :=
  let lo := coreOf t.unit * 1024 + t.lsBase
  let out (n : Nat) : Bool := decide (n < lo) || decide (lo + t.lsSize ≤ n)
  { s with lsOwn := s.lsOwn.filter (fun e => out e.1), lsPois := s.lsPois.filter (fun e => out e.1) }

/-! Leaving a unit and ending. -/

/-- A task leaves its residency slot; the other task becomes the primary (21 R352). -/
def State.leaveUnit (s : State) (t : Task) : State :=
  let u := s.unit t.unit
  let other := if u.prim = t.key then u.sec else if u.sec = t.key then u.prim else 0
  if u.prim = t.key ∨ u.sec = t.key then
    let s := s.setUnit t.unit { u with prim := other, sec := 0, secIdle := 0, swap := false }
    if other = 0 then s else s.mapTask other (fun o => { o with state := .primary })
  else s
/-- A port by die and number. -/
def State.port (s : State) (n : Nat) : PortSt := fget PortSt.zero s.ports n
def State.setPort (s : State) (n : Nat) (p : PortSt) : State := { s with ports := fset PortSt.zero s.ports n p }
/-- A port without the miss of a tile. -/
def PortSt.noMiss (x : PortSt) (vf tid tile : Nat) : PortSt :=
  { x with miss := x.miss.filter (fun m => !(decide (m.vf = vf) && decide (m.tid = tid) && decide (m.tile = tile))) }
/-- A port without the fetches of some requests that go on otherwise. -/
def PortSt.unmiss (x : PortSt) (ids : List Nat) : PortSt :=
  { x with miss := (x.miss.map (fun m => { m with ids := m.ids.filter (fun n => !ids.elem n) })).filter (fun m =>
    m.tag.isSome || !m.ids.isEmpty) }
/-- Requests leave the fetches they wait for (11 R215). -/
def State.unmiss (s : State) (ids : List Nat) : State :=
  { s with ports := s.ports.foldl (fun m e => fset PortSt.zero m e.1 (e.2.unmiss ids)) s.ports }
/-- Tags whose last waiter has gone are quarantined: their misses leave the ports (11 R217). -/
def State.quarantine (s : State) : State :=
  s.pages.foldl (fun s q =>
    if q.reqs.isEmpty && q.chans.isEmpty then
      let x := s.port q.port
      s.setPort q.port { x with miss := x.miss.filter (fun m => decide (m.tag ≠ some q.tag)) }
    else s) s

/-- Whether a request outlives its task: a store already on its way does; at retirement a bank word and a PUT do too. -/
def Req.outlives (r : Req) (killed : Bool) : Bool :=
  match r.kind with
  | .dmStore | .pcStore => true
  | .tnStore => r.tag.isNone
  | .bank | .tkTake | .tkNext _ | .put => !killed
  | _ => false
/-- Drop the requests of a task that has ended, their waits on pages and their data under way (11 R217, 16 R283). -/
def State.dropReqs (s : State) (k : Nat) (killed : Bool) : State :=
  let gone := (s.reqs.filter (fun r => decide (r.task = k) && !r.outlives killed)).map (·.id)
  let held := (s.heldPuts.filter (fun r => killed && decide (r.task = k))).map (·.id)
  let s : State := { s with
    reqs := s.reqs.filter (fun r => !gone.elem r.id), flight := s.flight.filter (fun f => decide (f.task ≠ k)),
    heldPuts := s.heldPuts.filter (fun r => !held.elem r.id),
    pages := s.pages.map (fun p => { p with reqs := p.reqs.filter (fun n => !gone.elem n) }) }
  (s.unmiss gone).quarantine.performedAll k (gone ++ held)
/-- A task that leaves its steps drops the PUTs that no acknowledgement has come for (16 R293). -/
def State.dropPuts (s : State) (k : Nat) : State :=
  let mine (r : Req) : Bool := decide (r.task = k) && decide (r.kind = .put)
  let gone := ((s.reqs ++ s.heldPuts).filter mine).map (·.id)
  State.performedAll { s with reqs := s.reqs.filter (fun r => !mine r), heldPuts := s.heldPuts.filter (fun r => !mine r) } k gone
/-- A strip that a task leaves: what the task configured is discarded, its tile registers are free (13 R241). -/
def Strip.leave (x : Strip) (k : Nat) : Strip :=
  let y : Strip := if x.holder = k then { Strip.zero with treg := x.treg, thold := x.thold } else x
  { y with treg := Vector.ofFn (fun i => if y.thold[i] = k then TileReg.zero else y.treg[i]),
           thold := y.thold.map (fun h => if h = k then 0 else h) }
/-- Every strip that a task leaves. -/
def State.leaveStrips (s : State) (k : Nat) : State :=
  { s with strips := s.strips.foldl (fun m e => fset Strip.zero m e.1 (e.2.leave k)) s.strips }
/-- A unit's circular buffers of a task end. -/
def State.leaveCbs (s : State) (u k : Nat) : State :=
  s.mapUnit u (fun u =>
    let mine (n : Nat) : Bool := decide (vget 0 u.cbTask n = k)
    { u with cb := Vector.ofFn (fun i => if mine i then 0 else vget 0 u.cb i),
             cbGrant := Vector.ofFn (fun i => if mine i then none else vget none u.cbGrant i),
             cbDue := u.cbDue.filter (fun d => !mine d.1), late := u.late.filter (fun e => decide (e.2.2.2 ≠ k)),
             pops := u.pops.filter (fun r => decide (r.task ≠ k)), pushes := u.pushes.filter (fun r => decide (r.task ≠ k)),
             cbTask := u.cbTask.map (fun h => if h = k then 0 else h) })
/-- Release what a task holds (21 R357, R358): link registers, clasp entries and locks, engines, tiles. -/
def State.release (s : State) (k : Nat) : State :=
  let t := s.task k
  let s := s.closeLqs k
  let s := s.abandonLocks t
  let s := (s.disarm k).dropEdges (fun e => decide (e.task = k))
  let s := (s.leaveCbs t.unit k).leaveStrips k
  let s := if t.state = .pending ∨ t.state = .evicted ∨ !t.hasLs then s else s.freeTiles t
  s.leaveUnit t
/-- One task of a launch has ended (21 R359). -/
def State.taskEnded (s : State) (t : Task) (killed : Bool) : State :=
  if t.launch = 0 then s.schedule t.die
  else
    let l := s.launchOf t
    let l := { l with left := l.left.filter (fun n => decide (n ≠ t.idx)), killed := l.killed || killed }
    let s : State := { s with launches := fins s.launches t.launch l }
    let s := if l.left.isEmpty then s.soon (.launchEnd t.launch) else s
    (s.inheritAll).schedule t.die
/-- Whether a record or a begun command of a task is still with an engine, on its way to its home, or not yet answered by
another package. -/
def State.busyOf (s : State) (t : Task) : Bool :=
  let u := s.unit t.unit
  s.reqs.any (fun r => decide (r.task = t.key) && r.outlives (decide (t.state = .killed))) ||
    (s.fab.out ++ s.fab.pend).any (fun o => decide (o.task = t.key) && decide (o.req.op ≠ .endpoint)) ||
  u.recs.any (fun r => decide (r.task = t.key)) || u.pushes.any (fun r => decide (r.task = t.key)) ||
    (fvals s.chans).any (fun c => match c.run with | some r => decide (r.cmd.task = t.key) | none => false) ||
    (fvals s.strips).any (fun x => match x.run with | some r => decide (r.task = t.key) | none => false)
/-- Begun copies of a task end at their next entry, but for KEEP (10 R197); at a kill a channel that waits for a page stops waiting
(11 R217). A command that has performed its last entry is complete. -/
def State.cancelCopies (s : State) (k : Nat) (killed : Bool) : State :=
  s.chans.foldl (fun s e => match e.2.run with
    | some r =>
      if r.cmd.task = k ∧ !keeps r.cmd.ins ∧ !(r.ents.isEmpty && decide (r.tot ≤ r.n)) then
        let s : State := { s with
          chans := fset Chan.zero s.chans e.1 { e.2 with run := some { r with stop := true }, page := e.2.page && !killed },
          pages := if killed then s.pages.map (fun p => { p with chans := p.chans.filter (· ≠ e.1) }) else s.pages }
        s.quarantine.soon (.completionRecord e.1)
      else s
    | none => s) s
/-- A word that writes LS from a strip: a kill leaves each byte old or new (13 R240). -/
def stripWrites : Instr → Bool
  | .tst .. | .tstO .. | .stsave .. => true
  | _ => false
/-- The unit of a physical column of the package under its core's CORE_SPLIT, and the column's number in it. -/
def State.unitOfCol (s : State) (c : Nat) : Nat × Nat :=
  let w := widthCols ((s.core (c / 4)).split.toNat % 8)
  (c / 4 * 4 + c % 4 / w, c % 4 % w)
/-- A chain command of a task is abandoned, and its strip takes the records behind it; one that writes LS ends at its completion (12 Table 12.9, 13 R240). -/
def State.abandonChains (s : State) (k : Nat) : State :=
  let hit (x : Strip) : Bool := match x.run with
    | some r => decide (r.task = k) && !keeps r.ins && !stripWrites r.ins
    | none => false
  let cut : State := { s with strips := s.strips.map (fun e =>
    (e.1, if hit e.2 then { e.2 with run := none, fired := false, charm := none } else e.2)) }
  (s.strips.filter (fun e => hit e.2)).foldl (fun s e => s.soon (.commandRecordEntry (s.unitOfCol e.1).1 .chain)) cut
/-- An LS PUT writes the target's allocation, if the tile is its core unit's; the result says whether it was (16 R292). -/
def State.putLs (s : State) (t : Task) (off : Nat) (bs : List Byte) : Option State :=
  let core := coreOf t.unit
  if (s.owner core (t.lsBase + off / 4096)).getLsbD 7 then none
  else some (s.setBytes (lsNo core (t.lsBase * 4096 + off)) bs)
/-- The held PUTs to a task that now has its allocation perform, in order; those to one that has ended, or will never start,
are acknowledged without effect (16 R292). -/
def State.releasePuts (s : State) (k : Nat) : State :=
  let t := s.task k
  s.heldPuts.foldl (fun s r =>
    if (s.task r.task).launch = t.launch ∧ bits r.addr 59 28 = t.idx then
      let s : State := { s with heldPuts := s.heldPuts.filter (fun q => decide (q.id ≠ r.id)) }
      let off := bits r.addr 27 0 - bits r.addr 27 0 % r.size
      let s := match t.state with
        | .retired | .killed | .never => s
        | _ => match s.putLs t off r.val with
          | some s => s
          | none => s.raise r.task 0x14 r.col
      s.performed r.task r.id
    else s) s
/-- A PENDING task will never start. -/
def State.neverStart (s : State) (k : Nat) : State :=
  (s.mapTask k (fun t => { t with state := .never })).releasePuts k
/-- The end of a task whose engines are done: resources go, the launch counts it (21 R357, R358). -/
def State.finishEnd (s : State) (k : Nat) (killed : Bool) : State :=
  let s := (s.release k).dropReqs k killed
  let s := State.mapTask { s with frames := fdel s.frames k } k
    (fun t => { t with exiting := false, hasLs := false, state := if killed then .killed else .retired })
  ((s.releasePuts k).taskEnded (s.task k) killed).evalBars (s.task k).launch
/-- A task that has issued EXIT or been killed ends once its records and begun commands are done. -/
def State.settle (s : State) (k : Nat) : State :=
  let t := s.task k
  if t.exiting && !s.busyOf t then s.finishEnd k (decide (t.state = .killed)) else s
/-- Commands with the keep flag are saved in a task's context frame: they complete normally (01 R18), which needs its LS
and its engines' state, so the task is restored first and ends before it issues a bundle. -/
def State.keptAway (s : State) (t : Task) : Bool :=
  (decide (t.state = .aside) || decide (t.state = .evicted)) && (fget Frame.zero s.frames t.key).recs.any (fun r => keeps r.ins)
/-- What a frame still holds of a task that is to end: its records with the keep flag (01 R18). -/
def State.dropFrame (s : State) (k : Nat) : State :=
  let f := fget Frame.zero s.frames k
  let end_ (x : Strip) : Strip := match x.run with
    | some r => if keeps r.ins then x else { x with run := none, fired := false, charm := none }
    | none => x
  { s with frames := fset Frame.zero s.frames k { f with
      recs := f.recs.filter (fun r => keeps r.ins), pops := [], pushes := [], strips := f.strips.map end_ } }
/-- What ends at once when a task is stopped for good: its registers, waits and accesses. -/
def Task.ended (t : Task) (st : TaskState) : Task :=
  { t with state := st, sleep := none, recv := [], pend := [], land := [], results := [], accs := [], fences := [],
           work := Snap.empty, snap := Snap.empty, deferred := [], held := none, mrep := none, stop := .run, pages := [],
           idle := 0, exiting := true, divDue := false }
/-- Kill a task (21 R358): its context and records are discarded, begun copies end, its validity entry is INVALID,
its resources are released, once a command with the keep flag has completed. -/
def State.killNow (s : State) (k : Nat) : State :=
  let t := s.task k
  if !t.alive then s
  else
    let s := (((s.dropRecs t).cancelCopies k true).abandonChains k).dropReqs k true
    let s := (s.markValid (s.launchOf t) t.idx 3).getD s
    let s := s.mapTask k (fun t => t.ended .killed)
    (s.evalBars t.launch).settle k
/-- The same, but that a task not resident with such commands in its frame ends at its restore. -/
def State.kill (s : State) (k : Nat) : State :=
  let t := s.task k
  if t.alive && s.keptAway t then
    let s := (s.disarm k).dropEdges (fun e => decide (e.sort = .wait) && decide (e.task = k))
    let s := ((s.cancelCopies k true).dropFrame k).dropReqs k true
    (s.mapTask k (fun t => { t with
      doom := true, safeNow := some 0, sleep := none, recv := [], stop := .run, pages := [], resumeAt := none })).schedule t.die
  else s.killNow k

end Sys2Proof.Machine
end

