-- ==== Sys2Proof/Machine/Ops.lean ====
section
/-!
DEFINITION. Taking a trap and returning from one (08 R171 to R175), the stop and the resume they are built on (R179,
R180), the registers of a core, and the diversion into wrap-up code (22 R381).
-/
namespace Sys2Proof.Machine

/-! Trap causes (08 Table 08.1). -/

def Cause.illegalBundle : Nat := 0x01
def Cause.illegalInstr : Nat := 0x02
def Cause.privileged : Nat := 0x03
def Cause.stallShort : Nat := 0x04
def Cause.misaligned : Nat := 0x05
def Cause.trapInstr : Nat := 0x06
def Cause.breakpoint : Nat := 0x07
def Cause.xlateFault : Nat := 0x10
def Cause.segmentFault : Nat := 0x11
def Cause.poison : Nat := 0x12
def Cause.lsRange : Nat := 0x13
def Cause.owner : Nat := 0x14
def Cause.deadlock : Nat := 0x20
def Cause.claspFull : Nat := 0x21
def Cause.scopeCap : Nat := 0x22
def Cause.escape : Nat := 0x30
def Cause.parcelState : Nat := 0x31
def Cause.circuitLost : Nat := 0x32
def Cause.chainFault : Nat := 0x40
def Cause.charmFault : Nat := 0x41
def Cause.tileShape : Nat := 0x42

/-- Whether a decided trap of a cause resumes at the trapping bundle (08 Table 08.1). -/
def restartable (cause : Nat) : Bool :=
  decide (cause = 0x04) || decide (cause = 0x14) || decide (cause = 0x20) || decide (cause = 0x21) ||
    decide (cause = 0x30)

/-- The bundle that follows in program order: the next address, or the body's first bundle when a repetition of MREP
ends with repetitions left (13 R255). -/
def Task.advance (t : Task) (bodyEnd : Bool) : Task :=
  let plain : Task := { t with pc := (t.pc + 1) % 4096 }
  if bodyEnd then
    match t.mrep with
    | none => plain
    | some m => if m.left ≤ 1 then { plain with mrep := none }
                else { t with pc := m.body, mrep := some { m with left := m.left - 1, due := true, seen := 0 } }
  else plain

/-- TRAP_CAUSE (08 Table 08.3) with ACTIVE set. -/
def trapWord (cause slot col pc rpc target : Nat) (restart xfer deferred outtext : Bool) : Word :=
  BitVec.ofNat 64 (cause % 256 + slot % 8 * 256 + col % 4 * 2048 + restart.toNat * 8192 + xfer.toNat * 16384 + 32768 +
    pc % 4096 * 65536 + rpc % 4096 * 268435456 + target % 4096 * 1099511627776 +
    deferred.toNat * 4503599627370496 + outtext.toNat * 9007199254740992)

/-- The handler a cause vectors through (08 R172): its entry, else the default entry, else none. -/
def State.handler (s : State) (t : Task) (cause : Nat) : Option Nat :=
  let o := (s.launchOf t).obj
  match o.traps.find? (fun e => decide (e.1 = cause)) with
  | some e => some (e.2 % 4096)
  | none => o.trapDef.map (· % 4096)

/-- An urgent stop's drain (08 R179): the writes and landings in flight with the bundles they still lack. -/
def Task.drain (t : Task) : Snap :=
  { pend := t.pend.map (fun x => { x with due := x.due - t.dist }),
    land := t.land.map (fun x => { x with due := x.due - t.dist }) }
/-- A snapshot replays (08 R175, R180): each entry at the distance it lacked, counted from the resumed bundle, and
before what is already in flight. -/
def Task.replay (t : Task) (sn : Snap) (resumed : Nat) : Task :=
  { t with pend := addPends (sn.pend.map (fun x => { x with due := resumed + x.due })) t.pend,
           land := sn.land.map (fun x => { x with due := resumed + x.due }) ++ t.land }

/-- What a trap entry is given: the cause, the deciding word's slot and column, how it resumes, whether it is deferred
or a fetch outside the text, and whether the deciding bundle ends a body of MREP. -/
structure TrapReq where
  cause    : Nat
  slot     : Nat
  col      : Nat
  restart  : Bool
  deferred : Bool
  outtext  : Bool
  bodyEnd  : Bool
  deriving DecidableEq, Repr

/-- A decided trap of a cause at a word, resuming as Table 08.1 says. -/
def TrapReq.at (cause slot col : Nat) : TrapReq := ⟨cause, slot, col, restartable cause, false, false, false⟩

/-- The trap entry proper (08 R173): the drain into the trap snapshot, TRAP_CAUSE with ACTIVE, the handler's address.
No register is saved and no access ordered. The task stands at no safe point before its handler reaches one (21 R356). -/
def Task.trapTo (t : Task) (r : TrapReq) (h : Nat) : Task :=
  let again := r.restart || r.deferred
  let nxt := if again then t else t.advance r.bodyEnd
  { t with
    snap := t.drain, pend := [], land := [],
    trapCause := trapWord r.cause r.slot r.col t.pc (if r.outtext then t.pc else nxt.pc) (t.follower.getD 0) again t.follower.isSome r.deferred
      r.outtext,
    mrep := nxt.mrep.map (fun m => { m with susp := true }),
    follower := none, idle := 0, first := false, pc := h, dbgReq := t.dbgReq || t.dbgStep, safeNow := none }

/-- Taking a trap in the foreground task (08 R172 to R174): ONE operation for every cause. A decided trap of a running
handler kills the task, a deferred one is held, the first only; without a handler the task is killed. -/
def State.enterTrap (s : State) (r : TrapReq) : State :=
  if s.fg.active then
    if r.deferred then
      { s with fg := { s.fg with held := match s.fg.held with | some x => some x | none => some ⟨r.cause, r.col⟩ } }
    else s.kill s.fg.key
  else
    match s.handler s.fg r.cause with
    | some h => { s with fg := s.fg.trapTo r h }
    | none => s.kill s.fg.key

/-- The return from a trap (08 R175, R122): ACTIVE clears, the restart point or the pending target comes next, and the
trap snapshot replays, counted from the resumed bundle. A held trap becomes a deferred one (R174). -/
def Task.eret (t : Task) (resumed : Nat) : Task :=
  let w := t.trapCause.toNat
  let rpc := bits w 39 28
  let target := bits w 51 40
  let xfer := bits w 14 14 = 1
  let again := bits w 13 13 = 1
  { t.replay t.snap resumed with
    trapCause := putBits t.trapCause 15 15 0, snap := Snap.empty,
    pc := if xfer ∧ !again then target else rpc,
    follower := if xfer ∧ again then some target else none,
    deferred := t.held.toList ++ t.deferred, held := none,
    mrep := t.mrep.map (fun m => { m with susp := false }) }

/-- An urgent stop that is no trap (08 R179): the drain into the working snapshot. -/
def Task.halt (t : Task) (why : StopState) : Task :=
  { t with work := t.drain, pend := [], land := [], stop := why }
/-- The resume: the working snapshot replays from the next bundle (08 R180). -/
def Task.resume (t : Task) : Task :=
  { t.replay t.work t.dist with work := Snap.empty, stop := .run }

/-! Registers of the core (05 R100, 01 R11, 06 R138). -/

/-- The resident tasks of a unit. -/
def UnitSt.residents (u : UnitSt) : List Nat := [u.prim, u.sec].filter (· ≠ 0)
/-- A write of BANK_FMT_n by a task whose allocation holds the bank, or not. -/
def State.writeFmt (s : State) (core n : Nat) (w : Lane) (inside : Bool) : State :=
  let x := s.core core
  let f := if inside && fmtCodeOk (w.toNat % 16) then BitVec.ofNat 32 (w.toNat % 16) else vget 0 x.fmt n ||| 16
  s.setCore core { x with fmt := vset x.fmt n f }
/-- The report of a configuration (25 R414): VF, or 0x3FF, offset of the first failing field, code. -/
def State.cfgStatus (s : State) (vf off code : Nat) : State := s.send (.host vf 7 [vf, off, code])
/-- A WIDTH value of CORE_SPLIT under which no unit joins columns of different partitions (01 R13). -/
def PMap.splitFits (p : PMap) (core w : Nat) : Bool :=
  let k := widthCols w
  (List.range 4).all (fun c => decide (fget 0 p.cols (core * 4 + c) = fget 0 p.cols (core * 4 + c / k * k)))
/-- A WIDTH value that CORE_SPLIT takes (01 R11). -/
def splitOk (v : Nat) : Bool := decide (v = 1) || decide (v = 2) || decide (v = 4)
/-- A write of CORE_SPLIT (01 R11, R13): with a resident task it sets BUSY, whatever its WIDTH. -/
def State.writeSplit (s : State) (core : Nat) (w : Lane) : State :=
  let v := w.toNat % 8
  let x := s.core core
  if (List.range 4).any (fun n => !(s.unit (core * 4 + n)).residents.isEmpty) then
    s.setCore core { x with split := x.split ||| 8 }
  else if !splitOk v then s
  else if !s.pmap.splitFits core v then s.cfgStatus 0x3FF 0 2
  else s.setCore core { x with split := BitVec.ofNat 32 v }
/-- A task's write of a register of its core. -/
def State.coreWrite (s : State) (k : Nat) (x : RegWrite) : State :=
  let t := s.task k
  match x with
  | .sr n w =>
    if 0x20 ≤ n ∧ n < 0x28 then s.writeFmt (coreOf t.unit) (n - 0x20) (w.setWidth 32) (bankInside t (n - 0x20))
    else if n = 0x40 then s.writeSplit (coreOf t.unit) (w.setWidth 32)
    else s
  | _ => s
/-- The writes and landings of a task whose bundle has come take effect (03 R62, R66). -/
def State.writeBack (s : State) (k : Nat) : State :=
  let t := s.task k
  let now := t.pend.filter (fun x => decide (x.due ≤ t.dist))
  let s := s.mapTask k (fun t => t.applyDue.landDue)
  now.foldl (fun s x => s.coreWrite k x.w) s
/-- Every write in flight and every landing whose data has arrived takes effect at once, bundle after bundle in the order
of 03 R64. -/
def State.completeWrites (s : State) (k : Nat) : Nat → State
  | 0 => s
  | n + 1 =>
    match (s.task k).nextDue with
    | none => s
    | some d => ((s.mapTask k (fun t => { t with dist := max t.dist d })).writeBack k).completeWrites k n
/-- All of them: each bundle that comes takes at least one. -/
def State.complete (s : State) (k : Nat) : State :=
  s.completeWrites k ((s.task k).pend.length + (s.task k).land.length)

/-- The halted front-end tasks of a die wake (24 R395). -/
def State.wakeFront (s : State) (die : Nat) : State :=
  (s.tasks.filter (fun t => decide (t.stop = .front) && decide (t.die = die))).foldl (fun s t => s.soon (.frontEndWake t.key)) s

/-! Diversion (22 R381). -/

/-- An active trap is left, what is still in flight is discarded, a repetition is cancelled, and wrap-up code starts. A task
that a debugger has halted stands halted before its first wrap-up bundle (log 24). -/
def Task.wrapUp (t : Task) (wrapPc budget : Nat) : Task :=
  { t with pend := [], land := [], snap := Snap.empty, trapCause := putBits t.trapCause 15 15 0, held := none, mrep := none,
           follower := none, results := [], idle := 0, first := false, pc := wrapPc, expired := true,
           divert := false, wrapLeft := some budget, stop := if t.stop = .debug then .debug else .run, pages := [],
           safeNow := none, resumeAt := none }
/-- A diversion's effect on a task's own state: writes in flight take effect, those of the locket among them. -/
def State.diverted (s : State) (k wrapPc budget : Nat) : State :=
  let s := s.mapTask k (fun t => { t.replay t.work t.dist with work := Snap.empty })
  (s.complete k).mapTask k (fun t => t.wrapUp wrapPc budget)

end Sys2Proof.Machine
end

