-- ==== Sys2Proof/Machine/Operands.lean ====
section
/-!
DEFINITION. Operand forms: register fields and their rotation (03 R58, R59), guards (04 R77), reads that pop a link
FIFO and writes that push one (18 R309), the shapes of one- and two-operand words, memory addresses (06 R143, R144).
-/
namespace Sys2Proof.Machine

/-- What exec answers. -/
abbrev R := Host.Outcome State Fault Refusal

/-- The number in a field. -/
def regNo (f : RegF) : Nat := f.toNat % 64
/-- The physical i register of a field (03 R59). -/
def ColBank.physI (b : ColBank) (f : RegF) : Nat :=
  if f.getLsbD 6 then 32 + (regNo f - 32 + b.ibi) % 24 else regNo f
/-- The physical v register of a number and a relative flag. -/
def ColBank.physVn (b : ColBank) (n : Nat) (rel : Bool) : Nat := if rel then 16 + (n - 16 + b.ibv) % 16 else n
/-- The physical v register of a field. -/
def ColBank.physV (b : ColBank) (f : RegF) : Nat := b.physVn (regNo f) (f.getLsbD 6)
/-- The physical v register of a V4 operand: relative with the word's flag, from 16 up (04 R79). -/
def ColBank.physV4 (b : ColBank) (fl : BitVec 1) (n : BitVec 5) : Nat :=
  b.physVn n.toNat (fl.getLsbD 0 && decide (16 ≤ n.toNat))
/-- The physical p register of a number and a relative flag. -/
def ColBank.physPn (b : ColBank) (n : Nat) (rel : Bool) : Nat := if rel then 8 + (n - 8 + b.ibp) % 8 else n
/-- The physical p register of a field. -/
def ColBank.physP (b : ColBank) (f : RegF) : Nat := b.physPn (regNo f) (f.getLsbD 6)
/-- The physical p register of a guard: p8 to p15 rotate (03 R59). -/
def ColBank.physG (b : ColBank) (g : Guard) : Nat := b.physPn g.toNat (decide (8 ≤ g.toNat))

/-- A p register's value; p0 reads 1 (03 R56). -/
def ColBank.p (b : ColBank) (n : Nat) : Bool := if n = 0 then true else vget false b.preg n
/-- A k register's value; k0 reads all ones. -/
def ColBank.k (b : ColBank) (n : Nat) : Lane := if n = 0 then 0xFFFFFFFF else vget 0 b.kreg n
/-- A v register's value. -/
def ColBank.v (b : ColBank) (n : Nat) : VWord := vget 0 b.vreg n
/-- An i register's value, a link register's oldest word. -/
def ColBank.i (b : ColBank) (n : Nat) : Word :=
  if n < 56 then vget 0 b.ireg n else (vget Lq.none b.lq (n - 56)).fifo.headD 0
/-- Pop a link register (18 R309). -/
def ColBank.pop (b : ColBank) (n : Nat) : ColBank :=
  let q := vget Lq.none b.lq n
  { b with lq := vset b.lq n { q with fifo := q.fifo.tail } }

/-- The value of the running word's guard. -/
def State.guard (s : State) (g : Guard) : Bool := s.bank.p (s.bank.physG g)

/-- Read an i operand of a column; a link register pops. -/
def State.takeIn (s : State) (c : Nat) (f : RegF) : Word × State :=
  let b := s.fg.bank c
  let n := b.physI f
  if n < 56 then (b.i n, s) else (b.i n, { s with fg := s.fg.setBank c (b.pop (n - 56)) })
/-- Read an i operand of the running word. -/
def State.takeI (s : State) (f : RegF) : Word × State := s.takeIn s.col f
/-- The write of an i destination; a link register is pushed. -/
def iDest (n : Nat) (w : Word) : RegWrite := if n < 56 then .i n w else .lq (n - 56) w
/-- Post a write of an i destination. -/
def State.putI (s : State) (f : RegF) (lat : Nat) (w : Word) : State := s.post lat (iDest (s.bank.physI f) w)
/-- Post a write of a v destination. -/
def State.putV (s : State) (f : RegF) (lat : Nat) (w : VWord) (flags : Lane := 0) : State :=
  s.post lat (.v (s.bank.physV f) w) flags

/-- A guarded word: squashed when its guard is false (04 R77). -/
def State.when (s : State) (g : Guard) (f : State → State) : R := .next (if s.guard g then f s else s)

/-- A one-operand integer word. -/
def State.alu1 (s : State) (g : Guard) (d a : RegF) (lat : Nat) (f : Word → Word) : R :=
  s.when g fun s => let (x, s) := s.takeI a; s.putI d lat (f x)
/-- A two-operand integer word. A link register that it names twice gives its older word to the first operand, and d, where a
word reads it, comes last (DESIGN CHOICE, log 24: 18 R309 orders pops only by slot). -/
def State.alu2 (s : State) (g : Guard) (d a b : RegF) (lat : Nat) (f : Word → Word → Word) : R :=
  s.when g fun s => let (x, s) := s.takeI a; let (y, s) := s.takeI b; s.putI d lat (f x y)
/-- An integer word that reads its destination too (06 R128, R129). -/
def State.alu3 (s : State) (g : Guard) (d a b : RegF) (lat : Nat) (f : Word → Word → Word → Word) : R :=
  s.when g fun s =>
    let (x, s) := s.takeI a
    let (y, s) := s.takeI b
    let (z, s) := s.takeI d
    s.putI d lat (f x y z)
/-- An integer word with a 7-bit signed immediate. -/
def State.aluI (s : State) (g : Guard) (d a : RegF) (im : BitVec 7) (f : Word → Word → Word) : R :=
  s.when g fun s => let (x, s) := s.takeI a; s.putI d 1 (f x (im.signExtend 64))

/-- A vector word of one operand. -/
def State.vec1 (s : State) (g : Guard) (d a : RegF) (lat : Nat) (f : VWord → VWord) : R :=
  s.when g fun s => s.putV d lat (f (s.bank.v (s.bank.physV a)))
/-- A vector word of two operands. -/
def State.vec2 (s : State) (g : Guard) (d a b : RegF) (lat : Nat) (f : VWord → VWord → VWord) : R :=
  s.when g fun s => s.putV d lat (f (s.bank.v (s.bank.physV a)) (s.bank.v (s.bank.physV b)))
/-- A V4 word of three operands. -/
def State.vec4 (s : State) (g : Guard) (fl : BitVec 1) (d a b c : BitVec 5) (lat : Nat)
    (f : VWord → VWord → VWord → VWord) : R :=
  s.when g fun s =>
    let r (n : BitVec 5) : VWord := s.bank.v (s.bank.physV4 fl n)
    s.post lat (.v (s.bank.physV4 fl d) (f (r a) (r b) (r c)))

/-- Lane by lane. -/
def map1 (f : Lane → Lane) (x : VWord) : VWord := ofLanes ((lanes x).map f)
def map2 (f : Lane → Lane → Lane) (x y : VWord) : VWord := ofLanes (List.zipWith f (lanes x) (lanes y))
def map3 (f : Lane → Lane → Lane → Lane) (x y z : VWord) : VWord :=
  ofLanes (List.zipWith (fun p c => f p.1 p.2 c) (List.zip (lanes x) (lanes y)) (lanes z))

/-! Addresses and sizes of loads and stores (06 Table 06.14). -/

def loadSize (sc : BitVec 2) : Nat := match sc.toNat with | 0 => 128 | 1 => 64 | 2 => 8 | _ => 4
def storeSize (sc : BitVec 2) : Nat := match sc.toNat with | 0 => 8 | 1 => 4 | 2 => 2 | _ => 1
/-- The byte offset C0 + 65,536 · C1 of LS and DM accesses (06 R139). -/
def Ag.off (a : Ag) : Nat := (vget 0 a.c 0).toNat + 65536 * (vget 0 a.c 1).toNat
/-- The signed 32-bit stride S1:S0. -/
def Ag.stride (a : Ag) : Int := sext 32 ((vget 0 a.st 0).toNat + 65536 * (vget 0 a.st 1).toNat)
/-- Step the selected coordinates n times (06 R142). -/
def Ag.inc (a : Ag) (mask : Nat) (n : Int) : Ag :=
  if a.linear then
    if mask % 2 = 1 then
      let off := ((a.off : Int) + n * a.stride).emod 4294967296 |>.toNat
      { a with c := vset (vset a.c 0 (BitVec.ofNat 16 off)) 1 (BitVec.ofNat 16 (off / 65536)) }
    else a
  else
    { a with c := Vector.ofFn (fun k =>
        if mask / 2 ^ k.val % 2 = 1 then
          BitVec.ofInt 16 ((a.c[k]).toNat + n * sext 16 (a.st[k]).toNat)
        else a.c[k]) }
/-- The address generator a memory word names. -/
def ColBank.agr (b : ColBank) (a : BitVec 3) : Ag := vget Ag.zero b.ag a.toNat
/-- The INC step of a memory word, written at distance 1 (06 R144). -/
def State.incAg (s : State) (a : BitVec 3) (n : BitVec 1) : State :=
  if n.getLsbD 0 then s.post 1 (.ag a.toNat ((s.bank.agr a).inc 1 1)) else s
/-- The bytes of a store's source, i0 to i15 directly (04 R79). -/
def State.srcBytes (s : State) (r : BitVec 4) (size : Nat) : List Byte := bytesOf size (s.bank.i r.toNat).toNat

end Sys2Proof.Machine
end

