-- ==== Sys2Proof/Machine/Flags.lean ====
section
/-!
DEFINITION. Conditions and flags: the integer compare conditions (06 Table 06.6), the fp32 compares (07 R154), the
sticky bits of ARITH_FLAGS (05 R96).
-/
namespace Sys2Proof.Machine

/-- An integer compare condition. -/
def intCond (c : BitVec 2) (x y : Word) : Bool :=
  match c.toNat with
  | 0 => decide (x = y) | 1 => decide (x ≠ y) | 2 => x.slt y | _ => x.ult y
/-- The sticky bits of ARITH_FLAGS: CVT_NAN in bit 0, TERN_BAD in bit 1. -/
def flagBits (nan tern : Bool) : Lane := BitVec.ofNat 32 (nan.toNat + 2 * tern.toNat)
/-- Set sticky flags of a task at once (an engine's conversion, 05 R96). -/
def State.flagTask (s : State) (k : Nat) (f : Lane) : State :=
  if f = 0 then s else s.mapTask k (fun t => { t with arith := t.arith ||| f })

end Sys2Proof.Machine
end

