-- ==== Sys2Proof/Machine/Integer.lean ====
section
/-!
DEFINITION. The integer operations of the I slot and the crossings out of it (06 R124 to R142), but for the loads and
stores, TQRY and the parcel accesses.
-/
namespace Sys2Proof.Machine

/-! Register and immediate operations (06 Table 06.4, Table 06.5). -/

/-- A shift amount, bits 5:0. -/
def shamt (y : Word) : Nat := y.toNat % 64
def minS (x y : Word) : Word := if y.slt x then y else x
def maxS (x y : Word) : Word := if x.slt y then y else x
def minU (x y : Word) : Word := if y.ult x then y else x
def maxU (x y : Word) : Word := if x.ult y then y else x
def mulHigh (x y : Word) : Word := wordOf (x.toInt * y.toInt / 18446744073709551616)
def mulHighU (x y : Word) : Word := BitVec.ofNat 64 (x.toNat * y.toNat / 18446744073709551616)

def execAdd (g : Guard) (d a b : RegF) (s : State) : R := s.alu2 g d a b 1 (· + ·)
def execAddi (g : Guard) (d a : RegF) (im : BitVec 7) (s : State) : R := s.aluI g d a im (· + ·)
def execSub (g : Guard) (d a b : RegF) (s : State) : R := s.alu2 g d a b 1 (· - ·)
def execMul (g : Guard) (d a b : RegF) (s : State) : R := s.alu2 g d a b 3 (· * ·)
def execMulh (g : Guard) (d a b : RegF) (s : State) : R := s.alu2 g d a b 3 mulHigh
def execMulhu (g : Guard) (d a b : RegF) (s : State) : R := s.alu2 g d a b 3 mulHighU
def execAnd (g : Guard) (d a b : RegF) (s : State) : R := s.alu2 g d a b 1 (· &&& ·)
def execAndi (g : Guard) (d a : RegF) (im : BitVec 7) (s : State) : R := s.aluI g d a im (· &&& ·)
def execOr (g : Guard) (d a b : RegF) (s : State) : R := s.alu2 g d a b 1 (· ||| ·)
def execOri (g : Guard) (d a : RegF) (im : BitVec 7) (s : State) : R := s.aluI g d a im (· ||| ·)
def execXor (g : Guard) (d a b : RegF) (s : State) : R := s.alu2 g d a b 1 (· ^^^ ·)
def execXori (g : Guard) (d a : RegF) (im : BitVec 7) (s : State) : R := s.aluI g d a im (· ^^^ ·)
def execShl (g : Guard) (d a b : RegF) (s : State) : R := s.alu2 g d a b 1 (fun x y => x <<< shamt y)
def execShli (g : Guard) (d a : RegF) (im : BitVec 7) (s : State) : R := s.aluI g d a im (fun x y => x <<< shamt y)
def execShr (g : Guard) (d a b : RegF) (s : State) : R := s.alu2 g d a b 1 (fun x y => x >>> shamt y)
def execShri (g : Guard) (d a : RegF) (im : BitVec 7) (s : State) : R := s.aluI g d a im (fun x y => x >>> shamt y)
def execSar (g : Guard) (d a b : RegF) (s : State) : R := s.alu2 g d a b 1 (fun x y => x.sshiftRight (shamt y))
def execSari (g : Guard) (d a : RegF) (im : BitVec 7) (s : State) : R :=
  s.aluI g d a im (fun x y => x.sshiftRight (shamt y))
def execMin (g : Guard) (d a b : RegF) (s : State) : R := s.alu2 g d a b 1 minS
def execMax (g : Guard) (d a b : RegF) (s : State) : R := s.alu2 g d a b 1 maxS
def execMinu (g : Guard) (d a b : RegF) (s : State) : R := s.alu2 g d a b 1 minU
def execMaxu (g : Guard) (d a b : RegF) (s : State) : R := s.alu2 g d a b 1 maxU

/-! Division (06 R125): never traps. -/

/-- Quotient and remainder of signed division. -/
def divS (x y : Word) : Word × Word :=
  if y = 0 then (BitVec.allOnes 64, x)
  else (wordOf (x.toInt.tdiv y.toInt), wordOf (x.toInt.tmod y.toInt))
/-- Quotient and remainder of unsigned division. -/
def divU (x y : Word) : Word × Word :=
  if y = 0 then (BitVec.allOnes 64, x)
  else (BitVec.ofNat 64 (x.toNat / y.toNat), BitVec.ofNat 64 (x.toNat % y.toNat))

def execDiv (g : Guard) (d a b : RegF) (s : State) : R := s.alu2 g d a b 18 (fun x y => (divS x y).1)
def execDivu (g : Guard) (d a b : RegF) (s : State) : R := s.alu2 g d a b 18 (fun x y => (divU x y).1)
def execRem (g : Guard) (d a b : RegF) (s : State) : R := s.alu2 g d a b 18 (fun x y => (divS x y).2)
def execRemu (g : Guard) (d a b : RegF) (s : State) : R := s.alu2 g d a b 18 (fun x y => (divU x y).2)

/-! Bit counts, bit fields, select (06 R127 to R129). -/

/-- Leading zeros of an n-bit number. -/
def clzNat (n x : Nat) : Nat := if x = 0 then n else n - 1 - Nat.log2 x
/-- One bits of the low n bits. -/
def popNat : Nat → Nat → Nat
  | 0, _ => 0
  | n + 1, x => x % 2 + popNat n (x / 2)
/-- Position, width and mask of a bit-field operand. -/
def fieldPos (y : Word) : Nat := y.toNat % 64
def fieldWid (y : Word) : Nat := min (bits y.toNat 14 8) (64 - fieldPos y)
def fieldMask (y : Word) : Word := BitVec.ofNat 64 ((2 ^ fieldWid y - 1) * 2 ^ fieldPos y)

def execClz (g : Guard) (d a : RegF) (s : State) : R :=
  s.alu1 g d a 1 (fun x => BitVec.ofNat 64 (clzNat 64 x.toNat))
def execPopc (g : Guard) (d a : RegF) (s : State) : R :=
  s.alu1 g d a 1 (fun x => BitVec.ofNat 64 (popNat 64 x.toNat))
def execBfx (g : Guard) (d a b : RegF) (s : State) : R :=
  s.alu2 g d a b 1 (fun x y => (x &&& fieldMask y) >>> fieldPos y)
def execBfi (g : Guard) (d a b : RegF) (s : State) : R :=
  s.alu3 g d a b 1 (fun x y z => (z &&& ~~~ fieldMask y) ||| ((x <<< fieldPos y) &&& fieldMask y))
def execSel (g : Guard) (d a b : RegF) (s : State) : R :=
  s.alu3 g d a b 1 (fun x y z => (x &&& z) ||| (y &&& ~~~ z))

/-! Compares, immediates, moves (06 R130 to R132). -/

/-- Post a compare's predicate at latency 2. -/
def State.putCond (s : State) (r : BitVec 1) (p : BitVec 4) (v : Bool) : State :=
  s.post 2 (.p (s.bank.physPn p.toNat (r.getLsbD 0)) v)
def execCmp (g : Guard) (r : BitVec 1) (c : BitVec 2) (p : BitVec 4) (a b : RegF) (s : State) : R :=
  s.when g fun s => let (x, s) := s.takeI a; let (y, s) := s.takeI b; s.putCond r p (intCond c x y)
def execCmpi (g : Guard) (r : BitVec 1) (c : BitVec 2) (p : BitVec 4) (a : RegF) (im : BitVec 7) (s : State) : R :=
  s.when g fun s => let (x, s) := s.takeI a; s.putCond r p (intCond c x (im.signExtend 64))
def execLi (g : Guard) (d : RegF) (im : BitVec 14) (s : State) : R := s.when g fun s => s.putI d 1 (im.signExtend 64)
def execLih (g : Guard) (d : RegF) (im : BitVec 14) (s : State) : R :=
  s.alu1 g d d 1 (fun x => (x <<< 14) ||| im.setWidth 64)
def execMov (g : Guard) (d a : RegF) (s : State) : R := s.alu1 g d a 1 id

/-! Crossings (06 R133 to R137). -/

def execMoviv (g : Guard) (d a : RegF) (s : State) : R :=
  s.when g fun s => let (x, s) := s.takeI a; s.putV d 2 (ofLanes (List.replicate 32 (x.setWidth 32)))
def execMovim (g : Guard) (d a : RegF) (s : State) : R :=
  s.when g fun s => let (x, s) := s.takeI a; s.post 2 (.mp d.toNat x)
def execMovie (g : Guard) (d a : RegF) (s : State) : R :=
  s.when g fun s => let (x, s) := s.takeI a; s.post 2 (.ce d.toNat x)
/-- One lane, sign-extended lane or lane pair as a word (06 R135, 07 R166). -/
def laneWord (v : VWord) (x p : BitVec 1) (n : BitVec 5) : Word :=
  if p.getLsbD 0 then v.extractLsb' (32 * n.toNat) 64
  else if x.getLsbD 0 then (lane v n.toNat).signExtend 64
  else (lane v n.toNat).setWidth 64
def execLdl (g : Guard) (d : RegF) (a : BitVec 6) (x p : BitVec 1) (n : BitVec 5) (s : State) : R :=
  s.when g fun s => s.putI d 2 (laneWord (vget 0 s.bank.lreg a.toNat) x p n)
def execXmov (g : Guard) (d a : RegF) (c : BitVec 2) (s : State) : R :=
  s.when g fun s => let (x, s) := s.takeIn c.toNat a; s.putI d 2 x
/-- The size of an index base's region (03 R59). -/
def baseSize (n : Nat) : Nat := if n = 0 then 24 else if n = 1 then 16 else 8
def execSetib (g : Guard) (sc : BitVec 2) (a : RegF) (im : BitVec 7) (s : State) : R :=
  s.when g fun s =>
    let (x, s) := s.takeI a
    s.post 3 (.ib sc.toNat ((x.toInt + im.toInt).emod (baseSize sc.toNat)).toNat)

/-! Special registers (06 R138, Table 06.7). -/

/-- TASK_STATUS (21 Table 21.3) as it stands. -/
def Task.status (t : Task) : Word :=
  BitVec.ofNat 64 (t.comm.toNat * 8192 + t.cls % 4 * 16384 + t.eclass % 4 * 65536 + t.restored.toNat * 262144 +
    (decide (t.state = .secondary)).toNat * 524288 + (decide (t.cls < t.inherit)).toNat * 1048576 +
    (decide (0 < t.raises)).toNat * 2097152 + t.demoted.toNat * 4194304 + t.expired.toNat * 8388608)
/-- The value of a special register, zero-extended from its width. -/
def State.readSr (s : State) (n : Nat) : Word :=
  let t := s.fg
  let core := s.core (coreOf t.unit)
  if n = 0 then t.status
  else if n = 1 then t.trapCause
  else if n = 2 then t.trapArg
  else if n = 3 then t.chk.setWidth 64
  else if n = 4 then t.arith.setWidth 64
  else if n = 5 then t.lsCtl
  else if n = 6 then t.lsOob
  else if n = 7 then BitVec.ofNat 64 (t.lsBase + t.lsSize * 65536)
  else if n = 8 then BitVec.ofNat 64 t.dmSize
  else if n = 9 then t.pclFault
  else if n = 10 then t.coord
  else if n = 11 then BitVec.ofNat 64 (t.used % 281474976710656)
  else if n = 12 then t.waitStat
  else if n = 13 then t.taskId
  else if n = 14 then fget 0 s.claspFull t.die
  else if n < 0x14 then vget 0 s.bank.lc (n - 0x10)
  else if n < 0x28 then (vget 0 core.fmt (n - 0x20)).setWidth 64
  else if n = 0x30 then core.freeze
  else if n = 0x40 then core.split.setWidth 64
  else vget 0 t.claspRec (n - 0x50)
def execGetsr (g : Guard) (d : RegF) (im : BitVec 14) (s : State) : R :=
  s.when g fun s => s.putI d 1 (s.readSr im.toNat)
/-- The write a SETSR makes at distance 1; a read-only register takes none. -/
def srWrite (n : Nat) (w : Word) : Option RegWrite :=
  if n = 3 ∨ n = 4 ∨ n = 5 then some (.sr n w)
  else if 0x10 ≤ n ∧ n < 0x14 then some (.lc (n - 0x10) w)
  else if 0x20 ≤ n ∧ n < 0x28 ∨ n = 0x40 then some (.sr n w)
  else none
def execSetsr (g : Guard) (d : RegF) (im : BitVec 14) (s : State) : R :=
  s.when g fun s =>
    let (x, s) := s.takeI d
    match srWrite im.toNat x with
    | some w => s.post 1 w
    | none => s

/-! Address generators (06 R140 to R142). -/

/-- The four 16-bit fields of a word. -/
def halves (w : Word) : Vector (BitVec 16) 4 := Vector.ofFn (fun k => w.extractLsb' (16 * k.val) 16)
def execAgset (g : Guard) (d a b : RegF) (s : State) : R :=
  s.when g fun s =>
    let (x, s) := s.takeI a
    let (y, s) := s.takeI b
    s.post 1 (.ag d.toNat ⟨x.setWidth 16, x.getLsbD 16, Vector.replicate 4 0, halves y⟩)
def execAgpos (g : Guard) (d a : RegF) (s : State) : R :=
  s.when g fun s =>
    let (x, s) := s.takeI a
    s.post 1 (.ag d.toNat { vget Ag.zero s.bank.ag d.toNat with c := halves x })
def execAginc (g : Guard) (d : RegF) (m : BitVec 4) (n : BitVec 7) (s : State) : R :=
  s.when g fun s => s.post 1 (.ag d.toNat ((vget Ag.zero s.bank.ag d.toNat).inc m.toNat n.toInt))

end Sys2Proof.Machine
end

