-- ==== Sys2Proof/Machine/Control.lean ====
section
/-!
DEFINITION. The control words of the C slot (04 R81, 06 R109 to R123, 02 R33 to R36): transfers, loops, predicates, the
link register, traps, halt and fences. A word leaves in `ctl` what follows the bundle.
-/
namespace Sys2Proof.Machine

/-- Change what the bundle's words have decided. -/
def State.decideCtl (s : State) (f : Ctl → Ctl) : State := { s with ctl := f s.ctl }
/-- The target of a displacement (04 R79). -/
def target (pc : Nat) (d : Int) : Nat := (((pc : Int) + d).emod 4096).toNat
/-- Take a transfer. -/
def State.jump (s : State) (a : Nat) : State := s.decideCtl (fun c => { c with jump := some a })
/-- A trap decided at issue: the other slots issue, then it is taken (08 R171). -/
def State.trapAtIssue (s : State) (cause : Nat) : State := s.decideCtl (fun c => { c with trap := some cause, place := (0, 0) })
/-- A trap in a word's held first step: no slot of the bundle issues (08 R171). -/
def State.trapNow (s : State) (cause slot : Nat) : State :=
  { s.enterTrap { TrapReq.at cause slot s.col with bodyEnd := s.ctl.bodyEnd } with issue := [], ctl := Ctl.none }
/-- A privileged word: a tile task traps PRIVILEGED whatever the guard (04 R82, R83 step 3). -/
def State.privileged (s : State) (slot : Nat) (r : R) : R :=
  if s.fg.priv then r else .next (s.trapNow Cause.privileged slot)

def execNop (_ : Guard) (s : State) : R := .next s
def execBr (g : Guard) (d : BitVec 21) (s : State) : R := s.when g fun s => s.jump (target s.fg.pc d.toInt)
def execBrn (g : Guard) (d : BitVec 21) (s : State) : R :=
  .next (if s.guard g then s else s.jump (target s.fg.pc d.toInt))
def execCall (g : Guard) (d : BitVec 21) (s : State) : R :=
  s.when g fun s => (s.post 1 (.ln (BitVec.ofNat 64 ((s.fg.pc + 1) % 4096)))).jump (target s.fg.pc d.toInt)
def execRet (g : Guard) (s : State) : R := s.when g fun s => s.jump (s.bank.ln.toNat % 4096)
/-- The follower comes next, then the target read at issue (06 R113). -/
def State.jumpReg (s : State) (a : RegF) : State :=
  let (x, s) := s.takeI a
  s.decideCtl (fun c => { c with indir := some (x.toNat % 4096) })
def execCallr (g : Guard) (a : RegF) (s : State) : R :=
  s.when g fun s => (s.post 1 (.ln (BitVec.ofNat 64 ((s.fg.pc + 2) % 4096)))).jumpReg a
def execJmpr (g : Guard) (a : RegF) (s : State) : R := s.when g fun s => s.jumpReg a

/-- Loop counter n of the executing column. -/
def State.lc (s : State) (n : BitVec 2) : Word := vget 0 s.bank.lc n.toNat
def execLoop (g : Guard) (n : BitVec 2) (d : BitVec 19) (s : State) : R :=
  s.when g fun s =>
    let k := s.lc n
    if k = 0 then s
    else
      let s' := s.post 1 (.lc n.toNat (k - 1))
      if k - 1 ≠ 0 then s'.jump (target s.fg.pc d.toInt) else s'
def execLoopr (g : Guard) (n : BitVec 2) (r : BitVec 3) (d : BitVec 16) (s : State) : R :=
  s.when g fun s =>
    let k := s.lc n
    if k = 0 then s
    else
      let s' := s.post 1 (.lc n.toNat (k - 1))
      if k - 1 ≠ 0 then
        (s'.decideCtl (fun c => { c with rot := some (decide (r.toNat < (k - 1).toNat)) })).jump
          (target s.fg.pc d.toInt)
      else s'
def execLexit (g : Guard) (n : BitVec 2) (d : BitVec 19) (s : State) : R :=
  s.when g fun s => (s.post 1 (.lc n.toNat 0)).jump (target s.fg.pc d.toInt)

/-- Post a predicate at latency 1. -/
def State.putP (s : State) (d : RegF) (v : Bool) : State := s.post 1 (.p (s.bank.physP d) v)
/-- A two-operand predicate operation (06 Table 06.3). -/
def State.pred2 (s : State) (g : Guard) (d a b : RegF) (f : Bool → Bool → Bool) : R :=
  s.when g fun s => s.putP d (f (s.bank.p (s.bank.physP a)) (s.bank.p (s.bank.physP b)))
def execPset (g : Guard) (d : RegF) (v : BitVec 7) (s : State) : R := s.when g fun s => s.putP d (v.getLsbD 0)
def execPand (g : Guard) (d a b : RegF) (s : State) : R := s.pred2 g d a b (· && ·)
def execPor (g : Guard) (d a b : RegF) (s : State) : R := s.pred2 g d a b (· || ·)
def execPxor (g : Guard) (d a b : RegF) (s : State) : R := s.pred2 g d a b (· != ·)
def execPnot (g : Guard) (d a : RegF) (s : State) : R := s.when g fun s => s.putP d (!s.bank.p (s.bank.physP a))
def execPandn (g : Guard) (d a b : RegF) (s : State) : R := s.pred2 g d a b (fun x y => x && !y)

def execGetln (g : Guard) (d : RegF) (s : State) : R := s.when g fun s => s.putI d 2 s.bank.ln
def execSetln (g : Guard) (a : RegF) (s : State) : R :=
  s.when g fun s => let (x, s) := s.takeI a; s.post 2 (.ln x)

/-- TRAP_ARG takes the code of a TRAP or BKPT (06 Table 06.8), after the other slots of the bundle. -/
def State.setArg (s : State) (c : BitVec 8) : State := s.post 1 (.sr 2 (c.setWidth 64))
def execTrap (g : Guard) (c : BitVec 8) (s : State) : R :=
  s.when g fun s => (s.setArg c).trapAtIssue Cause.trapInstr
def execBkpt (g : Guard) (c : BitVec 8) (s : State) : R :=
  s.when g fun s =>
    if s.fg.dbgBkpt then (s.setArg c).decideCtl (fun x => { x with brk := true })
    else (s.setArg c).trapAtIssue Cause.breakpoint
def execEret (g : Guard) (s : State) : R :=
  s.when g fun s =>
    if !s.fg.active then s.trapAtIssue Cause.illegalInstr
    else if s.fg.trapCause.getLsbD 53 then s.decideCtl (fun c => { c with kill := true })
    else s.decideCtl (fun c => { c with eret := true })
def execHalt (g : Guard) (s : State) : R :=
  s.privileged 0 (s.when g fun s => s.decideCtl (fun c => { c with halt := true }))
def execExit (g : Guard) (s : State) : R := s.when g fun s => s.decideCtl (fun c => { c with exit := true })
def execYield (g : Guard) (s : State) : R := s.when g fun s => s.decideCtl (fun c => { c with yield := true })

/-! Fences (02 R33 to R36). -/

def execFencec (g : Guard) (m : BitVec 16) (s : State) : R :=
  s.when g fun s => s.decideCtl (fun c => { c with fence := some m })
/-- The scope a scope executes as under a VF's SCOPE_CAP (02 Table 02.2). -/
def cappedScope (cap sc : Nat) : Nat :=
  if cap = 6 ∧ (sc = 5 ∨ sc = 7) then 6 else if cap = 5 ∧ sc = 7 then 5 else sc
/-- A scoped operation under the VF's policy: demoted, it traps SCOPE_CAP or sets SCOPE_DEMOTED at distance 1 (06 R106); then
`f` at the scope it executes as. The flag says whether it was let through. -/
def State.scoped (s : State) (sc : Nat) : Bool × Nat × State :=
  let v := s.vf s.fg.vf
  let sc' := cappedScope v.scopeCap sc
  if sc' = sc then (true, sc, s)
  else if v.scopeTrap then (false, sc', s.trapAtIssue Cause.scopeCap)
  else (true, sc', s.post 1 (.sr 1 1))
def execFencesc (g : Guard) (sc : BitVec 3) (s : State) : R :=
  s.when g fun s =>
    let (ok, x, s) := s.scoped sc.toNat
    if ok then s.decideCtl (fun c => { c with fence := some (BitVec.allOnes 16), fscope := some x }) else s

end Sys2Proof.Machine
end

