-- ==== Sys2Proof/WellFormed.lean ====
section
/-!
DEFINITION. Which slot words are instructions: the register numbers and relative flags of 03 R58, the landing
registers of R56, the reserved values of the entries (04 R83 step 2). What depends on the unit or on the index bases
at presentation is checked there (Machine/Present.lean). An event is always well formed.
-/
namespace Sys2Proof
namespace WellFormed

/-- An i field: every number, relative only inside i32 to i55 (03 R58). -/
def regI (f : RegF) : Bool :=
  !f.getLsbD 6 || (decide (32 ≤ f.toNat % 64) && decide (f.toNat % 64 < 56))
/-- An i field of an engine word whose entry reserves i56 to i63 (10 R198, 13 R239, 16 R283, 18 R315). -/
def regEng (f : RegF) : Bool := regI f && decide (f.toNat % 64 < 56)
/-- A v field: below 32, relative only inside v16 to v31. -/
def regV (f : RegF) : Bool :=
  decide (f.toNat % 64 < 32) && (!f.getLsbD 6 || decide (16 ≤ f.toNat % 64))
/-- A p field: below 16, relative only inside p8 to p15. -/
def regP (f : RegF) : Bool :=
  decide (f.toNat % 64 < 16) && (!f.getLsbD 6 || decide (8 ≤ f.toNat % 64))
/-- A k field: k0 to k7, never relative. -/
def regK (f : RegF) : Bool := decide (f.toNat < 8)
/-- A field that names one of eight registers directly: mp, ce, ag. -/
def regEight (f : RegF) : Bool := decide (f.toNat < 8)
/-- A field that names a landing register directly. -/
def regL (f : RegF) : Bool := decide (f.toNat < 16)
/-- LDL's six-bit landing register field. -/
def regL6 (f : BitVec 6) : Bool := decide (f.toNat < 16)
/-- TQRY's six-bit address generator field. -/
def regAg6 (f : BitVec 6) : Bool := decide (f.toNat < 8)
/-- LDL and VTOI: PAIR excludes SX and odd lanes (06 R135, 07 R166). -/
def laneReadOk (x p : BitVec 1) (n : BitVec 5) : Bool :=
  !p.getLsbD 0 || (!x.getLsbD 0 && !n.getLsbD 0)
/-- FCVT: the PART range of each conversion and its reserved codes (07 Table 07.5). -/
def fcvtOk (sel : BitVec 2) (conv : BitVec 3) (part : BitVec 2) : Bool :=
  match conv.toNat with
  | 0 | 1 | 4 => decide (part.toNat ≤ 1)
  | 2 | 3 => true
  | 5 => decide (2 ≤ sel.toNat) || decide (part.toNat ≤ 1)
  | 6 => decide (sel.toNat = 0) && decide (part.toNat ≤ 1)
  | _ => false
/-- The numbers of 06 Table 06.7. -/
def srAssigned (n : Nat) : Bool :=
  decide (n ≤ 0x00E) || (decide (0x010 ≤ n) && decide (n ≤ 0x013)) || (decide (0x020 ≤ n) && decide (n ≤ 0x027)) ||
  decide (n = 0x030) || decide (n = 0x040) || (decide (0x050 ≤ n) && decide (n ≤ 0x070))

end WellFormed

open WellFormed in
/-- The static checks of 04 R83 step 2 on one instruction. -/
def Instr.wf : Instr → Bool
  | .nop _ => true
  | .br _ _ => true
  | .brn _ _ => true
  | .call _ _ => true
  | .callr _ a => regI a
  | .jmpr _ a => regI a
  | .ret _ => true
  | .loop _ _ _ => true
  | .loopr _ _ _ _ => true
  | .lexit _ _ _ => true
  | .pset _ d v => regP d && decide (v.toNat ≤ 1)
  | .pand _ d a b => regP d && regP a && regP b
  | .por _ d a b => regP d && regP a && regP b
  | .pxor _ d a b => regP d && regP a && regP b
  | .pnot _ d a => regP d && regP a
  | .pandn _ d a b => regP d && regP a && regP b
  | .trap _ _ => true
  | .eret _ => true
  | .bkpt _ _ => true
  | .fencec _ _ => true
  | .fencesc _ sc => decide (sc.toNat ≠ 0)
  | .getln _ d => regI d
  | .setln _ a => regI a
  | .halt _ => true
  | .exit _ => true
  | .yield _ => true
  | .bar _ sc => decide (1 ≤ sc.toNat ∧ sc.toNat ≤ 5)
  | .waitv _ a b => regI a && regI b
  | .waitt _ d a b => regI d && regI a && regI b
  | .lock _ a => regI a
  | .unlock _ a => regI a
  | .tkwait _ a b => regI a && regI b
  | .sstep _ sc => decide (sc.toNat = 3 ∨ sc.toNat = 4)
  | .prio _ im => decide (im.toNat ≤ 3)
  | .gettime _ d => regI d
  | .dlinfo _ d _ => regI d
  | .valid _ _ a => regI a
  | .wobj _ a => regI a
  | .wdrop _ a => regI a
  | .add _ d a b => regI d && regI a && regI b
  | .addi _ d a _ => regI d && regI a
  | .sub _ d a b => regI d && regI a && regI b
  | .mul _ d a b => regI d && regI a && regI b
  | .mulh _ d a b => regI d && regI a && regI b
  | .mulhu _ d a b => regI d && regI a && regI b
  | .div _ d a b => regI d && regI a && regI b
  | .divu _ d a b => regI d && regI a && regI b
  | .rem _ d a b => regI d && regI a && regI b
  | .remu _ d a b => regI d && regI a && regI b
  | .and _ d a b => regI d && regI a && regI b
  | .andi _ d a _ => regI d && regI a
  | .or _ d a b => regI d && regI a && regI b
  | .ori _ d a _ => regI d && regI a
  | .xor _ d a b => regI d && regI a && regI b
  | .xori _ d a _ => regI d && regI a
  | .shl _ d a b => regI d && regI a && regI b
  | .shli _ d a im => regI d && regI a && !im.msb
  | .shr _ d a b => regI d && regI a && regI b
  | .shri _ d a im => regI d && regI a && !im.msb
  | .sar _ d a b => regI d && regI a && regI b
  | .sari _ d a im => regI d && regI a && !im.msb
  | .min _ d a b => regI d && regI a && regI b
  | .max _ d a b => regI d && regI a && regI b
  | .minu _ d a b => regI d && regI a && regI b
  | .maxu _ d a b => regI d && regI a && regI b
  | .clz _ d a => regI d && regI a
  | .popc _ d a => regI d && regI a
  | .bfx _ d a b => regI d && regI a && regI b
  | .bfi _ d a b => regI d && regI a && regI b
  | .sel _ d a b => regI d && regI a && regI b
  | .cmp _ r _ p a b => regI a && regI b && (!r.getLsbD 0 || decide (8 ≤ p.toNat))
  | .cmpi _ r _ p a _ => regI a && (!r.getLsbD 0 || decide (8 ≤ p.toNat))
  | .li _ d _ => regI d
  | .lih _ d _ => regI d
  | .mov _ d a => regI d && regI a
  | .moviv _ d a => regV d && regI a
  | .movim _ d a => regEight d && regI a
  | .movie _ d a => regEight d && regI a
  | .setib _ sc a _ => regI a && decide (sc.toNat ≤ 2)
  | .getsr _ d im => regI d && srAssigned im.toNat
  | .setsr _ d im => regI d && srAssigned im.toNat
  | .agset _ d a b => regEight d && regI a && regI b
  | .agpos _ d a => regEight d && regI a
  | .aginc _ d _ _ => regEight d
  | .lds _ _ _ o _ _ _ => decide (8 ≤ o.toNat)
  | .sts _ _ _ _ _ _ => true
  | .ldt _ _ _ o _ _ _ => decide (8 ≤ o.toNat)
  | .stt _ _ _ _ _ _ => true
  | .ldd _ _ _ o _ _ _ => decide (8 ≤ o.toNat)
  | .std _ _ _ _ _ _ => true
  | .ldl _ d a x p n => regI d && regL6 a && laneReadOk x p n
  | .tqry _ d a => regI d && regAg6 a
  | .xmov _ d a _ => regI d && regI a
  | .pld _ _ _ o _ _ _ => decide (8 ≤ o.toNat)
  | .pst _ _ _ _ _ _ => true
  | .pldref _ _ _ o _ _ => decide (8 ≤ o.toNat)
  | .pstref _ _ _ _ _ => true
  | .fadd _ d a b => regV d && regV a && regV b
  | .fsub _ d a b => regV d && regV a && regV b
  | .fmul _ d a b => regV d && regV a && regV b
  | .ffma _ _ _ _ _ _ => true
  | .ffms _ _ _ _ _ _ => true
  | .fnma _ _ _ _ _ _ => true
  | .fmin _ d a b => regV d && regV a && regV b
  | .fmax _ d a b => regV d && regV a && regV b
  | .fabs _ d a => regV d && regV a
  | .fneg _ d a => regV d && regV a
  | .fcps _ d a b => regV d && regV a && regV b
  | .fcmp _ c _ a b => regV a && regV b && decide (c.toNat ≤ 4)
  | .fcvt _ d a sc c p => regV d && regV a && fcvtOk sc c p
  | .frnd _ d a _ => regV d && regV a
  | .ftoi _ d a _ => regV d && regV a
  | .itof _ d a => regV d && regV a
  | .vadd _ d a b => regV d && regV a && regV b
  | .vsub _ d a b => regV d && regV a && regV b
  | .vmul _ d a b => regV d && regV a && regV b
  | .vmulh _ d a b => regV d && regV a && regV b
  | .vand _ d a b => regV d && regV a && regV b
  | .vor _ d a b => regV d && regV a && regV b
  | .vxor _ d a b => regV d && regV a && regV b
  | .vshl _ d a b => regV d && regV a && regV b
  | .vshr _ d a b => regV d && regV a && regV b
  | .vsar _ d a b => regV d && regV a && regV b
  | .vmin _ d a b => regV d && regV a && regV b
  | .vmax _ d a b => regV d && regV a && regV b
  | .vcmp _ c _ a b => regV a && regV b && decide (c.toNat ≤ 5)
  | .vsel _ _ _ _ _ _ => true
  | .vperm _ d a b => regV d && regV a && regV b
  | .vbcast _ d a p n => regV d && regV a && (!p.getLsbD 0 || !n.getLsbD 0)
  | .vred _ d a fl o _ => regV d && regV a && (decide (o.toNat ≠ 3) || !fl.getLsbD 0)
  | .viota _ d _ => regV d
  | .vmov _ d a sc => regV d && (if sc.getLsbD 0 then regL a else regV a)
  | .vtoi _ d a x p n => regI d && regV a && laneReadOk x p n
  | .kop _ d a o b => regK d && regK a && decide (o.toNat ≤ 5) && (decide (o.toNat < 4) || decide (b.toNat = 0))
  | .requant _ d a _ _ => regV d && regV a
  | .vdot4 _ d a b => regV d && regV a && regV b
  | .vxmov _ d a _ => regV d && regV a
  | .fn _ d a _ => regV d && regV a
  | .fnp _ d a _ => regV d && regV a
  | .frcp _ d a => regV d && regV a
  | .frsq _ d a => regV d && regV a
  | .mcfg _ a => regEng a
  | .tcfg _ a _ => regEng a
  | .tzero _ _ => true
  | .treshape _ a _ => regEng a
  | .tldq _ a b => regEng a && regEng b
  | .tld _ a _ => regEng a
  | .tst _ a _ _ => regEng a
  | .tstO _ a b _ => regEng a && regEng b
  | .qbind _ a _ => regEng a
  | .qdrop _ _ u fl => (u.getLsbD 0 || fl.getLsbD 0)
  | .chain _ a _ => regEng a
  | .chainm _ a _ _ => regEng a
  | .chfin _ _ => true
  | .stsave _ a b _ => regEng a && regEng b
  | .stld _ a => regEng a
  | .stldMerge _ a b => regEng a && regEng b
  | .mcall _ a => regEng a
  | .mrep _ a => regEng a
  | .mvb _ a b => regEng a && regEng b
  | .mv _ a _ => regEng a
  | .mpoll _ a => regEng a
  | .chld _ a b => regEng a && regEng b
  | .ftld _ a _ => regEng a
  | .fmld _ a _ => regEng a
  | .rowstat _ a _ _ _ => regEng a
  | .cpy _ _ => true
  | .cpyl _ a b _ => regEng a && regEng b
  | .cpyq _ _ _ => true
  | .kvcommit _ a b _ => regEng a && regEng b
  | .give _ a b e _ => regEng a && regEng b && decide (e.toNat ≤ 3)
  | .take _ a b e _ => regEng a && regEng b && decide (e.toNat ≤ 3)
  | .cbcfg _ a _ => regEng a
  | .cbpush _ _ => true
  | .cbpop _ a _ => regEng a
  | .cpyst _ a => regEng a
  | .ttinv _ a b _ => regI a && regI b
  | .badd _ a b _ z => regEng a && regEng b && decide (z.toNat ≤ 1)
  | .bfadd _ a b _ fl => regEng a && regEng b && decide (fl.toNat ≤ 2)
  | .bmin _ a b _ _ z => regEng a && regEng b && decide (z.toNat ≤ 1)
  | .bmax _ a b _ _ z => regEng a && regEng b && decide (z.toNat ≤ 1)
  | .band _ a b _ z => regEng a && regEng b && decide (z.toNat ≤ 1)
  | .bor _ a b _ z => regEng a && regEng b && decide (z.toNat ≤ 1)
  | .bxor _ a b _ z => regEng a && regEng b && decide (z.toNat ≤ 1)
  | .bswp _ a b _ z => regEng a && regEng b && decide (z.toNat ≤ 1)
  | .bcas _ a b _ z => regEng a && regEng b && !b.getLsbD 0 && decide (z.toNat ≤ 1)
  | .bfaa _ a b _ z => regEng a && regEng b && decide (z.toNat ≤ 1)
  | .tktake _ a _ => regEng a
  | .tknext _ a _ _ => regI a
  | .put _ a b _ _ => regI a && regI b
  | .lqbind _ a u m d _ => regI a && (!u.getLsbD 0 || (!m.getLsbD 0 && !d.getLsbD 0)) && ((!u.getLsbD 0 && (d.getLsbD 0 || !m.getLsbD 0)) || decide (a.toNat = 0))
  | .radd _ a b _ _ _ => regEng a && regEng b
  | .rcas _ a b _ _ => regEng a && regEng b && !b.getLsbD 0
  | .rswp _ a b _ _ => regEng a && regEng b
  | .rred _ a b _ fl => regI a && regI b && decide (fl.toNat ≤ 2)
  | .rget _ a b _ _ => regEng a && regEng b
  | .rput _ a b _ _ => regEng a && regEng b
  | .beadld _ a b _ _ => regI a && regI b
  | .pnew _ a b => regI a && regI b
  | .pgrow _ a b => regI a && regI b
  | .ptrim _ a b => regI a && regI b
  | .post _ a b => regI a && regI b
  | .precv _ a b => regI a && regI b
  | .pfree _ a => regI a
  | .bundlePresentation => true
  | .deferredTrap => true
  | .latencyWriteback => true
  | .landingDataArrival => true
  | .freezeTimeout => true
  | .commandRecordEntry => true
  | .slipStop => true
  | .secondaryForcedIssue => true
  | .cbProducerCompletion => true
  | .cbConsumerCompletion => true
  | .takeFlip => true
  | .cbpopGrant => true
  | .deliveredResultWrite => true
  | .cbcfgApply => true
  | .completionRecord => true
  | .ttinvCompletion => true
  | .portAccess => true
  | .tileTableMiss => true
  | .pageAnswer => true
  | .uncorrectableHbmError => true
  | .bankAccess => true
  | .dmUncorrectableError => true
  | .monitorWake => true
  | .barrierCompletion => true
  | .superstepCompletion => true
  | .putArrival => true
  | .pairFire => true
  | .chainCommit => true
  | .mvGroupCommit => true
  | .charmCompletion => true
  | .charmWrite => true
  | .boundQueueWord => true
  | .requestInject => true
  | .remoteRequestReceive => true
  | .remoteReply => true
  | .retransmitTimeout => true
  | .circuitFlitArrival => true
  | .sendFifoPartialFlush => true
  | .unsafeMapUpdate => true
  | .laneRetirement => true
  | .beadTableCommit => true
  | .mailboxGrant => true
  | .parcelArrival => true
  | .parcelDeliveryAck => true
  | .schedulingPoint => true
  | .urgentStop => true
  | .roleSwap => true
  | .sliceEndEviction => true
  | .antiStarvationRaise => true
  | .launchEnd => true
  | .deadlineExpiry => true
  | .wrapupBudgetExpiry => true
  | .waittLimitExpiry => true
  | .firmwareCycleWalk => true
  | .debugHaltRequest => true
  | .debugResume => true
  | .locketCancel => true
  | .debuggerRegisterWrite => true
  | .coreSplitWrite => true
  | .bankFmtWrite => true
  | .registerWrite => true
  | .doorbell => true
  | .queueIdleUnmap => true
  | .nopPacket => true
  | .launch => true
  | .barrierAnd => true
  | .barrierAndEvaluation => true
  | .signal => true
  | .copy => true
  | .segtab => true
  | .segmentCopyComplete => true
  | .frontEndTick => true
  | .tokenBucketEmpty => true
  | .frontEndWake => true
  | .queueReset => true
  | .queueDestroy => true
  | .tableUpdate => true
  | .lockstepMismatch => true
  | .workerFailure => true
  | .vfRecord => true
  | .vfReset => true
  | .interfaceLock => true
  | .interfaceStart => true
  | .interfaceStop => true
  | .sessionEnd => true
  | .getMeasurements => true
  | .tileMove => true
  | .preCopyRound => true
  | .finalRound => true
  | .activation => true
  | .migrationEnd => true
  | .bringUp => true
  | .recoveryBootImage => true
  | .ptpSync => true
  | .timeUnlocked => true
  | .healthMonitorSample => true
  | .healthReport => true
  | .fatalEvent => true
  | .fatalNodump => true
  | .resetPackage => true
  | .stripTransferCompletion => true
  | .dispenserAccess => true
  | .endpointPacketArrival => true
  | .spdmSessionStart => true

end Sys2Proof
end

