-- ==== Sys2Proof/Decode.lean ====
section
/-!
DEFINITION. The decoder: a slot and its 32-bit word to an instruction or a rejection by name (04 R77 to R83), and
after it the encoder, written from the same tables. Field positions are those of 04 Table 04.2 and the entries.
-/
namespace Sys2Proof

/-- Why a slot word is no instruction (04 R83 step 2). -/
inductive Reject where
  | unassignedOpcode
  | reservedBits
  | reservedValue
  deriving DecidableEq, Repr

/-- What decoding a slot word gives. -/
inductive Decoded where
  | instr (i : Instr)
  | rejected (r : Reject)
  deriving DecidableEq, Repr

/-- The opcode, bits 31:25 (04 R77). -/
def opcodeOf (w : Lane) : Nat := w.toNat / 33554432

/-- Bits lo to lo + n - 1 of a slot word. -/
def bitsOf (w : Lane) (lo n : Nat) : BitVec n := w.extractLsb' lo n

/-- A row: its reserved bits must match, then its instruction must be well formed. -/
def rowOf (w mask pat : Lane) (i : Instr) : Decoded :=
  if w &&& mask = pat then (if i.wf then .instr i else .rejected .reservedValue) else .rejected .reservedBits

/-- NOP, opcode 0 of every slot (04 R81). -/
def decodeNop (w : Lane) : Decoded := rowOf w 0xFE1FFFFF 0 (.nop (bitsOf w 21 4))

/-- The C-slot opcode map (04 Table 04.4). -/
def decodeC (w : Lane) : Decoded :=
  match opcodeOf w with
  | 0x00 => decodeNop w
  | 0x01 => rowOf w 0xFE000000 0x02000000 (.br (bitsOf w 21 4) (bitsOf w 0 21))
  | 0x02 => rowOf w 0xFE000000 0x04000000 (.brn (bitsOf w 21 4) (bitsOf w 0 21))
  | 0x03 => rowOf w 0xFE000000 0x06000000 (.call (bitsOf w 21 4) (bitsOf w 0 21))
  | 0x04 => rowOf w 0xFE1FC07F 0x08000000 (.callr (bitsOf w 21 4) (bitsOf w 7 7))
  | 0x05 => rowOf w 0xFE1FC07F 0x0A000000 (.jmpr (bitsOf w 21 4) (bitsOf w 7 7))
  | 0x06 => rowOf w 0xFE1FFFFF 0x0C000000 (.ret (bitsOf w 21 4))
  | 0x07 => rowOf w 0xFE000000 0x0E000000 (.loop (bitsOf w 21 4) (bitsOf w 19 2) (bitsOf w 0 19))
  | 0x08 => rowOf w 0xFE000000 0x10000000 (.loopr (bitsOf w 21 4) (bitsOf w 19 2) (bitsOf w 16 3) (bitsOf w 0 16))
  | 0x09 => rowOf w 0xFE000000 0x12000000 (.lexit (bitsOf w 21 4) (bitsOf w 19 2) (bitsOf w 0 19))
  | 0x0A => rowOf w 0xFE003F80 0x14000000 (.pset (bitsOf w 21 4) (bitsOf w 14 7) (bitsOf w 0 7))
  | 0x0B => rowOf w 0xFE000000 0x16000000 (.pand (bitsOf w 21 4) (bitsOf w 14 7) (bitsOf w 7 7) (bitsOf w 0 7))
  | 0x0C => rowOf w 0xFE000000 0x18000000 (.por (bitsOf w 21 4) (bitsOf w 14 7) (bitsOf w 7 7) (bitsOf w 0 7))
  | 0x0D => rowOf w 0xFE000000 0x1A000000 (.pxor (bitsOf w 21 4) (bitsOf w 14 7) (bitsOf w 7 7) (bitsOf w 0 7))
  | 0x0E => rowOf w 0xFE00007F 0x1C000000 (.pnot (bitsOf w 21 4) (bitsOf w 14 7) (bitsOf w 7 7))
  | 0x0F => rowOf w 0xFE000000 0x1E000000 (.pandn (bitsOf w 21 4) (bitsOf w 14 7) (bitsOf w 7 7) (bitsOf w 0 7))
  | 0x10 => rowOf w 0xFE1FFF00 0x20000000 (.trap (bitsOf w 21 4) (bitsOf w 0 8))
  | 0x11 => rowOf w 0xFE1FFFFF 0x22000000 (.eret (bitsOf w 21 4))
  | 0x12 => rowOf w 0xFE1FFF00 0x24000000 (.bkpt (bitsOf w 21 4) (bitsOf w 0 8))
  | 0x13 => rowOf w 0xFE00001F 0x26000000 (.fencec (bitsOf w 21 4) (bitsOf w 5 16))
  | 0x14 => rowOf w 0xFE1FFFE3 0x28000000 (.fencesc (bitsOf w 21 4) (bitsOf w 2 3))
  | 0x15 => rowOf w 0xFE003FFF 0x2A000000 (.getln (bitsOf w 21 4) (bitsOf w 14 7))
  | 0x16 => rowOf w 0xFE1FC07F 0x2C000000 (.setln (bitsOf w 21 4) (bitsOf w 7 7))
  | 0x17 => rowOf w 0xFE1FFFFF 0x2E000000 (.halt (bitsOf w 21 4))
  | 0x30 => rowOf w 0xFE1FFFFF 0x60000000 (.exit (bitsOf w 21 4))
  | 0x31 => rowOf w 0xFE1FFFFF 0x62000000 (.yield (bitsOf w 21 4))
  | 0x32 => rowOf w 0xFE1FFFE3 0x64000000 (.bar (bitsOf w 21 4) (bitsOf w 2 3))
  | 0x33 => rowOf w 0xFE1FC000 0x66000000 (.waitv (bitsOf w 21 4) (bitsOf w 7 7) (bitsOf w 0 7))
  | 0x34 => rowOf w 0xFE000000 0x68000000 (.waitt (bitsOf w 21 4) (bitsOf w 14 7) (bitsOf w 7 7) (bitsOf w 0 7))
  | 0x35 => rowOf w 0xFE1FC07F 0x6A000000 (.lock (bitsOf w 21 4) (bitsOf w 7 7))
  | 0x36 => rowOf w 0xFE1FC07F 0x6C000000 (.unlock (bitsOf w 21 4) (bitsOf w 7 7))
  | 0x37 => rowOf w 0xFE1FC000 0x6E000000 (.tkwait (bitsOf w 21 4) (bitsOf w 7 7) (bitsOf w 0 7))
  | 0x38 => rowOf w 0xFE1FFFE3 0x70000000 (.sstep (bitsOf w 21 4) (bitsOf w 2 3))
  | 0x39 => rowOf w 0xFE1FFF80 0x72000000 (.prio (bitsOf w 21 4) (bitsOf w 0 7))
  | 0x3A => rowOf w 0xFE003FFF 0x74000000 (.gettime (bitsOf w 21 4) (bitsOf w 14 7))
  | 0x3B => rowOf w 0xFE003FFC 0x76000000 (.dlinfo (bitsOf w 21 4) (bitsOf w 14 7) (bitsOf w 0 2))
  | 0x3C => rowOf w 0xFE1F007F 0x78000000 (.valid (bitsOf w 21 4) (bitsOf w 14 2) (bitsOf w 7 7))
  | 0x3D => rowOf w 0xFE1FC07F 0x7A000000 (.wobj (bitsOf w 21 4) (bitsOf w 7 7))
  | 0x3E => rowOf w 0xFE1FC07F 0x7C000000 (.wdrop (bitsOf w 21 4) (bitsOf w 7 7))
  | _ => .rejected .unassignedOpcode

/-- The I-slot opcode map (04 Table 04.5). -/
def decodeI (w : Lane) : Decoded :=
  match opcodeOf w with
  | 0x00 => decodeNop w
  | 0x01 => rowOf w 0xFE000000 0x02000000 (.add (bitsOf w 21 4) (bitsOf w 14 7) (bitsOf w 7 7) (bitsOf w 0 7))
  | 0x02 => rowOf w 0xFE000000 0x04000000 (.addi (bitsOf w 21 4) (bitsOf w 14 7) (bitsOf w 7 7) (bitsOf w 0 7))
  | 0x03 => rowOf w 0xFE000000 0x06000000 (.sub (bitsOf w 21 4) (bitsOf w 14 7) (bitsOf w 7 7) (bitsOf w 0 7))
  | 0x04 => rowOf w 0xFE000000 0x08000000 (.mul (bitsOf w 21 4) (bitsOf w 14 7) (bitsOf w 7 7) (bitsOf w 0 7))
  | 0x05 => rowOf w 0xFE000000 0x0A000000 (.mulh (bitsOf w 21 4) (bitsOf w 14 7) (bitsOf w 7 7) (bitsOf w 0 7))
  | 0x06 => rowOf w 0xFE000000 0x0C000000 (.mulhu (bitsOf w 21 4) (bitsOf w 14 7) (bitsOf w 7 7) (bitsOf w 0 7))
  | 0x07 => rowOf w 0xFE000000 0x0E000000 (.div (bitsOf w 21 4) (bitsOf w 14 7) (bitsOf w 7 7) (bitsOf w 0 7))
  | 0x08 => rowOf w 0xFE000000 0x10000000 (.divu (bitsOf w 21 4) (bitsOf w 14 7) (bitsOf w 7 7) (bitsOf w 0 7))
  | 0x09 => rowOf w 0xFE000000 0x12000000 (.rem (bitsOf w 21 4) (bitsOf w 14 7) (bitsOf w 7 7) (bitsOf w 0 7))
  | 0x0A => rowOf w 0xFE000000 0x14000000 (.remu (bitsOf w 21 4) (bitsOf w 14 7) (bitsOf w 7 7) (bitsOf w 0 7))
  | 0x0B => rowOf w 0xFE000000 0x16000000 (.and (bitsOf w 21 4) (bitsOf w 14 7) (bitsOf w 7 7) (bitsOf w 0 7))
  | 0x0C => rowOf w 0xFE000000 0x18000000 (.andi (bitsOf w 21 4) (bitsOf w 14 7) (bitsOf w 7 7) (bitsOf w 0 7))
  | 0x0D => rowOf w 0xFE000000 0x1A000000 (.or (bitsOf w 21 4) (bitsOf w 14 7) (bitsOf w 7 7) (bitsOf w 0 7))
  | 0x0E => rowOf w 0xFE000000 0x1C000000 (.ori (bitsOf w 21 4) (bitsOf w 14 7) (bitsOf w 7 7) (bitsOf w 0 7))
  | 0x0F => rowOf w 0xFE000000 0x1E000000 (.xor (bitsOf w 21 4) (bitsOf w 14 7) (bitsOf w 7 7) (bitsOf w 0 7))
  | 0x10 => rowOf w 0xFE000000 0x20000000 (.xori (bitsOf w 21 4) (bitsOf w 14 7) (bitsOf w 7 7) (bitsOf w 0 7))
  | 0x11 => rowOf w 0xFE000000 0x22000000 (.shl (bitsOf w 21 4) (bitsOf w 14 7) (bitsOf w 7 7) (bitsOf w 0 7))
  | 0x12 => rowOf w 0xFE000000 0x24000000 (.shli (bitsOf w 21 4) (bitsOf w 14 7) (bitsOf w 7 7) (bitsOf w 0 7))
  | 0x13 => rowOf w 0xFE000000 0x26000000 (.shr (bitsOf w 21 4) (bitsOf w 14 7) (bitsOf w 7 7) (bitsOf w 0 7))
  | 0x14 => rowOf w 0xFE000000 0x28000000 (.shri (bitsOf w 21 4) (bitsOf w 14 7) (bitsOf w 7 7) (bitsOf w 0 7))
  | 0x15 => rowOf w 0xFE000000 0x2A000000 (.sar (bitsOf w 21 4) (bitsOf w 14 7) (bitsOf w 7 7) (bitsOf w 0 7))
  | 0x16 => rowOf w 0xFE000000 0x2C000000 (.sari (bitsOf w 21 4) (bitsOf w 14 7) (bitsOf w 7 7) (bitsOf w 0 7))
  | 0x17 => rowOf w 0xFE000000 0x2E000000 (.min (bitsOf w 21 4) (bitsOf w 14 7) (bitsOf w 7 7) (bitsOf w 0 7))
  | 0x18 => rowOf w 0xFE000000 0x30000000 (.max (bitsOf w 21 4) (bitsOf w 14 7) (bitsOf w 7 7) (bitsOf w 0 7))
  | 0x19 => rowOf w 0xFE000000 0x32000000 (.minu (bitsOf w 21 4) (bitsOf w 14 7) (bitsOf w 7 7) (bitsOf w 0 7))
  | 0x1A => rowOf w 0xFE000000 0x34000000 (.maxu (bitsOf w 21 4) (bitsOf w 14 7) (bitsOf w 7 7) (bitsOf w 0 7))
  | 0x1B => rowOf w 0xFE00007F 0x36000000 (.clz (bitsOf w 21 4) (bitsOf w 14 7) (bitsOf w 7 7))
  | 0x1C => rowOf w 0xFE00007F 0x38000000 (.popc (bitsOf w 21 4) (bitsOf w 14 7) (bitsOf w 7 7))
  | 0x1D => rowOf w 0xFE000000 0x3A000000 (.bfx (bitsOf w 21 4) (bitsOf w 14 7) (bitsOf w 7 7) (bitsOf w 0 7))
  | 0x1E => rowOf w 0xFE000000 0x3C000000 (.bfi (bitsOf w 21 4) (bitsOf w 14 7) (bitsOf w 7 7) (bitsOf w 0 7))
  | 0x1F => rowOf w 0xFE000000 0x3E000000 (.sel (bitsOf w 21 4) (bitsOf w 14 7) (bitsOf w 7 7) (bitsOf w 0 7))
  | 0x20 => rowOf w 0xFE000000 0x40000000 (.cmp (bitsOf w 21 4) (bitsOf w 20 1) (bitsOf w 18 2) (bitsOf w 14 4) (bitsOf w 7 7) (bitsOf w 0 7))
  | 0x21 => rowOf w 0xFE000000 0x42000000 (.cmpi (bitsOf w 21 4) (bitsOf w 20 1) (bitsOf w 18 2) (bitsOf w 14 4) (bitsOf w 7 7) (bitsOf w 0 7))
  | 0x22 => rowOf w 0xFE000000 0x44000000 (.li (bitsOf w 21 4) (bitsOf w 14 7) (bitsOf w 0 14))
  | 0x23 => rowOf w 0xFE000000 0x46000000 (.lih (bitsOf w 21 4) (bitsOf w 14 7) (bitsOf w 0 14))
  | 0x24 => rowOf w 0xFE00007F 0x48000000 (.mov (bitsOf w 21 4) (bitsOf w 14 7) (bitsOf w 7 7))
  | 0x25 => rowOf w 0xFE00007F 0x4A000000 (.moviv (bitsOf w 21 4) (bitsOf w 14 7) (bitsOf w 7 7))
  | 0x26 => rowOf w 0xFE00007F 0x4C000000 (.movim (bitsOf w 21 4) (bitsOf w 14 7) (bitsOf w 7 7))
  | 0x27 => rowOf w 0xFE00007F 0x4E000000 (.movie (bitsOf w 21 4) (bitsOf w 14 7) (bitsOf w 7 7))
  | 0x28 => rowOf w 0xFE1F0000 0x50000000 (.setib (bitsOf w 21 4) (bitsOf w 14 2) (bitsOf w 7 7) (bitsOf w 0 7))
  | 0x29 => rowOf w 0xFE000000 0x52000000 (.getsr (bitsOf w 21 4) (bitsOf w 14 7) (bitsOf w 0 14))
  | 0x2A => rowOf w 0xFE000000 0x54000000 (.setsr (bitsOf w 21 4) (bitsOf w 14 7) (bitsOf w 0 14))
  | 0x2B => rowOf w 0xFE000000 0x56000000 (.agset (bitsOf w 21 4) (bitsOf w 14 7) (bitsOf w 7 7) (bitsOf w 0 7))
  | 0x2C => rowOf w 0xFE00007F 0x58000000 (.agpos (bitsOf w 21 4) (bitsOf w 14 7) (bitsOf w 7 7))
  | 0x2D => rowOf w 0xFE003800 0x5A000000 (.aginc (bitsOf w 21 4) (bitsOf w 14 7) (bitsOf w 7 4) (bitsOf w 0 7))
  | 0x2E => rowOf w 0xFE000004 0x5C000000 (.lds (bitsOf w 21 4) (bitsOf w 17 4) (bitsOf w 14 3) (bitsOf w 8 6) (bitsOf w 4 4) (bitsOf w 3 1) (bitsOf w 0 2))
  | 0x2F => rowOf w 0xFE003F04 0x5E000000 (.sts (bitsOf w 21 4) (bitsOf w 17 4) (bitsOf w 14 3) (bitsOf w 4 4) (bitsOf w 3 1) (bitsOf w 0 2))
  | 0x30 => rowOf w 0xFE000004 0x60000000 (.ldt (bitsOf w 21 4) (bitsOf w 17 4) (bitsOf w 14 3) (bitsOf w 8 6) (bitsOf w 4 4) (bitsOf w 3 1) (bitsOf w 0 2))
  | 0x31 => rowOf w 0xFE003F04 0x62000000 (.stt (bitsOf w 21 4) (bitsOf w 17 4) (bitsOf w 14 3) (bitsOf w 4 4) (bitsOf w 3 1) (bitsOf w 0 2))
  | 0x32 => rowOf w 0xFE000004 0x64000000 (.ldd (bitsOf w 21 4) (bitsOf w 17 4) (bitsOf w 14 3) (bitsOf w 8 6) (bitsOf w 4 4) (bitsOf w 3 1) (bitsOf w 0 2))
  | 0x33 => rowOf w 0xFE003F04 0x66000000 (.std (bitsOf w 21 4) (bitsOf w 17 4) (bitsOf w 14 3) (bitsOf w 4 4) (bitsOf w 3 1) (bitsOf w 0 2))
  | 0x34 => rowOf w 0xFE002000 0x68000000 (.ldl (bitsOf w 21 4) (bitsOf w 14 7) (bitsOf w 7 6) (bitsOf w 6 1) (bitsOf w 5 1) (bitsOf w 0 5))
  | 0x35 => rowOf w 0xFE00207F 0x6A000000 (.tqry (bitsOf w 21 4) (bitsOf w 14 7) (bitsOf w 7 6))
  | 0x36 => rowOf w 0xFE00007C 0x6C000000 (.xmov (bitsOf w 21 4) (bitsOf w 14 7) (bitsOf w 7 7) (bitsOf w 0 2))
  | 0x60 => rowOf w 0xFE000004 0xC0000000 (.pld (bitsOf w 21 4) (bitsOf w 17 4) (bitsOf w 14 3) (bitsOf w 8 6) (bitsOf w 4 4) (bitsOf w 3 1) (bitsOf w 0 2))
  | 0x61 => rowOf w 0xFE003F04 0xC2000000 (.pst (bitsOf w 21 4) (bitsOf w 17 4) (bitsOf w 14 3) (bitsOf w 4 4) (bitsOf w 3 1) (bitsOf w 0 2))
  | 0x62 => rowOf w 0xFE000007 0xC4000000 (.pldref (bitsOf w 21 4) (bitsOf w 17 4) (bitsOf w 14 3) (bitsOf w 8 6) (bitsOf w 4 4) (bitsOf w 3 1))
  | 0x63 => rowOf w 0xFE003F07 0xC6000000 (.pstref (bitsOf w 21 4) (bitsOf w 17 4) (bitsOf w 14 3) (bitsOf w 4 4) (bitsOf w 3 1))
  | _ => .rejected .unassignedOpcode

/-- The F-slot opcode map (04 Table 04.6). -/
def decodeF (w : Lane) : Decoded :=
  match opcodeOf w with
  | 0x00 => decodeNop w
  | 0x01 => rowOf w 0xFE000000 0x02000000 (.fadd (bitsOf w 21 4) (bitsOf w 14 7) (bitsOf w 7 7) (bitsOf w 0 7))
  | 0x02 => rowOf w 0xFE000000 0x04000000 (.fsub (bitsOf w 21 4) (bitsOf w 14 7) (bitsOf w 7 7) (bitsOf w 0 7))
  | 0x03 => rowOf w 0xFE000000 0x06000000 (.fmul (bitsOf w 21 4) (bitsOf w 14 7) (bitsOf w 7 7) (bitsOf w 0 7))
  | 0x04 => rowOf w 0xFE000000 0x08000000 (.ffma (bitsOf w 21 4) (bitsOf w 20 1) (bitsOf w 15 5) (bitsOf w 10 5) (bitsOf w 5 5) (bitsOf w 0 5))
  | 0x05 => rowOf w 0xFE000000 0x0A000000 (.ffms (bitsOf w 21 4) (bitsOf w 20 1) (bitsOf w 15 5) (bitsOf w 10 5) (bitsOf w 5 5) (bitsOf w 0 5))
  | 0x06 => rowOf w 0xFE000000 0x0C000000 (.fnma (bitsOf w 21 4) (bitsOf w 20 1) (bitsOf w 15 5) (bitsOf w 10 5) (bitsOf w 5 5) (bitsOf w 0 5))
  | 0x07 => rowOf w 0xFE000000 0x0E000000 (.fmin (bitsOf w 21 4) (bitsOf w 14 7) (bitsOf w 7 7) (bitsOf w 0 7))
  | 0x08 => rowOf w 0xFE000000 0x10000000 (.fmax (bitsOf w 21 4) (bitsOf w 14 7) (bitsOf w 7 7) (bitsOf w 0 7))
  | 0x09 => rowOf w 0xFE00007F 0x12000000 (.fabs (bitsOf w 21 4) (bitsOf w 14 7) (bitsOf w 7 7))
  | 0x0A => rowOf w 0xFE00007F 0x14000000 (.fneg (bitsOf w 21 4) (bitsOf w 14 7) (bitsOf w 7 7))
  | 0x0B => rowOf w 0xFE000000 0x16000000 (.fcps (bitsOf w 21 4) (bitsOf w 14 7) (bitsOf w 7 7) (bitsOf w 0 7))
  | 0x0C => rowOf w 0xFE100000 0x18000000 (.fcmp (bitsOf w 21 4) (bitsOf w 17 3) (bitsOf w 14 3) (bitsOf w 7 7) (bitsOf w 0 7))
  | 0x0D => rowOf w 0xFE000000 0x1A000000 (.fcvt (bitsOf w 21 4) (bitsOf w 14 7) (bitsOf w 7 7) (bitsOf w 5 2) (bitsOf w 2 3) (bitsOf w 0 2))
  | 0x0E => rowOf w 0xFE00001F 0x1C000000 (.frnd (bitsOf w 21 4) (bitsOf w 14 7) (bitsOf w 7 7) (bitsOf w 5 2))
  | 0x0F => rowOf w 0xFE00001F 0x1E000000 (.ftoi (bitsOf w 21 4) (bitsOf w 14 7) (bitsOf w 7 7) (bitsOf w 5 2))
  | 0x10 => rowOf w 0xFE00007F 0x20000000 (.itof (bitsOf w 21 4) (bitsOf w 14 7) (bitsOf w 7 7))
  | 0x11 => rowOf w 0xFE000000 0x22000000 (.vadd (bitsOf w 21 4) (bitsOf w 14 7) (bitsOf w 7 7) (bitsOf w 0 7))
  | 0x12 => rowOf w 0xFE000000 0x24000000 (.vsub (bitsOf w 21 4) (bitsOf w 14 7) (bitsOf w 7 7) (bitsOf w 0 7))
  | 0x13 => rowOf w 0xFE000000 0x26000000 (.vmul (bitsOf w 21 4) (bitsOf w 14 7) (bitsOf w 7 7) (bitsOf w 0 7))
  | 0x14 => rowOf w 0xFE000000 0x28000000 (.vmulh (bitsOf w 21 4) (bitsOf w 14 7) (bitsOf w 7 7) (bitsOf w 0 7))
  | 0x15 => rowOf w 0xFE000000 0x2A000000 (.vand (bitsOf w 21 4) (bitsOf w 14 7) (bitsOf w 7 7) (bitsOf w 0 7))
  | 0x16 => rowOf w 0xFE000000 0x2C000000 (.vor (bitsOf w 21 4) (bitsOf w 14 7) (bitsOf w 7 7) (bitsOf w 0 7))
  | 0x17 => rowOf w 0xFE000000 0x2E000000 (.vxor (bitsOf w 21 4) (bitsOf w 14 7) (bitsOf w 7 7) (bitsOf w 0 7))
  | 0x18 => rowOf w 0xFE000000 0x30000000 (.vshl (bitsOf w 21 4) (bitsOf w 14 7) (bitsOf w 7 7) (bitsOf w 0 7))
  | 0x19 => rowOf w 0xFE000000 0x32000000 (.vshr (bitsOf w 21 4) (bitsOf w 14 7) (bitsOf w 7 7) (bitsOf w 0 7))
  | 0x1A => rowOf w 0xFE000000 0x34000000 (.vsar (bitsOf w 21 4) (bitsOf w 14 7) (bitsOf w 7 7) (bitsOf w 0 7))
  | 0x1B => rowOf w 0xFE000000 0x36000000 (.vmin (bitsOf w 21 4) (bitsOf w 14 7) (bitsOf w 7 7) (bitsOf w 0 7))
  | 0x1C => rowOf w 0xFE000000 0x38000000 (.vmax (bitsOf w 21 4) (bitsOf w 14 7) (bitsOf w 7 7) (bitsOf w 0 7))
  | 0x1D => rowOf w 0xFE100000 0x3A000000 (.vcmp (bitsOf w 21 4) (bitsOf w 17 3) (bitsOf w 14 3) (bitsOf w 7 7) (bitsOf w 0 7))
  | 0x1E => rowOf w 0xFE000018 0x3C000000 (.vsel (bitsOf w 21 4) (bitsOf w 20 1) (bitsOf w 15 5) (bitsOf w 10 5) (bitsOf w 5 5) (bitsOf w 0 3))
  | 0x1F => rowOf w 0xFE000000 0x3E000000 (.vperm (bitsOf w 21 4) (bitsOf w 14 7) (bitsOf w 7 7) (bitsOf w 0 7))
  | 0x20 => rowOf w 0xFE000040 0x40000000 (.vbcast (bitsOf w 21 4) (bitsOf w 14 7) (bitsOf w 7 7) (bitsOf w 5 1) (bitsOf w 0 5))
  | 0x21 => rowOf w 0xFE000040 0x42000000 (.vred (bitsOf w 21 4) (bitsOf w 14 7) (bitsOf w 7 7) (bitsOf w 5 1) (bitsOf w 3 2) (bitsOf w 0 3))
  | 0x22 => rowOf w 0xFE003FFE 0x44000000 (.viota (bitsOf w 21 4) (bitsOf w 14 7) (bitsOf w 0 1))
  | 0x23 => rowOf w 0xFE00007E 0x46000000 (.vmov (bitsOf w 21 4) (bitsOf w 14 7) (bitsOf w 7 7) (bitsOf w 0 1))
  | 0x24 => rowOf w 0xFE000000 0x48000000 (.vtoi (bitsOf w 21 4) (bitsOf w 14 7) (bitsOf w 7 7) (bitsOf w 6 1) (bitsOf w 5 1) (bitsOf w 0 5))
  | 0x25 => rowOf w 0xFE000040 0x4A000000 (.kop (bitsOf w 21 4) (bitsOf w 14 7) (bitsOf w 7 7) (bitsOf w 3 3) (bitsOf w 0 3))
  | 0x26 => rowOf w 0xFE000000 0x4C000000 (.requant (bitsOf w 21 4) (bitsOf w 14 7) (bitsOf w 7 7) (bitsOf w 6 1) (bitsOf w 0 6))
  | 0x27 => rowOf w 0xFE000000 0x4E000000 (.vdot4 (bitsOf w 21 4) (bitsOf w 14 7) (bitsOf w 7 7) (bitsOf w 0 7))
  | 0x28 => rowOf w 0xFE00007C 0x50000000 (.vxmov (bitsOf w 21 4) (bitsOf w 14 7) (bitsOf w 7 7) (bitsOf w 0 2))
  | 0x50 => rowOf w 0xFE000070 0xA0000000 (.fn (bitsOf w 21 4) (bitsOf w 14 7) (bitsOf w 7 7) (bitsOf w 0 4))
  | 0x51 => rowOf w 0xFE000070 0xA2000000 (.fnp (bitsOf w 21 4) (bitsOf w 14 7) (bitsOf w 7 7) (bitsOf w 0 4))
  | 0x52 => rowOf w 0xFE00007F 0xA4000000 (.frcp (bitsOf w 21 4) (bitsOf w 14 7) (bitsOf w 7 7))
  | 0x53 => rowOf w 0xFE00007F 0xA6000000 (.frsq (bitsOf w 21 4) (bitsOf w 14 7) (bitsOf w 7 7))
  | _ => .rejected .unassignedOpcode

/-- The M-slot opcode map (04 Table 04.7). -/
def decodeM (w : Lane) : Decoded :=
  match opcodeOf w with
  | 0x00 => decodeNop w
  | 0x01 => rowOf w 0xFE003FFF 0x02000000 (.mcfg (bitsOf w 21 4) (bitsOf w 14 7))
  | 0x02 => rowOf w 0xFE003FF8 0x04000000 (.tcfg (bitsOf w 21 4) (bitsOf w 14 7) (bitsOf w 0 3))
  | 0x03 => rowOf w 0xFE1FFFF8 0x06000000 (.tzero (bitsOf w 21 4) (bitsOf w 0 3))
  | 0x04 => rowOf w 0xFE003FF8 0x08000000 (.treshape (bitsOf w 21 4) (bitsOf w 14 7) (bitsOf w 0 3))
  | 0x05 => rowOf w 0xFE00007F 0x0A000000 (.tldq (bitsOf w 21 4) (bitsOf w 14 7) (bitsOf w 7 7))
  | 0x06 => rowOf w 0xFE003FF8 0x0C000000 (.tld (bitsOf w 21 4) (bitsOf w 14 7) (bitsOf w 0 3))
  | 0x07 => if w.getLsbD 3 then rowOf w 0xFE00003F 0x0E000008 (.tstO (bitsOf w 21 4) (bitsOf w 14 7) (bitsOf w 7 7) (bitsOf w 6 1))
      else rowOf w 0xFE003FB8 0x0E000000 (.tst (bitsOf w 21 4) (bitsOf w 14 7) (bitsOf w 6 1) (bitsOf w 0 3))
  | 0x08 => rowOf w 0xFE003FDF 0x10000000 (.qbind (bitsOf w 21 4) (bitsOf w 14 7) (bitsOf w 5 1))
  | 0x09 => rowOf w 0xFE1FFFDC 0x12000000 (.qdrop (bitsOf w 21 4) (bitsOf w 5 1) (bitsOf w 1 1) (bitsOf w 0 1))
  | 0x0A => rowOf w 0xFE003FFE 0x14000000 (.chain (bitsOf w 21 4) (bitsOf w 14 7) (bitsOf w 0 1))
  | 0x0B => rowOf w 0xFE003FF0 0x16000000 (.chainm (bitsOf w 21 4) (bitsOf w 14 7) (bitsOf w 1 3) (bitsOf w 0 1))
  | 0x0C => rowOf w 0xFE1FFFBF 0x18000000 (.chfin (bitsOf w 21 4) (bitsOf w 6 1))
  | 0x0D => rowOf w 0xFE00003F 0x1A000000 (.stsave (bitsOf w 21 4) (bitsOf w 14 7) (bitsOf w 7 7) (bitsOf w 6 1))
  | 0x0E => if w.getLsbD 0 then rowOf w 0xFE00007F 0x1C000001 (.stldMerge (bitsOf w 21 4) (bitsOf w 14 7) (bitsOf w 7 7))
      else rowOf w 0xFE003FFF 0x1C000000 (.stld (bitsOf w 21 4) (bitsOf w 14 7))
  | 0x0F => rowOf w 0xFE003FFF 0x1E000000 (.mcall (bitsOf w 21 4) (bitsOf w 14 7))
  | 0x10 => rowOf w 0xFE003FFF 0x20000000 (.mrep (bitsOf w 21 4) (bitsOf w 14 7))
  | 0x11 => rowOf w 0xFE00007F 0x22000000 (.mvb (bitsOf w 21 4) (bitsOf w 14 7) (bitsOf w 7 7))
  | 0x12 => rowOf w 0xFE003FF8 0x24000000 (.mv (bitsOf w 21 4) (bitsOf w 14 7) (bitsOf w 0 3))
  | 0x13 => rowOf w 0xFE003FFF 0x26000000 (.mpoll (bitsOf w 21 4) (bitsOf w 14 7))
  | 0x30 => rowOf w 0xFE00007F 0x60000000 (.chld (bitsOf w 21 4) (bitsOf w 14 7) (bitsOf w 7 7))
  | 0x31 => rowOf w 0xFE003FF0 0x62000000 (.ftld (bitsOf w 21 4) (bitsOf w 14 7) (bitsOf w 0 4))
  | 0x32 => rowOf w 0xFE003FF0 0x64000000 (.fmld (bitsOf w 21 4) (bitsOf w 14 7) (bitsOf w 0 4))
  | 0x33 => rowOf w 0xFE003F90 0x66000000 (.rowstat (bitsOf w 21 4) (bitsOf w 14 7) (bitsOf w 5 2) (bitsOf w 3 1) (bitsOf w 0 3))
  | _ => .rejected .unassignedOpcode

/-- The D-slot opcode map (04 Table 04.8). -/
def decodeD (w : Lane) : Decoded :=
  match opcodeOf w with
  | 0x00 => decodeNop w
  | 0x01 => rowOf w 0xFE1FFFBF 0x02000000 (.cpy (bitsOf w 21 4) (bitsOf w 6 1))
  | 0x02 => rowOf w 0xFE00003F 0x04000000 (.cpyl (bitsOf w 21 4) (bitsOf w 14 7) (bitsOf w 7 7) (bitsOf w 6 1))
  | 0x03 => rowOf w 0xFE1FFF9F 0x06000000 (.cpyq (bitsOf w 21 4) (bitsOf w 6 1) (bitsOf w 5 1))
  | 0x04 => rowOf w 0xFE00003F 0x08000000 (.kvcommit (bitsOf w 21 4) (bitsOf w 14 7) (bitsOf w 7 7) (bitsOf w 6 1))
  | 0x05 => rowOf w 0xFE000003 0x0A000000 (.give (bitsOf w 21 4) (bitsOf w 14 7) (bitsOf w 7 7) (bitsOf w 4 3) (bitsOf w 2 2))
  | 0x06 => rowOf w 0xFE000003 0x0C000000 (.take (bitsOf w 21 4) (bitsOf w 14 7) (bitsOf w 7 7) (bitsOf w 4 3) (bitsOf w 2 2))
  | 0x07 => rowOf w 0xFE003FF8 0x0E000000 (.cbcfg (bitsOf w 21 4) (bitsOf w 14 7) (bitsOf w 0 3))
  | 0x08 => rowOf w 0xFE1FFFF8 0x10000000 (.cbpush (bitsOf w 21 4) (bitsOf w 0 3))
  | 0x09 => rowOf w 0xFE003FF8 0x12000000 (.cbpop (bitsOf w 21 4) (bitsOf w 14 7) (bitsOf w 0 3))
  | 0x0A => rowOf w 0xFE003FFF 0x14000000 (.cpyst (bitsOf w 21 4) (bitsOf w 14 7))
  | 0x0B => rowOf w 0xFE00007C 0x16000000 (.ttinv (bitsOf w 21 4) (bitsOf w 14 7) (bitsOf w 7 7) (bitsOf w 0 2))
  | 0x20 => rowOf w 0xFE000004 0x40000000 (.badd (bitsOf w 21 4) (bitsOf w 14 7) (bitsOf w 7 7) (bitsOf w 3 4) (bitsOf w 0 2))
  | 0x21 => rowOf w 0xFE000004 0x42000000 (.bfadd (bitsOf w 21 4) (bitsOf w 14 7) (bitsOf w 7 7) (bitsOf w 3 4) (bitsOf w 0 2))
  | 0x22 => rowOf w 0xFE000000 0x44000000 (.bmin (bitsOf w 21 4) (bitsOf w 14 7) (bitsOf w 7 7) (bitsOf w 3 4) (bitsOf w 2 1) (bitsOf w 0 2))
  | 0x23 => rowOf w 0xFE000000 0x46000000 (.bmax (bitsOf w 21 4) (bitsOf w 14 7) (bitsOf w 7 7) (bitsOf w 3 4) (bitsOf w 2 1) (bitsOf w 0 2))
  | 0x24 => rowOf w 0xFE000004 0x48000000 (.band (bitsOf w 21 4) (bitsOf w 14 7) (bitsOf w 7 7) (bitsOf w 3 4) (bitsOf w 0 2))
  | 0x25 => rowOf w 0xFE000004 0x4A000000 (.bor (bitsOf w 21 4) (bitsOf w 14 7) (bitsOf w 7 7) (bitsOf w 3 4) (bitsOf w 0 2))
  | 0x26 => rowOf w 0xFE000004 0x4C000000 (.bxor (bitsOf w 21 4) (bitsOf w 14 7) (bitsOf w 7 7) (bitsOf w 3 4) (bitsOf w 0 2))
  | 0x27 => rowOf w 0xFE000004 0x4E000000 (.bswp (bitsOf w 21 4) (bitsOf w 14 7) (bitsOf w 7 7) (bitsOf w 3 4) (bitsOf w 0 2))
  | 0x28 => rowOf w 0xFE000004 0x50000000 (.bcas (bitsOf w 21 4) (bitsOf w 14 7) (bitsOf w 7 7) (bitsOf w 3 4) (bitsOf w 0 2))
  | 0x29 => rowOf w 0xFE000004 0x52000000 (.bfaa (bitsOf w 21 4) (bitsOf w 14 7) (bitsOf w 7 7) (bitsOf w 3 4) (bitsOf w 0 2))
  | 0x2A => rowOf w 0xFE003F87 0x54000000 (.tktake (bitsOf w 21 4) (bitsOf w 14 7) (bitsOf w 3 4))
  | 0x2B => rowOf w 0xFE003F86 0x56000000 (.tknext (bitsOf w 21 4) (bitsOf w 14 7) (bitsOf w 3 4) (bitsOf w 0 1))
  | 0x2C => rowOf w 0xFE000004 0x58000000 (.put (bitsOf w 21 4) (bitsOf w 14 7) (bitsOf w 7 7) (bitsOf w 3 4) (bitsOf w 0 2))
  | 0x40 => rowOf w 0xFE003FC0 0x80000000 (.lqbind (bitsOf w 21 4) (bitsOf w 14 7) (bitsOf w 5 1) (bitsOf w 4 1) (bitsOf w 3 1) (bitsOf w 0 3))
  | 0x41 => rowOf w 0xFE000004 0x82000000 (.radd (bitsOf w 21 4) (bitsOf w 14 7) (bitsOf w 7 7) (bitsOf w 3 4) (bitsOf w 1 1) (bitsOf w 0 1))
  | 0x42 => rowOf w 0xFE000006 0x84000000 (.rcas (bitsOf w 21 4) (bitsOf w 14 7) (bitsOf w 7 7) (bitsOf w 3 4) (bitsOf w 0 1))
  | 0x43 => rowOf w 0xFE000006 0x86000000 (.rswp (bitsOf w 21 4) (bitsOf w 14 7) (bitsOf w 7 7) (bitsOf w 3 4) (bitsOf w 0 1))
  | 0x44 => rowOf w 0xFE000004 0x88000000 (.rred (bitsOf w 21 4) (bitsOf w 14 7) (bitsOf w 7 7) (bitsOf w 3 4) (bitsOf w 0 2))
  | 0x45 => rowOf w 0xFE000004 0x8A000000 (.rget (bitsOf w 21 4) (bitsOf w 14 7) (bitsOf w 7 7) (bitsOf w 3 4) (bitsOf w 0 2))
  | 0x46 => rowOf w 0xFE000004 0x8C000000 (.rput (bitsOf w 21 4) (bitsOf w 14 7) (bitsOf w 7 7) (bitsOf w 3 4) (bitsOf w 0 2))
  | 0x47 => rowOf w 0xFE000078 0x8E000000 (.beadld (bitsOf w 21 4) (bitsOf w 14 7) (bitsOf w 7 7) (bitsOf w 2 1) (bitsOf w 0 2))
  | 0x50 => rowOf w 0xFE00007F 0xA0000000 (.pnew (bitsOf w 21 4) (bitsOf w 14 7) (bitsOf w 7 7))
  | 0x51 => rowOf w 0xFE00007F 0xA2000000 (.pgrow (bitsOf w 21 4) (bitsOf w 14 7) (bitsOf w 7 7))
  | 0x52 => rowOf w 0xFE00007F 0xA4000000 (.ptrim (bitsOf w 21 4) (bitsOf w 14 7) (bitsOf w 7 7))
  | 0x53 => rowOf w 0xFE00007F 0xA6000000 (.post (bitsOf w 21 4) (bitsOf w 14 7) (bitsOf w 7 7))
  | 0x54 => rowOf w 0xFE00007F 0xA8000000 (.precv (bitsOf w 21 4) (bitsOf w 14 7) (bitsOf w 7 7))
  | 0x55 => rowOf w 0xFE003FFF 0xAA000000 (.pfree (bitsOf w 21 4) (bitsOf w 14 7))
  | _ => .rejected .unassignedOpcode

/-- Decoding a slot word: the slot chooses the opcode map. -/
def decodeSlot (sl : Slot) (w : Lane) : Decoded :=
  match sl with
  | .c => decodeC w
  | .i => decodeI w
  | .f => decodeF w
  | .m => decodeM w
  | .d => decodeD w

/-- The slots that a word of the opcode table is tried in. A word does not name its slot, so the answer is the first
slot that takes it, the most specific maps first (D and M words reserve most bits). DESIGN CHOICE (log 2). -/
def tableSlots : List Slot := [.d, .m, .f, .i, .c]

/-- The first slot of a list whose decoder takes the word, with its instruction. -/
def firstSlot (w : Lane) : List Slot → Option (Slot × Instr)
  | [] => none
  | sl :: rest =>
    match decodeSlot sl w with
    | .instr i => some (sl, i)
    | .rejected _ => firstSlot w rest

/-- The instruction that the decoder reads from a word of the opcode table (log 2). -/
def decodeTableWord (nbits w : Nat) : Option Instr :=
  if nbits ≤ 32 then (firstSlot (BitVec.ofNat 32 w) tableSlots).map (·.2) else none

/-- The slot an instruction belongs to; NOP stands in any slot and is given the C slot; an event has none. -/
def Instr.slot : Instr → Option Slot
  | .nop _ => some .c
  | .br _ _ => some .c
  | .brn _ _ => some .c
  | .call _ _ => some .c
  | .callr _ _ => some .c
  | .jmpr _ _ => some .c
  | .ret _ => some .c
  | .loop _ _ _ => some .c
  | .loopr _ _ _ _ => some .c
  | .lexit _ _ _ => some .c
  | .pset _ _ _ => some .c
  | .pand _ _ _ _ => some .c
  | .por _ _ _ _ => some .c
  | .pxor _ _ _ _ => some .c
  | .pnot _ _ _ => some .c
  | .pandn _ _ _ _ => some .c
  | .trap _ _ => some .c
  | .eret _ => some .c
  | .bkpt _ _ => some .c
  | .fencec _ _ => some .c
  | .fencesc _ _ => some .c
  | .getln _ _ => some .c
  | .setln _ _ => some .c
  | .halt _ => some .c
  | .exit _ => some .c
  | .yield _ => some .c
  | .bar _ _ => some .c
  | .waitv _ _ _ => some .c
  | .waitt _ _ _ _ => some .c
  | .lock _ _ => some .c
  | .unlock _ _ => some .c
  | .tkwait _ _ _ => some .c
  | .sstep _ _ => some .c
  | .prio _ _ => some .c
  | .gettime _ _ => some .c
  | .dlinfo _ _ _ => some .c
  | .valid _ _ _ => some .c
  | .wobj _ _ => some .c
  | .wdrop _ _ => some .c
  | .add _ _ _ _ => some .i
  | .addi _ _ _ _ => some .i
  | .sub _ _ _ _ => some .i
  | .mul _ _ _ _ => some .i
  | .mulh _ _ _ _ => some .i
  | .mulhu _ _ _ _ => some .i
  | .div _ _ _ _ => some .i
  | .divu _ _ _ _ => some .i
  | .rem _ _ _ _ => some .i
  | .remu _ _ _ _ => some .i
  | .and _ _ _ _ => some .i
  | .andi _ _ _ _ => some .i
  | .or _ _ _ _ => some .i
  | .ori _ _ _ _ => some .i
  | .xor _ _ _ _ => some .i
  | .xori _ _ _ _ => some .i
  | .shl _ _ _ _ => some .i
  | .shli _ _ _ _ => some .i
  | .shr _ _ _ _ => some .i
  | .shri _ _ _ _ => some .i
  | .sar _ _ _ _ => some .i
  | .sari _ _ _ _ => some .i
  | .min _ _ _ _ => some .i
  | .max _ _ _ _ => some .i
  | .minu _ _ _ _ => some .i
  | .maxu _ _ _ _ => some .i
  | .clz _ _ _ => some .i
  | .popc _ _ _ => some .i
  | .bfx _ _ _ _ => some .i
  | .bfi _ _ _ _ => some .i
  | .sel _ _ _ _ => some .i
  | .cmp _ _ _ _ _ _ => some .i
  | .cmpi _ _ _ _ _ _ => some .i
  | .li _ _ _ => some .i
  | .lih _ _ _ => some .i
  | .mov _ _ _ => some .i
  | .moviv _ _ _ => some .i
  | .movim _ _ _ => some .i
  | .movie _ _ _ => some .i
  | .setib _ _ _ _ => some .i
  | .getsr _ _ _ => some .i
  | .setsr _ _ _ => some .i
  | .agset _ _ _ _ => some .i
  | .agpos _ _ _ => some .i
  | .aginc _ _ _ _ => some .i
  | .lds _ _ _ _ _ _ _ => some .i
  | .sts _ _ _ _ _ _ => some .i
  | .ldt _ _ _ _ _ _ _ => some .i
  | .stt _ _ _ _ _ _ => some .i
  | .ldd _ _ _ _ _ _ _ => some .i
  | .std _ _ _ _ _ _ => some .i
  | .ldl _ _ _ _ _ _ => some .i
  | .tqry _ _ _ => some .i
  | .xmov _ _ _ _ => some .i
  | .pld _ _ _ _ _ _ _ => some .i
  | .pst _ _ _ _ _ _ => some .i
  | .pldref _ _ _ _ _ _ => some .i
  | .pstref _ _ _ _ _ => some .i
  | .fadd _ _ _ _ => some .f
  | .fsub _ _ _ _ => some .f
  | .fmul _ _ _ _ => some .f
  | .ffma _ _ _ _ _ _ => some .f
  | .ffms _ _ _ _ _ _ => some .f
  | .fnma _ _ _ _ _ _ => some .f
  | .fmin _ _ _ _ => some .f
  | .fmax _ _ _ _ => some .f
  | .fabs _ _ _ => some .f
  | .fneg _ _ _ => some .f
  | .fcps _ _ _ _ => some .f
  | .fcmp _ _ _ _ _ => some .f
  | .fcvt _ _ _ _ _ _ => some .f
  | .frnd _ _ _ _ => some .f
  | .ftoi _ _ _ _ => some .f
  | .itof _ _ _ => some .f
  | .vadd _ _ _ _ => some .f
  | .vsub _ _ _ _ => some .f
  | .vmul _ _ _ _ => some .f
  | .vmulh _ _ _ _ => some .f
  | .vand _ _ _ _ => some .f
  | .vor _ _ _ _ => some .f
  | .vxor _ _ _ _ => some .f
  | .vshl _ _ _ _ => some .f
  | .vshr _ _ _ _ => some .f
  | .vsar _ _ _ _ => some .f
  | .vmin _ _ _ _ => some .f
  | .vmax _ _ _ _ => some .f
  | .vcmp _ _ _ _ _ => some .f
  | .vsel _ _ _ _ _ _ => some .f
  | .vperm _ _ _ _ => some .f
  | .vbcast _ _ _ _ _ => some .f
  | .vred _ _ _ _ _ _ => some .f
  | .viota _ _ _ => some .f
  | .vmov _ _ _ _ => some .f
  | .vtoi _ _ _ _ _ _ => some .f
  | .kop _ _ _ _ _ => some .f
  | .requant _ _ _ _ _ => some .f
  | .vdot4 _ _ _ _ => some .f
  | .vxmov _ _ _ _ => some .f
  | .fn _ _ _ _ => some .f
  | .fnp _ _ _ _ => some .f
  | .frcp _ _ _ => some .f
  | .frsq _ _ _ => some .f
  | .mcfg _ _ => some .m
  | .tcfg _ _ _ => some .m
  | .tzero _ _ => some .m
  | .treshape _ _ _ => some .m
  | .tldq _ _ _ => some .m
  | .tld _ _ _ => some .m
  | .tst _ _ _ _ => some .m
  | .tstO _ _ _ _ => some .m
  | .qbind _ _ _ => some .m
  | .qdrop _ _ _ _ => some .m
  | .chain _ _ _ => some .m
  | .chainm _ _ _ _ => some .m
  | .chfin _ _ => some .m
  | .stsave _ _ _ _ => some .m
  | .stld _ _ => some .m
  | .stldMerge _ _ _ => some .m
  | .mcall _ _ => some .m
  | .mrep _ _ => some .m
  | .mvb _ _ _ => some .m
  | .mv _ _ _ => some .m
  | .mpoll _ _ => some .m
  | .chld _ _ _ => some .m
  | .ftld _ _ _ => some .m
  | .fmld _ _ _ => some .m
  | .rowstat _ _ _ _ _ => some .m
  | .cpy _ _ => some .d
  | .cpyl _ _ _ _ => some .d
  | .cpyq _ _ _ => some .d
  | .kvcommit _ _ _ _ => some .d
  | .give _ _ _ _ _ => some .d
  | .take _ _ _ _ _ => some .d
  | .cbcfg _ _ _ => some .d
  | .cbpush _ _ => some .d
  | .cbpop _ _ _ => some .d
  | .cpyst _ _ => some .d
  | .ttinv _ _ _ _ => some .d
  | .badd _ _ _ _ _ => some .d
  | .bfadd _ _ _ _ _ => some .d
  | .bmin _ _ _ _ _ _ => some .d
  | .bmax _ _ _ _ _ _ => some .d
  | .band _ _ _ _ _ => some .d
  | .bor _ _ _ _ _ => some .d
  | .bxor _ _ _ _ _ => some .d
  | .bswp _ _ _ _ _ => some .d
  | .bcas _ _ _ _ _ => some .d
  | .bfaa _ _ _ _ _ => some .d
  | .tktake _ _ _ => some .d
  | .tknext _ _ _ _ => some .d
  | .put _ _ _ _ _ => some .d
  | .lqbind _ _ _ _ _ _ => some .d
  | .radd _ _ _ _ _ _ => some .d
  | .rcas _ _ _ _ _ => some .d
  | .rswp _ _ _ _ _ => some .d
  | .rred _ _ _ _ _ => some .d
  | .rget _ _ _ _ _ => some .d
  | .rput _ _ _ _ _ => some .d
  | .beadld _ _ _ _ _ => some .d
  | .pnew _ _ _ => some .d
  | .pgrow _ _ _ => some .d
  | .ptrim _ _ _ => some .d
  | .post _ _ _ => some .d
  | .precv _ _ _ => some .d
  | .pfree _ _ => some .d
  | .bundlePresentation => none
  | .deferredTrap => none
  | .latencyWriteback => none
  | .landingDataArrival => none
  | .freezeTimeout => none
  | .commandRecordEntry => none
  | .slipStop => none
  | .secondaryForcedIssue => none
  | .cbProducerCompletion => none
  | .cbConsumerCompletion => none
  | .takeFlip => none
  | .cbpopGrant => none
  | .deliveredResultWrite => none
  | .cbcfgApply => none
  | .completionRecord => none
  | .ttinvCompletion => none
  | .portAccess => none
  | .tileTableMiss => none
  | .pageAnswer => none
  | .uncorrectableHbmError => none
  | .bankAccess => none
  | .dmUncorrectableError => none
  | .monitorWake => none
  | .barrierCompletion => none
  | .superstepCompletion => none
  | .putArrival => none
  | .pairFire => none
  | .chainCommit => none
  | .mvGroupCommit => none
  | .charmCompletion => none
  | .charmWrite => none
  | .boundQueueWord => none
  | .requestInject => none
  | .remoteRequestReceive => none
  | .remoteReply => none
  | .retransmitTimeout => none
  | .circuitFlitArrival => none
  | .sendFifoPartialFlush => none
  | .unsafeMapUpdate => none
  | .laneRetirement => none
  | .beadTableCommit => none
  | .mailboxGrant => none
  | .parcelArrival => none
  | .parcelDeliveryAck => none
  | .schedulingPoint => none
  | .urgentStop => none
  | .roleSwap => none
  | .sliceEndEviction => none
  | .antiStarvationRaise => none
  | .launchEnd => none
  | .deadlineExpiry => none
  | .wrapupBudgetExpiry => none
  | .waittLimitExpiry => none
  | .firmwareCycleWalk => none
  | .debugHaltRequest => none
  | .debugResume => none
  | .locketCancel => none
  | .debuggerRegisterWrite => none
  | .coreSplitWrite => none
  | .bankFmtWrite => none
  | .registerWrite => none
  | .doorbell => none
  | .queueIdleUnmap => none
  | .nopPacket => none
  | .launch => none
  | .barrierAnd => none
  | .barrierAndEvaluation => none
  | .signal => none
  | .copy => none
  | .segtab => none
  | .segmentCopyComplete => none
  | .frontEndTick => none
  | .tokenBucketEmpty => none
  | .frontEndWake => none
  | .queueReset => none
  | .queueDestroy => none
  | .tableUpdate => none
  | .lockstepMismatch => none
  | .workerFailure => none
  | .vfRecord => none
  | .vfReset => none
  | .interfaceLock => none
  | .interfaceStart => none
  | .interfaceStop => none
  | .sessionEnd => none
  | .getMeasurements => none
  | .tileMove => none
  | .preCopyRound => none
  | .finalRound => none
  | .activation => none
  | .migrationEnd => none
  | .bringUp => none
  | .recoveryBootImage => none
  | .ptpSync => none
  | .timeUnlocked => none
  | .healthMonitorSample => none
  | .healthReport => none
  | .fatalEvent => none
  | .fatalNodump => none
  | .resetPackage => none
  | .stripTransferCompletion => none
  | .dispenserAccess => none
  | .endpointPacketArrival => none
  | .spdmSessionStart => none

/-- A field placed at its lowest bit. -/
def field {n : Nat} (x : BitVec n) (lo : Nat) : Lane := x.setWidth 32 <<< lo

/-- The encoder: the row's fixed bits and its fields at their positions. An event has no word and gives 0. -/
def encode : Instr → Lane
  | .nop g => 0x00000000 ||| field g 21
  | .br g d => 0x02000000 ||| field g 21 ||| field d 0
  | .brn g d => 0x04000000 ||| field g 21 ||| field d 0
  | .call g d => 0x06000000 ||| field g 21 ||| field d 0
  | .callr g a => 0x08000000 ||| field g 21 ||| field a 7
  | .jmpr g a => 0x0A000000 ||| field g 21 ||| field a 7
  | .ret g => 0x0C000000 ||| field g 21
  | .loop g n d => 0x0E000000 ||| field g 21 ||| field n 19 ||| field d 0
  | .loopr g n r d => 0x10000000 ||| field g 21 ||| field n 19 ||| field r 16 ||| field d 0
  | .lexit g n d => 0x12000000 ||| field g 21 ||| field n 19 ||| field d 0
  | .pset g d v => 0x14000000 ||| field g 21 ||| field d 14 ||| field v 0
  | .pand g d a b => 0x16000000 ||| field g 21 ||| field d 14 ||| field a 7 ||| field b 0
  | .por g d a b => 0x18000000 ||| field g 21 ||| field d 14 ||| field a 7 ||| field b 0
  | .pxor g d a b => 0x1A000000 ||| field g 21 ||| field d 14 ||| field a 7 ||| field b 0
  | .pnot g d a => 0x1C000000 ||| field g 21 ||| field d 14 ||| field a 7
  | .pandn g d a b => 0x1E000000 ||| field g 21 ||| field d 14 ||| field a 7 ||| field b 0
  | .trap g c => 0x20000000 ||| field g 21 ||| field c 0
  | .eret g => 0x22000000 ||| field g 21
  | .bkpt g c => 0x24000000 ||| field g 21 ||| field c 0
  | .fencec g m => 0x26000000 ||| field g 21 ||| field m 5
  | .fencesc g sc => 0x28000000 ||| field g 21 ||| field sc 2
  | .getln g d => 0x2A000000 ||| field g 21 ||| field d 14
  | .setln g a => 0x2C000000 ||| field g 21 ||| field a 7
  | .halt g => 0x2E000000 ||| field g 21
  | .exit g => 0x60000000 ||| field g 21
  | .yield g => 0x62000000 ||| field g 21
  | .bar g sc => 0x64000000 ||| field g 21 ||| field sc 2
  | .waitv g a b => 0x66000000 ||| field g 21 ||| field a 7 ||| field b 0
  | .waitt g d a b => 0x68000000 ||| field g 21 ||| field d 14 ||| field a 7 ||| field b 0
  | .lock g a => 0x6A000000 ||| field g 21 ||| field a 7
  | .unlock g a => 0x6C000000 ||| field g 21 ||| field a 7
  | .tkwait g a b => 0x6E000000 ||| field g 21 ||| field a 7 ||| field b 0
  | .sstep g sc => 0x70000000 ||| field g 21 ||| field sc 2
  | .prio g im => 0x72000000 ||| field g 21 ||| field im 0
  | .gettime g d => 0x74000000 ||| field g 21 ||| field d 14
  | .dlinfo g d sc => 0x76000000 ||| field g 21 ||| field d 14 ||| field sc 0
  | .valid g c a => 0x78000000 ||| field g 21 ||| field c 14 ||| field a 7
  | .wobj g a => 0x7A000000 ||| field g 21 ||| field a 7
  | .wdrop g a => 0x7C000000 ||| field g 21 ||| field a 7
  | .add g d a b => 0x02000000 ||| field g 21 ||| field d 14 ||| field a 7 ||| field b 0
  | .addi g d a im => 0x04000000 ||| field g 21 ||| field d 14 ||| field a 7 ||| field im 0
  | .sub g d a b => 0x06000000 ||| field g 21 ||| field d 14 ||| field a 7 ||| field b 0
  | .mul g d a b => 0x08000000 ||| field g 21 ||| field d 14 ||| field a 7 ||| field b 0
  | .mulh g d a b => 0x0A000000 ||| field g 21 ||| field d 14 ||| field a 7 ||| field b 0
  | .mulhu g d a b => 0x0C000000 ||| field g 21 ||| field d 14 ||| field a 7 ||| field b 0
  | .div g d a b => 0x0E000000 ||| field g 21 ||| field d 14 ||| field a 7 ||| field b 0
  | .divu g d a b => 0x10000000 ||| field g 21 ||| field d 14 ||| field a 7 ||| field b 0
  | .rem g d a b => 0x12000000 ||| field g 21 ||| field d 14 ||| field a 7 ||| field b 0
  | .remu g d a b => 0x14000000 ||| field g 21 ||| field d 14 ||| field a 7 ||| field b 0
  | .and g d a b => 0x16000000 ||| field g 21 ||| field d 14 ||| field a 7 ||| field b 0
  | .andi g d a im => 0x18000000 ||| field g 21 ||| field d 14 ||| field a 7 ||| field im 0
  | .or g d a b => 0x1A000000 ||| field g 21 ||| field d 14 ||| field a 7 ||| field b 0
  | .ori g d a im => 0x1C000000 ||| field g 21 ||| field d 14 ||| field a 7 ||| field im 0
  | .xor g d a b => 0x1E000000 ||| field g 21 ||| field d 14 ||| field a 7 ||| field b 0
  | .xori g d a im => 0x20000000 ||| field g 21 ||| field d 14 ||| field a 7 ||| field im 0
  | .shl g d a b => 0x22000000 ||| field g 21 ||| field d 14 ||| field a 7 ||| field b 0
  | .shli g d a im => 0x24000000 ||| field g 21 ||| field d 14 ||| field a 7 ||| field im 0
  | .shr g d a b => 0x26000000 ||| field g 21 ||| field d 14 ||| field a 7 ||| field b 0
  | .shri g d a im => 0x28000000 ||| field g 21 ||| field d 14 ||| field a 7 ||| field im 0
  | .sar g d a b => 0x2A000000 ||| field g 21 ||| field d 14 ||| field a 7 ||| field b 0
  | .sari g d a im => 0x2C000000 ||| field g 21 ||| field d 14 ||| field a 7 ||| field im 0
  | .min g d a b => 0x2E000000 ||| field g 21 ||| field d 14 ||| field a 7 ||| field b 0
  | .max g d a b => 0x30000000 ||| field g 21 ||| field d 14 ||| field a 7 ||| field b 0
  | .minu g d a b => 0x32000000 ||| field g 21 ||| field d 14 ||| field a 7 ||| field b 0
  | .maxu g d a b => 0x34000000 ||| field g 21 ||| field d 14 ||| field a 7 ||| field b 0
  | .clz g d a => 0x36000000 ||| field g 21 ||| field d 14 ||| field a 7
  | .popc g d a => 0x38000000 ||| field g 21 ||| field d 14 ||| field a 7
  | .bfx g d a b => 0x3A000000 ||| field g 21 ||| field d 14 ||| field a 7 ||| field b 0
  | .bfi g d a b => 0x3C000000 ||| field g 21 ||| field d 14 ||| field a 7 ||| field b 0
  | .sel g d a b => 0x3E000000 ||| field g 21 ||| field d 14 ||| field a 7 ||| field b 0
  | .cmp g r c p a b => 0x40000000 ||| field g 21 ||| field r 20 ||| field c 18 ||| field p 14 ||| field a 7 ||| field b 0
  | .cmpi g r c p a im => 0x42000000 ||| field g 21 ||| field r 20 ||| field c 18 ||| field p 14 ||| field a 7 ||| field im 0
  | .li g d im => 0x44000000 ||| field g 21 ||| field d 14 ||| field im 0
  | .lih g d im => 0x46000000 ||| field g 21 ||| field d 14 ||| field im 0
  | .mov g d a => 0x48000000 ||| field g 21 ||| field d 14 ||| field a 7
  | .moviv g d a => 0x4A000000 ||| field g 21 ||| field d 14 ||| field a 7
  | .movim g d a => 0x4C000000 ||| field g 21 ||| field d 14 ||| field a 7
  | .movie g d a => 0x4E000000 ||| field g 21 ||| field d 14 ||| field a 7
  | .setib g sc a im => 0x50000000 ||| field g 21 ||| field sc 14 ||| field a 7 ||| field im 0
  | .getsr g d im => 0x52000000 ||| field g 21 ||| field d 14 ||| field im 0
  | .setsr g d im => 0x54000000 ||| field g 21 ||| field d 14 ||| field im 0
  | .agset g d a b => 0x56000000 ||| field g 21 ||| field d 14 ||| field a 7 ||| field b 0
  | .agpos g d a => 0x58000000 ||| field g 21 ||| field d 14 ||| field a 7
  | .aginc g d m n => 0x5A000000 ||| field g 21 ||| field d 14 ||| field m 7 ||| field n 0
  | .lds g l a o c n sc => 0x5C000000 ||| field g 21 ||| field l 17 ||| field a 14 ||| field o 8 ||| field c 4 ||| field n 3 ||| field sc 0
  | .sts g r a c n sc => 0x5E000000 ||| field g 21 ||| field r 17 ||| field a 14 ||| field c 4 ||| field n 3 ||| field sc 0
  | .ldt g l a o c n sc => 0x60000000 ||| field g 21 ||| field l 17 ||| field a 14 ||| field o 8 ||| field c 4 ||| field n 3 ||| field sc 0
  | .stt g r a c n sc => 0x62000000 ||| field g 21 ||| field r 17 ||| field a 14 ||| field c 4 ||| field n 3 ||| field sc 0
  | .ldd g l a o c n sc => 0x64000000 ||| field g 21 ||| field l 17 ||| field a 14 ||| field o 8 ||| field c 4 ||| field n 3 ||| field sc 0
  | .std g r a c n sc => 0x66000000 ||| field g 21 ||| field r 17 ||| field a 14 ||| field c 4 ||| field n 3 ||| field sc 0
  | .ldl g d a x p n => 0x68000000 ||| field g 21 ||| field d 14 ||| field a 7 ||| field x 6 ||| field p 5 ||| field n 0
  | .tqry g d a => 0x6A000000 ||| field g 21 ||| field d 14 ||| field a 7
  | .xmov g d a c => 0x6C000000 ||| field g 21 ||| field d 14 ||| field a 7 ||| field c 0
  | .pld g l a o c n sc => 0xC0000000 ||| field g 21 ||| field l 17 ||| field a 14 ||| field o 8 ||| field c 4 ||| field n 3 ||| field sc 0
  | .pst g r a c n sc => 0xC2000000 ||| field g 21 ||| field r 17 ||| field a 14 ||| field c 4 ||| field n 3 ||| field sc 0
  | .pldref g l a o c n => 0xC4000000 ||| field g 21 ||| field l 17 ||| field a 14 ||| field o 8 ||| field c 4 ||| field n 3
  | .pstref g r a c n => 0xC6000000 ||| field g 21 ||| field r 17 ||| field a 14 ||| field c 4 ||| field n 3
  | .fadd g d a b => 0x02000000 ||| field g 21 ||| field d 14 ||| field a 7 ||| field b 0
  | .fsub g d a b => 0x04000000 ||| field g 21 ||| field d 14 ||| field a 7 ||| field b 0
  | .fmul g d a b => 0x06000000 ||| field g 21 ||| field d 14 ||| field a 7 ||| field b 0
  | .ffma g fl d a b c => 0x08000000 ||| field g 21 ||| field fl 20 ||| field d 15 ||| field a 10 ||| field b 5 ||| field c 0
  | .ffms g fl d a b c => 0x0A000000 ||| field g 21 ||| field fl 20 ||| field d 15 ||| field a 10 ||| field b 5 ||| field c 0
  | .fnma g fl d a b c => 0x0C000000 ||| field g 21 ||| field fl 20 ||| field d 15 ||| field a 10 ||| field b 5 ||| field c 0
  | .fmin g d a b => 0x0E000000 ||| field g 21 ||| field d 14 ||| field a 7 ||| field b 0
  | .fmax g d a b => 0x10000000 ||| field g 21 ||| field d 14 ||| field a 7 ||| field b 0
  | .fabs g d a => 0x12000000 ||| field g 21 ||| field d 14 ||| field a 7
  | .fneg g d a => 0x14000000 ||| field g 21 ||| field d 14 ||| field a 7
  | .fcps g d a b => 0x16000000 ||| field g 21 ||| field d 14 ||| field a 7 ||| field b 0
  | .fcmp g c k a b => 0x18000000 ||| field g 21 ||| field c 17 ||| field k 14 ||| field a 7 ||| field b 0
  | .fcvt g d a sc c p => 0x1A000000 ||| field g 21 ||| field d 14 ||| field a 7 ||| field sc 5 ||| field c 2 ||| field p 0
  | .frnd g d a r => 0x1C000000 ||| field g 21 ||| field d 14 ||| field a 7 ||| field r 5
  | .ftoi g d a r => 0x1E000000 ||| field g 21 ||| field d 14 ||| field a 7 ||| field r 5
  | .itof g d a => 0x20000000 ||| field g 21 ||| field d 14 ||| field a 7
  | .vadd g d a b => 0x22000000 ||| field g 21 ||| field d 14 ||| field a 7 ||| field b 0
  | .vsub g d a b => 0x24000000 ||| field g 21 ||| field d 14 ||| field a 7 ||| field b 0
  | .vmul g d a b => 0x26000000 ||| field g 21 ||| field d 14 ||| field a 7 ||| field b 0
  | .vmulh g d a b => 0x28000000 ||| field g 21 ||| field d 14 ||| field a 7 ||| field b 0
  | .vand g d a b => 0x2A000000 ||| field g 21 ||| field d 14 ||| field a 7 ||| field b 0
  | .vor g d a b => 0x2C000000 ||| field g 21 ||| field d 14 ||| field a 7 ||| field b 0
  | .vxor g d a b => 0x2E000000 ||| field g 21 ||| field d 14 ||| field a 7 ||| field b 0
  | .vshl g d a b => 0x30000000 ||| field g 21 ||| field d 14 ||| field a 7 ||| field b 0
  | .vshr g d a b => 0x32000000 ||| field g 21 ||| field d 14 ||| field a 7 ||| field b 0
  | .vsar g d a b => 0x34000000 ||| field g 21 ||| field d 14 ||| field a 7 ||| field b 0
  | .vmin g d a b => 0x36000000 ||| field g 21 ||| field d 14 ||| field a 7 ||| field b 0
  | .vmax g d a b => 0x38000000 ||| field g 21 ||| field d 14 ||| field a 7 ||| field b 0
  | .vcmp g c k a b => 0x3A000000 ||| field g 21 ||| field c 17 ||| field k 14 ||| field a 7 ||| field b 0
  | .vsel g fl d a b k => 0x3C000000 ||| field g 21 ||| field fl 20 ||| field d 15 ||| field a 10 ||| field b 5 ||| field k 0
  | .vperm g d a b => 0x3E000000 ||| field g 21 ||| field d 14 ||| field a 7 ||| field b 0
  | .vbcast g d a p n => 0x40000000 ||| field g 21 ||| field d 14 ||| field a 7 ||| field p 5 ||| field n 0
  | .vred g d a fl o k => 0x42000000 ||| field g 21 ||| field d 14 ||| field a 7 ||| field fl 5 ||| field o 3 ||| field k 0
  | .viota g d t => 0x44000000 ||| field g 21 ||| field d 14 ||| field t 0
  | .vmov g d a sc => 0x46000000 ||| field g 21 ||| field d 14 ||| field a 7 ||| field sc 0
  | .vtoi g d a x p n => 0x48000000 ||| field g 21 ||| field d 14 ||| field a 7 ||| field x 6 ||| field p 5 ||| field n 0
  | .kop g d a o b => 0x4A000000 ||| field g 21 ||| field d 14 ||| field a 7 ||| field o 3 ||| field b 0
  | .requant g d a fl x => 0x4C000000 ||| field g 21 ||| field d 14 ||| field a 7 ||| field fl 6 ||| field x 0
  | .vdot4 g d a b => 0x4E000000 ||| field g 21 ||| field d 14 ||| field a 7 ||| field b 0
  | .vxmov g d a c => 0x50000000 ||| field g 21 ||| field d 14 ||| field a 7 ||| field c 0
  | .fn g d a n => 0xA0000000 ||| field g 21 ||| field d 14 ||| field a 7 ||| field n 0
  | .fnp g d a n => 0xA2000000 ||| field g 21 ||| field d 14 ||| field a 7 ||| field n 0
  | .frcp g d a => 0xA4000000 ||| field g 21 ||| field d 14 ||| field a 7
  | .frsq g d a => 0xA6000000 ||| field g 21 ||| field d 14 ||| field a 7
  | .mcfg g a => 0x02000000 ||| field g 21 ||| field a 14
  | .tcfg g a t => 0x04000000 ||| field g 21 ||| field a 14 ||| field t 0
  | .tzero g t => 0x06000000 ||| field g 21 ||| field t 0
  | .treshape g a t => 0x08000000 ||| field g 21 ||| field a 14 ||| field t 0
  | .tldq g a b => 0x0A000000 ||| field g 21 ||| field a 14 ||| field b 7
  | .tld g a t => 0x0C000000 ||| field g 21 ||| field a 14 ||| field t 0
  | .tst g a k t => 0x0E000000 ||| field g 21 ||| field a 14 ||| field k 6 ||| field t 0
  | .tstO g a b k => 0x0E000008 ||| field g 21 ||| field a 14 ||| field b 7 ||| field k 6
  | .qbind g a q => 0x10000000 ||| field g 21 ||| field a 14 ||| field q 5
  | .qdrop g q u fl => 0x12000000 ||| field g 21 ||| field q 5 ||| field u 1 ||| field fl 0
  | .chain g a im => 0x14000000 ||| field g 21 ||| field a 14 ||| field im 0
  | .chainm g a m im => 0x16000000 ||| field g 21 ||| field a 14 ||| field m 1 ||| field im 0
  | .chfin g k => 0x18000000 ||| field g 21 ||| field k 6
  | .stsave g a b k => 0x1A000000 ||| field g 21 ||| field a 14 ||| field b 7 ||| field k 6
  | .stld g a => 0x1C000000 ||| field g 21 ||| field a 14
  | .stldMerge g a b => 0x1C000001 ||| field g 21 ||| field a 14 ||| field b 7
  | .mcall g a => 0x1E000000 ||| field g 21 ||| field a 14
  | .mrep g a => 0x20000000 ||| field g 21 ||| field a 14
  | .mvb g a b => 0x22000000 ||| field g 21 ||| field a 14 ||| field b 7
  | .mv g a t => 0x24000000 ||| field g 21 ||| field a 14 ||| field t 0
  | .mpoll g a => 0x26000000 ||| field g 21 ||| field a 14
  | .chld g a b => 0x60000000 ||| field g 21 ||| field a 14 ||| field b 7
  | .ftld g a n => 0x62000000 ||| field g 21 ||| field a 14 ||| field n 0
  | .fmld g a n => 0x64000000 ||| field g 21 ||| field a 14 ||| field n 0
  | .rowstat g a o h t => 0x66000000 ||| field g 21 ||| field a 14 ||| field o 5 ||| field h 3 ||| field t 0
  | .cpy g k => 0x02000000 ||| field g 21 ||| field k 6
  | .cpyl g a b k => 0x04000000 ||| field g 21 ||| field a 14 ||| field b 7 ||| field k 6
  | .cpyq g k q => 0x06000000 ||| field g 21 ||| field k 6 ||| field q 5
  | .kvcommit g a b k => 0x08000000 ||| field g 21 ||| field a 14 ||| field b 7 ||| field k 6
  | .give g a b e h => 0x0A000000 ||| field g 21 ||| field a 14 ||| field b 7 ||| field e 4 ||| field h 2
  | .take g a b e h => 0x0C000000 ||| field g 21 ||| field a 14 ||| field b 7 ||| field e 4 ||| field h 2
  | .cbcfg g a n => 0x0E000000 ||| field g 21 ||| field a 14 ||| field n 0
  | .cbpush g n => 0x10000000 ||| field g 21 ||| field n 0
  | .cbpop g a n => 0x12000000 ||| field g 21 ||| field a 14 ||| field n 0
  | .cpyst g a => 0x14000000 ||| field g 21 ||| field a 14
  | .ttinv g a b m => 0x16000000 ||| field g 21 ||| field a 14 ||| field b 7 ||| field m 0
  | .badd g a b c z => 0x40000000 ||| field g 21 ||| field a 14 ||| field b 7 ||| field c 3 ||| field z 0
  | .bfadd g a b c fl => 0x42000000 ||| field g 21 ||| field a 14 ||| field b 7 ||| field c 3 ||| field fl 0
  | .bmin g a b c u z => 0x44000000 ||| field g 21 ||| field a 14 ||| field b 7 ||| field c 3 ||| field u 2 ||| field z 0
  | .bmax g a b c u z => 0x46000000 ||| field g 21 ||| field a 14 ||| field b 7 ||| field c 3 ||| field u 2 ||| field z 0
  | .band g a b c z => 0x48000000 ||| field g 21 ||| field a 14 ||| field b 7 ||| field c 3 ||| field z 0
  | .bor g a b c z => 0x4A000000 ||| field g 21 ||| field a 14 ||| field b 7 ||| field c 3 ||| field z 0
  | .bxor g a b c z => 0x4C000000 ||| field g 21 ||| field a 14 ||| field b 7 ||| field c 3 ||| field z 0
  | .bswp g a b c z => 0x4E000000 ||| field g 21 ||| field a 14 ||| field b 7 ||| field c 3 ||| field z 0
  | .bcas g a b c z => 0x50000000 ||| field g 21 ||| field a 14 ||| field b 7 ||| field c 3 ||| field z 0
  | .bfaa g a b c z => 0x52000000 ||| field g 21 ||| field a 14 ||| field b 7 ||| field c 3 ||| field z 0
  | .tktake g a c => 0x54000000 ||| field g 21 ||| field a 14 ||| field c 3
  | .tknext g a c r => 0x56000000 ||| field g 21 ||| field a 14 ||| field c 3 ||| field r 0
  | .put g a b c z => 0x58000000 ||| field g 21 ||| field a 14 ||| field b 7 ||| field c 3 ||| field z 0
  | .lqbind g a u m d n => 0x80000000 ||| field g 21 ||| field a 14 ||| field u 5 ||| field m 4 ||| field d 3 ||| field n 0
  | .radd g a b c r w => 0x82000000 ||| field g 21 ||| field a 14 ||| field b 7 ||| field c 3 ||| field r 1 ||| field w 0
  | .rcas g a b c w => 0x84000000 ||| field g 21 ||| field a 14 ||| field b 7 ||| field c 3 ||| field w 0
  | .rswp g a b c w => 0x86000000 ||| field g 21 ||| field a 14 ||| field b 7 ||| field c 3 ||| field w 0
  | .rred g a b c fl => 0x88000000 ||| field g 21 ||| field a 14 ||| field b 7 ||| field c 3 ||| field fl 0
  | .rget g a b c z => 0x8A000000 ||| field g 21 ||| field a 14 ||| field b 7 ||| field c 3 ||| field z 0
  | .rput g a b c z => 0x8C000000 ||| field g 21 ||| field a 14 ||| field b 7 ||| field c 3 ||| field z 0
  | .beadld g a b m n => 0x8E000000 ||| field g 21 ||| field a 14 ||| field b 7 ||| field m 2 ||| field n 0
  | .pnew g a b => 0xA0000000 ||| field g 21 ||| field a 14 ||| field b 7
  | .pgrow g a b => 0xA2000000 ||| field g 21 ||| field a 14 ||| field b 7
  | .ptrim g a b => 0xA4000000 ||| field g 21 ||| field a 14 ||| field b 7
  | .post g a b => 0xA6000000 ||| field g 21 ||| field a 14 ||| field b 7
  | .precv g a b => 0xA8000000 ||| field g 21 ||| field a 14 ||| field b 7
  | .pfree g a => 0xAA000000 ||| field g 21 ||| field a 14
  | .bundlePresentation => 0
  | .deferredTrap => 0
  | .latencyWriteback => 0
  | .landingDataArrival => 0
  | .freezeTimeout => 0
  | .commandRecordEntry => 0
  | .slipStop => 0
  | .secondaryForcedIssue => 0
  | .cbProducerCompletion => 0
  | .cbConsumerCompletion => 0
  | .takeFlip => 0
  | .cbpopGrant => 0
  | .deliveredResultWrite => 0
  | .cbcfgApply => 0
  | .completionRecord => 0
  | .ttinvCompletion => 0
  | .portAccess => 0
  | .tileTableMiss => 0
  | .pageAnswer => 0
  | .uncorrectableHbmError => 0
  | .bankAccess => 0
  | .dmUncorrectableError => 0
  | .monitorWake => 0
  | .barrierCompletion => 0
  | .superstepCompletion => 0
  | .putArrival => 0
  | .pairFire => 0
  | .chainCommit => 0
  | .mvGroupCommit => 0
  | .charmCompletion => 0
  | .charmWrite => 0
  | .boundQueueWord => 0
  | .requestInject => 0
  | .remoteRequestReceive => 0
  | .remoteReply => 0
  | .retransmitTimeout => 0
  | .circuitFlitArrival => 0
  | .sendFifoPartialFlush => 0
  | .unsafeMapUpdate => 0
  | .laneRetirement => 0
  | .beadTableCommit => 0
  | .mailboxGrant => 0
  | .parcelArrival => 0
  | .parcelDeliveryAck => 0
  | .schedulingPoint => 0
  | .urgentStop => 0
  | .roleSwap => 0
  | .sliceEndEviction => 0
  | .antiStarvationRaise => 0
  | .launchEnd => 0
  | .deadlineExpiry => 0
  | .wrapupBudgetExpiry => 0
  | .waittLimitExpiry => 0
  | .firmwareCycleWalk => 0
  | .debugHaltRequest => 0
  | .debugResume => 0
  | .locketCancel => 0
  | .debuggerRegisterWrite => 0
  | .coreSplitWrite => 0
  | .bankFmtWrite => 0
  | .registerWrite => 0
  | .doorbell => 0
  | .queueIdleUnmap => 0
  | .nopPacket => 0
  | .launch => 0
  | .barrierAnd => 0
  | .barrierAndEvaluation => 0
  | .signal => 0
  | .copy => 0
  | .segtab => 0
  | .segmentCopyComplete => 0
  | .frontEndTick => 0
  | .tokenBucketEmpty => 0
  | .frontEndWake => 0
  | .queueReset => 0
  | .queueDestroy => 0
  | .tableUpdate => 0
  | .lockstepMismatch => 0
  | .workerFailure => 0
  | .vfRecord => 0
  | .vfReset => 0
  | .interfaceLock => 0
  | .interfaceStart => 0
  | .interfaceStop => 0
  | .sessionEnd => 0
  | .getMeasurements => 0
  | .tileMove => 0
  | .preCopyRound => 0
  | .finalRound => 0
  | .activation => 0
  | .migrationEnd => 0
  | .bringUp => 0
  | .recoveryBootImage => 0
  | .ptpSync => 0
  | .timeUnlocked => 0
  | .healthMonitorSample => 0
  | .healthReport => 0
  | .fatalEvent => 0
  | .fatalNodump => 0
  | .resetPackage => 0
  | .stripTransferCompletion => 0
  | .dispenserAccess => 0
  | .endpointPacketArrival => 0
  | .spdmSessionStart => 0

end Sys2Proof
end

