-- ==== Sys2Proof/Machine/Records.lean ====
section
/-!
DEFINITION. Command records: forming a record at issue (01 R15), the slip window and the queues (R16); requests on their
way to a home and loaded data on its way back.
-/
namespace Sys2Proof.Machine

/-! Records. -/

/-- The queue that receives a word (01 Table 01.4). -/
def queueOf (i : Instr) : Option Queue :=
  match i with
  | .cpy .. | .cpyl .. | .cpyq .. | .kvcommit .. | .give .. | .take .. | .cbcfg .. | .cbpush .. | .cbpop .. | .cpyst ..
  | .ttinv .. => some .copy
  | .badd .. | .bfadd .. | .bmin .. | .bmax .. | .band .. | .bor .. | .bxor .. | .bswp .. | .bcas .. | .bfaa ..
  | .tktake .. | .tknext .. | .put .. => some .bank
  | .lqbind .. | .radd .. | .rcas .. | .rswp .. | .rred .. | .rget .. | .rput .. | .beadld .. | .pnew .. | .pgrow ..
  | .ptrim .. | .post .. | .precv .. | .pfree .. => some .fabric
  | .mcfg .. | .tcfg .. | .tzero .. | .treshape .. | .tldq .. | .tld .. | .tst .. | .tstO .. | .qbind .. | .qdrop ..
  | .chain .. | .chainm .. | .chfin .. | .stsave .. | .stld .. | .stldMerge .. | .mcall .. | .mrep .. | .mvb ..
  | .mv .. | .mpoll .. | .chld .. | .ftld .. | .fmld .. | .rowstat .. => some .chain
  | _ => none
/-- A unit's queue. -/
def UnitSt.queue (u : UnitSt) : Queue → List Rec
  | .chain => u.qChain | .copy => u.qCopy | .bank => u.qBank | .fabric => u.qFabric
/-- A unit with one queue replaced. -/
def UnitSt.setQueue (u : UnitSt) (q : Queue) (l : List Rec) : UnitSt :=
  match q with
  | .chain => { u with qChain := l } | .copy => { u with qCopy := l }
  | .bank => { u with qBank := l } | .fabric => { u with qFabric := l }
/-- The staging values of the executing column: mp0 to mp7 for M words, ce0 to ce7 for D words (01 R15). -/
def State.staging (s : State) (q : Queue) : List Word :=
  match q with
  | .chain => s.bank.mp.toList
  | .copy => s.bank.ce.toList
  | _ => []
/-- Form a command record of the running word (01 R15): it enters the slip window. -/
def State.formRec (s : State) (ins : Instr) (q : Queue) (s1 s2 pair : Word) (acc dst : Nat) : State :=
  let (id, s) := s.fresh
  let u := s.fg.unit
  let r : Rec := ⟨id, s.fg.key, s.col, ins, s1, s2, pair, s.staging q, (s.unit u).count, acc, dst, 0⟩
  (s.mapUnit u (fun x => { x with slip := x.slip ++ [r] })).soon (.commandRecordEntry u q)
/-- Form a record of a word with two register operands. -/
def State.rec2 (s : State) (g : Guard) (ins : Instr) (q : Queue) (a b : RegF) : R :=
  s.when g fun s =>
    let (x, s) := s.takeI a
    let (y, s) := s.takeI b
    s.formRec ins q x y 0 0 0
/-- Form a record of a word with one register operand. -/
def State.rec1 (s : State) (g : Guard) (ins : Instr) (q : Queue) (a : RegF) : R :=
  s.when g fun s => let (x, s) := s.takeI a; s.formRec ins q x 0 0 0 0
/-- Form a record of a word with no register operand. -/
def State.rec0 (s : State) (g : Guard) (ins : Instr) (q : Queue) : R := s.when g fun s => s.formRec ins q 0 0 0 0 0
/-- A word whose result is delivered to the i register of s1 (10 R205): the record and the pending result. -/
def State.recDst (s : State) (g : Guard) (ins : Instr) (q : Queue) (a : RegF) (y : Word) (cb : Option Nat) : R :=
  s.when g fun s =>
    let d := s.bank.physI a
    let id := s.nid
    let s := s.formRec ins q 0 y 0 0 d
    { s with fg := { s.fg with results := s.fg.results ++ [⟨id, s.col, false, d, none, cb⟩] } }
/-- Give a pending result its value (10 R205). -/
def State.grantV (s : State) (k id : Nat) (w : VWord) : State :=
  (s.mapTask k (fun t => { t with results := t.results.map (fun r => if r.id = id then { r with val := some w } else r) })).soon
    (.deliveredResultWrite k)
/-- The same for an i register. -/
def State.grant (s : State) (k id : Nat) (w : Word) : State := s.grantV k id (w.setWidth 1024)

/-! Requests. -/

/-- A request by number. -/
def State.req (s : State) (n : Nat) : Option Req := s.reqs.find? (fun r => decide (r.id = n))
/-- Drop a request. -/
def State.dropReq (s : State) (n : Nat) : State := { s with reqs := s.reqs.filter (fun r => decide (r.id ≠ n)) }
/-- Send a request on its way, to be performed by an event. -/
def State.ask (s : State) (r : Req) (e : Event) : State := State.soon { s with reqs := s.reqs ++ [r] } e

/-- A 64-byte DM line by memory number is poisoned (16 R281). -/
def State.dmPoisoned (s : State) (a n : Nat) : Bool :=
  (List.range ((a + n - 1) / 64 + 1 - a / 64)).any (fun k => fget false s.dmPois (a / 64 + k))

end Sys2Proof.Machine
end

