-- ==== Sys2Proof/Machine/Translate.lean ====
section
/-!
DEFINITION. Translation at the memory ports (11 R207 to R214): descriptors, the bezel, tile tables and their caches, the
checks of Table 11.5.
-/
namespace Sys2Proof.Machine

/-! Descriptors. -/

/-- Field k of a doubleword of four 16-bit fields. -/
def half (w k : Nat) : Nat := w / 2 ^ (16 * k) % 65536
/-- Extent, tile extent, order of dimension k; rank, format, tile size, table base of a descriptor (11 Table 11.1). -/
def DescE.ext (d : DescE) (k : Nat) : Nat := half (vget 0 d.w 0) k + 1
def DescE.til (d : DescE) (k : Nat) : Nat := half (vget 0 d.w 1) k + 1
def DescE.ord (d : DescE) (k : Nat) : Nat := vget 0 d.w 2 / 2 ^ (48 + 2 * k) % 4
def DescE.rankm (d : DescE) : Nat := bits (vget 0 d.w 2) 35 34
def DescE.fmt (d : DescE) : Nat := bits (vget 0 d.w 2) 39 36
def DescE.tsz (d : DescE) : Nat := bits (vget 0 d.w 2) 42 40
def DescE.base (d : DescE) : Nat := bits (vget 0 d.w 3) 43 0
/-- Tiles along dimension k. -/
def DescE.nt (d : DescE) (k : Nat) : Nat := (d.ext k + d.til k - 1) / d.til k
/-- Elements of a tile, and its packed bytes (05 R92). -/
def DescE.elemsN (d : DescE) : Nat := d.til 0 * d.til 1 * d.til 2 * d.til 3
def DescE.packed (d : DescE) : Nat := (d.elemsN * elemBits d.fmt + 7) / 8
/-- A descriptor that R208 takes. -/
def DescE.ok (d : DescE) : Bool :=
  let w2 := vget 0 d.w 2
  let w3 := vget 0 d.w 3
  let os := (List.range (d.rankm + 1)).map d.ord
  decide (bits w2 63 63 = 1) && decide (bits w2 62 56 = 0) && decide (bits w2 47 43 = 0) && decide (bits w2 33 0 = 0) &&
    decide (bits w3 63 44 = 0) && decide (bits w3 2 0 = 0) && decide (d.tsz ≤ 4) && decide (d.fmt ≤ 11) &&
    os.all (fun o => decide (o ≤ d.rankm)) && decide (os.eraseDups.length = os.length) &&
    (List.range 4).all (fun k => decide (k ≤ d.rankm) ||
      (decide (d.ord k = 0) && decide (d.ext k = 1) && decide (d.til k = 1))) &&
    (if isMx d.fmt then decide (d.til 0 % 32 = 0) && decide (d.elemsN ≤ 32 * mxBlocks d.fmt * 2 ^ d.tsz)
     else decide (d.packed ≤ 4096 * 2 ^ d.tsz)) &&
    decide (d.nt 0 * d.nt 1 * d.nt 2 * d.nt 3 ≤ 4294967296)
/-- The coordinates lie within the extents. -/
def DescE.inside (d : DescE) (c : Nat → Nat) : Bool := (List.range 4).all (fun k => decide (c k < d.ext k))
/-- The tile number of coordinates (11 R209). -/
def DescE.tileNo (d : DescE) (c : Nat → Nat) : Nat :=
  let t (j : Nat) : Nat := if j ≤ d.rankm then c (d.ord j) / d.til (d.ord j) else 0
  let n (j : Nat) : Nat := if j ≤ d.rankm then d.nt (d.ord j) else 1
  t 0 + n 0 * (t 1 + n 1 * (t 2 + n 2 * t 3))
/-- The element index within the tile. -/
def DescE.elemNo (d : DescE) (c : Nat → Nat) : Nat :=
  let o (k : Nat) : Nat := c k % d.til k
  o 0 + d.til 0 * (o 1 + d.til 1 * (o 2 + d.til 2 * o 3))
/-- The bit offset of an element within an end of a format, MX blocks at their places (05 R92, R98, 11 R209). -/
def elemBitAt (fmt e : Nat) : Nat :=
  if isMx fmt then
    let b := e / 32
    8 * (4096 * (b / mxBlocks fmt) + mxElemBytes fmt * (b % mxBlocks fmt)) + e % 32 * elemBits fmt
  else e * elemBits fmt
/-- The byte within the tile of an element. -/
def DescE.byteNo (d : DescE) (c : Nat → Nat) : Nat := elemBitAt d.fmt (d.elemNo c) / 8

/-! Translation with caches. -/

/-- The translating port of a tile for a die (11 R210). -/
def portOf (die tile : Nat) : Nat := die * 8 + tile % 8
/-- What reading a descriptor gives: unknown tensor, refused descriptor, refused read, or the descriptor. -/
inductive DescRes where
  | unknown | refused | segment
  | ok (d : DescE)
  deriving DecidableEq, Repr
/-- The descriptor of a tensor in VF memory (11 R207). -/
def State.readDesc (s : State) (vf tid : Nat) : DescRes :=
  if (s.vf vf).tdtCount ≤ tid then .unknown
  else match s.vfRead vf ((s.vf vf).tdtBase + 32 * tid) 32 with
    | none => .segment
    | some bs =>
      let d : DescE := ⟨vf, tid, Vector.ofFn (fun k => ofBytes ((bs.drop (8 * k.val)).take 8))⟩
      if d.ok then .ok d else .refused
/-- The descriptor that an access of a die meets: the one that the port it leads to has cached, else the one in memory.
Where stale copies at several ports each lead to their own port, the lowest is taken (log 17). -/
def State.descriptor (s : State) (die vf tid : Nat) (c : Nat → Nat) : DescRes :=
  if (s.vf vf).tdtCount ≤ tid then .unknown
  else match (List.range 8).findSome? (fun k => (s.port (die * 8 + k)).desc.find? (fun d =>
      decide (d.vf = vf) && decide (d.tid = tid) && decide (d.tileNo c % 8 = k))) with
    | some d => .ok d
    | none => s.readDesc vf tid
/-- Cache a descriptor, the oldest leaving. -/
def State.cacheDesc (s : State) (p : Nat) (d : DescE) : State :=
  let x := s.port p
  s.setPort p { x with desc := (d :: x.desc.filter (fun y => !(decide (y.vf = d.vf) && decide (y.tid = d.tid)))).take 256 }
/-- The cached entry of a tile. -/
def State.cached (s : State) (p vf tid tile : Nat) : Option Nat :=
  ((s.port p).tile.find? (fun x => decide (x.vf = vf) && decide (x.tid = tid) && decide (x.tile = tile))).map (·.e)
/-- Cache an entry as the most recently used one. -/
def State.cacheTile (s : State) (p vf tid tile e : Nat) : State :=
  let x := s.port p
  s.setPort p { x with tile := (⟨vf, tid, tile, e⟩ :: x.tile.filter (fun y =>
    !(decide (y.vf = vf) && decide (y.tid = tid) && decide (y.tile = tile)))).take 4096 }
/-- Bits of a tile-table entry (11 Table 11.3). -/
def tePresent (e : Nat) : Bool := decide (bits e 63 63 = 1)
def teDirty (e : Nat) : Bool := decide (bits e 62 62 = 1)
def tePoison (e : Nat) : Bool := decide (bits e 61 61 = 1)
def teWritable (e : Nat) : Bool := decide (bits e 60 60 = 1)
/-- The VF address of a byte of a tile through its entry. -/
def teAddr (d : DescE) (e byte : Nat) : Nat := bits e 31 0 / 2 ^ d.tsz * 2 ^ d.tsz * 4096 + byte
/-- A frame, by its physical frame number on a die, is in its home port's poison list (11 R218). -/
def State.frameListed (s : State) (die pa : Nat) : Bool := (s.port (die * 8 + bits pa 14 12)).poison.elem (pa / 4096)

/-- What the checks of 11 Table 11.5 decide for the first byte of an access of a size. -/
inductive PortRes where
  | fault (cause : Nat) (event : Bool)
  | miss (p tid tile : Nat) (d : DescE)
  | ok (p tile : Nat) (d : DescE) (e die pa : Nat) (poison : Bool)
  deriving DecidableEq, Repr
/-- The checks, in order, for coordinates of a tensor; the entry comes from the cache. -/
def State.translate (s : State) (die vf tid : Nat) (c : Nat → Nat) (write : Bool) (size : Nat) : PortRes :=
  match s.descriptor die vf tid c with
  | .unknown | .refused => .fault Cause.segmentFault false
  | .segment => .fault Cause.segmentFault true
  | .ok d =>
    if !d.inside c then .fault Cause.segmentFault false
    else
      let tile := d.tileNo c
      let p := portOf die tile
      match s.cached p vf tid tile with
      | none => .miss p tid tile d
      | some e =>
        if write && !teWritable e then .fault Cause.segmentFault false
        else match s.segment vf (teAddr d e (d.byteNo c)) with
          | some (hd, pa) =>
            if d.byteNo c % size ≠ 0 then .fault Cause.misaligned false
            else .ok p tile d e hd pa (tePoison e || s.frameListed hd pa)
          | none => .fault Cause.segmentFault true
/-- A tile-table entry as a die's accesses meet it: cached, or in memory. -/
def State.entryOf (s : State) (die vf tid : Nat) (d : DescE) (tile : Nat) : Option Nat :=
  match s.cached (portOf die tile) vf tid tile with
  | some e => some e
  | none => s.vfNum vf (d.base + 8 * tile) 8
/-- The home of a tensor word and its memory number, while its page is there (02 R30). -/
def State.tnHome (s : State) (die vf tid : Nat) (c : Nat → Nat) : Home × Nat :=
  match s.descriptor die vf tid c with
  | .ok d => match s.entryOf die vf tid d (d.tileNo c) with
    | some e => match s.segment vf (teAddr d e (d.byteNo c)) with
      | some (hd, pa) => if d.inside c && tePresent e then (.hbm hd, hbmNo hd pa) else (.unmapped, 0)
      | none => (.unmapped, 0)
    | none => (.unmapped, 0)
  | _ => (.unmapped, 0)
/-- Set DIRTY in memory and in the cached entry before the first write (11 R212). -/
def State.dirty (s : State) (p vf tid tile : Nat) (d : DescE) (e : Nat) : State :=
  if teDirty e then s
  else
    let e' := e + 2 ^ 62
    let a := d.base + 8 * tile
    let s := match s.vfNum vf a 8 with
      | some m => (s.vfWrite vf a (bytesOf 8 (if teDirty m then m else m + 2 ^ 62))).getD s
      | none => s
    s.cacheTile p vf tid tile e'
/-- The coordinates of an address generator. -/
def Ag.coord (a : Ag) (k : Nat) : Nat := (vget 0 a.c k).toNat

end Sys2Proof.Machine
end

