-- ==== Sys2Proof/Machine/MemAccess.lean ====
section
/-!
DEFINITION. The loads and stores of the I slot: LDS and STS on LS tiles, LDD and STD on DM, LDT, STT and TQRY through a
port (06 R143 to R147, 11 R221). LS accesses perform at issue unless an earlier access of their order has still to (log 7);
the others become requests.
-/
namespace Sys2Proof.Machine

/-! LS (06 R145). -/

/-- The least power of two that is at least n. -/
def pow2Up (n : Nat) : Nat := if n ≤ 1 then 1 else 2 ^ (Nat.log2 (n - 1) + 1)
/-- Where an LS access goes. -/
inductive LsRes where
  | trap (cause : Nat)
  | owner (tile : Nat)
  | outside (flag : Bool) (off : Nat)
  | at (byte : Nat)
  deriving DecidableEq, Repr
/-- A number that an earlier bundle's record or result got, not the running bundle's own. -/
def State.earlier (s : State) (id : Nat) : Bool := decide (s.ctl.mark = 0) || decide (id < s.ctl.mark)
/-- The accesses of the foreground task that an earlier bundle made and that have not performed. -/
def State.pastAccs (s : State) : List Acc := s.fg.accs.filter (fun a => s.earlier a.id)
/-- Tiles, within its allocation, that a GIVE of an earlier bundle of a task, still in the slip window, covers (01 R21). -/
def State.givePending (s : State) (t : Task) (tile : Nat) : Bool :=
  (s.unit t.unit).slip.any (fun r => match r.ins with
    | .give .. => s.earlier r.id && decide (r.task = t.key) && decide (bits r.s1.toNat 9 0 ≤ tile) &&
        decide (tile < bits r.s1.toNat 9 0 + bits r.s2.toNat 10 0)
    | _ => false)
/-- The tiles of a buffer's ring, within the allocation (10 R203). -/
def ringTiles (d : Word) : List Nat := (List.range (bits d.toNat 18 10)).map (bits d.toNat 9 0 + ·)
/-! Descriptors of circular buffers (01 Table 01.6). -/

def cbBase (d : Word) : Nat := bits d.toNat 9 0
def cbCount (d : Word) : Nat := bits d.toNat 18 10
def cbProd (d : Word) : Nat := bits d.toNat 27 19
def cbCons (d : Word) : Nat := bits d.toNat 36 28
def cbPn (d : Word) : Nat := bits d.toNat 40 37
def cbCn (d : Word) : Nat := bits d.toNat 44 41
/-- The pointer, declared count, agent code and column of a side. -/
def cbPtr (d : Word) (prod : Bool) : Nat := if prod then cbProd d else cbCons d
def cbNum (d : Word) (prod : Bool) : Nat := (if prod then cbPn d else cbCn d) + 1
def cbAgent (d : Word) (prod : Bool) : Nat := if prod then bits d.toNat 47 45 else bits d.toNat 50 48
def cbChan (d : Word) (prod : Bool) : Nat := if prod then bits d.toNat 52 51 else bits d.toNat 54 53
/-- A CB_DESC image that CBCFG takes (10 R203); its reserved bits are ignored (00 R6). One with COUNT = 0,
which disables the buffer, is taken whatever its PN and CN, though the list of refusals has PN + 1 > COUNT (DESIGN CHOICE, log 59). -/
def cbImageOk (t : Task) (d : Word) : Bool :=
  let side (p : Bool) : Bool :=
    decide (cbAgent d p ≤ 4) && decide (cbChan d p < t.width) && (decide (cbAgent d p ≠ 0) || decide (cbChan d p = 0))
  decide (cbCount d ≤ 256) && decide (cbBase d + cbCount d ≤ t.lsSize) &&
    (decide (cbCount d = 0) || (decide (cbPn d + 1 ≤ cbCount d) && decide (cbCn d + 1 ≤ cbCount d))) &&
    side true && side false && !(decide (cbAgent d true = 0) && decide (cbAgent d false = 0))
/-- The ring of a buffer that a CBPOP of a task waits on: as it stands, and as the CBCFGs before the CBPOP that still wait and will be
taken make it (10 R203, R205). -/
def State.popRing (s : State) (t : Task) (n id : Nat) : List Nat :=
  let u := s.unit t.unit
  ringTiles (vget 0 u.cb n) ++ ((u.qCopy ++ u.slip).filter (fun r => decide (r.task = t.key) && decide (r.id < id) && (match r.ins with
      | .cbcfg _ _ m => decide (m.toNat = n) && cbImageOk t r.s1 | _ => false))).flatMap (fun r => ringTiles r.s1)
/-- Tiles that a TAKE of an earlier bundle of a task will flip, or a pending CBPOP deliver (01 R22, 10 R205). -/
def State.takePending (s : State) (t : Task) (tile : Nat) : Bool :=
  let u := s.unit t.unit
  u.recs.any (fun r => match r.ins with
    | .take .. => s.earlier r.id && decide (r.task = t.key) && decide (bits r.s1.toNat 9 0 ≤ tile) &&
        decide (tile < bits r.s1.toNat 9 0 + bits r.s2.toNat 10 0)
    | _ => false) ||
  t.results.any (fun r => s.earlier r.id && r.val.isNone && (match r.cb with
    | some n => (s.popRing t n r.id).elem tile
    | none => false))
/-- The address of an LS access, after the checks of R145 in their order. -/
def State.lsCheck (s : State) (t : Task) (a : Ag) (size : Nat) : LsRes :=
  let off := a.off
  if off % size ≠ 0 then .trap Cause.misaligned
  else
    let z := t.lsSize * 4096
    let off := if t.lsWrap then off % pow2Up z else off
    if z ≤ off then
      if t.lsWrap then .outside false off
      else if t.lsOobTrap then .trap Cause.lsRange
      else .outside true off
    else
      let tile := off / 4096
      if (s.owner (coreOf t.unit) (t.lsBase + tile)).getLsbD 7 || s.givePending t tile || s.takePending t tile then
        .owner tile
      else .at (t.lsBase * 4096 + off)
/-- An LS access outside its range sets the flag, and LS_OOB_ADDR where the flag was 0 at issue, with the writes of its bundle
(06 R145). -/
def State.outsideLs (s : State) (flag : Bool) (off : Nat) : State :=
  if !flag then s else if s.fg.oobArmed then s.post 1 (.sr 6 (BitVec.ofNat 64 off)) else s.post 1 (.sr 7 0)
/-- An LS access takes its place in the task's order and waits for the accesses before it. -/
def State.askLs (s : State) (ins : Instr) (k : ReqKind) (acc : Acc) (b : Nat) : State :=
  let t := s.fg
  { s with fg := { t with accs := t.accs ++ [acc] },
           reqs := s.reqs ++ [⟨acc.id, t.key, t.vf, t.die, s.col, k, ins, b, acc.size, acc.val, 0, 0, Ag.zero, coreOf t.unit, none⟩] }
def execLds (g : Guard) (l : BitVec 4) (a : BitVec 3) (o : BitVec 6) (c : BitVec 4) (n : BitVec 1) (sc : BitVec 2)
    (s : State) : R :=
  s.when g fun s =>
    let core := coreOf s.fg.unit
    let size := loadSize sc
    let land (s : State) : Nat × State := let (id, s) := s.fresh; (id, (s.landing id l.toNat o.toNat).incAg a n)
    let go (s : State) (d : VWord) (trap : Option Nat) : State :=
      let (id, s) := land s
      s.fly s.fg.key id d trap
    match s.lsCheck s.fg (s.bank.agr a) size with
    | .trap c => s.trapNow c 1
    | .owner _ => s.trapNow Cause.owner 1
    | .outside flag off => go (s.outsideLs flag off) 0 none
    | .at b =>
      let acc := s.newAcc s.nid c.toNat true false (.ls core) (lsNo core b) size []
      match acc.may s.fg.accs with
      | .no => (land s).2.askLs (.lds g l a o c n sc) .lsLoad acc b
      | m => go s (s.lsLoad core b size m).1 (s.lsLoad core b size m).2
def execSts (g : Guard) (r : BitVec 4) (a : BitVec 3) (c : BitVec 4) (n : BitVec 1) (sc : BitVec 2) (s : State) : R :=
  s.when g fun s =>
    let core := coreOf s.fg.unit
    let size := storeSize sc
    let val := s.srcBytes r size
    match s.lsCheck s.fg (s.bank.agr a) size with
    | .trap c => s.trapNow c 1
    | .owner _ => s.trapNow Cause.owner 1
    | .outside flag off => (s.outsideLs flag off).incAg a n
    | .at b =>
      let acc := s.newAcc s.nid c.toNat false true (.ls core) (lsNo core b) size val
      if acc.may s.fg.accs = .home then (s.setBytes (lsNo core b) val).incAg a n
      else (s.fresh.2.incAg a n).askLs (.sts g r a c n sc) .lsStore acc b

/-! DM (06 R147). -/

/-- The presentation checks of LDD and STD. -/
def Task.dmCheck (t : Task) (a : Ag) (size : Nat) : Option Nat :=
  if a.off % size ≠ 0 then some Cause.misaligned
  else if t.dmSize < a.off + size then some Cause.segmentFault
  else none
/-- A plain DM access of the running word becomes a request (16 R281). -/
def State.askDm (s : State) (ins : Instr) (cls : Nat) (ld : Bool) (off size : Nat) (val : List Byte) (id : Nat) : State :=
  let t := s.fg
  let a := s.dmAt t.vf t.die off
  let s := s.access id cls ld (!ld) (.dm t.die) a size val
  s.ask ⟨id, t.key, t.vf, t.die, s.col, if ld then .dmLoad else .dmStore, ins, a, size, val, 0, 0, Ag.zero, 0, none⟩
    (.bankAccess id)
/-- A trap of LDD or STD at presentation; a segment fault raises a firmware event too. -/
def State.dmTrap (s : State) (c : Nat) : State :=
  (if c = Cause.segmentFault then s.report s.fg.vf 1 [s.fg.key] else s).trapNow c 1
def execLdd (g : Guard) (l : BitVec 4) (a : BitVec 3) (o : BitVec 6) (c : BitVec 4) (n : BitVec 1) (sc : BitVec 2)
    (s : State) : R :=
  s.when g fun s =>
    let ag := s.bank.agr a
    match s.fg.dmCheck ag (loadSize sc) with
    | some x => s.dmTrap x
    | none =>
      let (id, s) := s.fresh
      ((s.landing id l.toNat o.toNat).incAg a n).askDm (.ldd g l a o c n sc) c.toNat true ag.off (loadSize sc) [] id
def execStd (g : Guard) (r : BitVec 4) (a : BitVec 3) (c : BitVec 4) (n : BitVec 1) (sc : BitVec 2) (s : State) : R :=
  s.when g fun s =>
    let ag := s.bank.agr a
    match s.fg.dmCheck ag (storeSize sc) with
    | some x => s.dmTrap x
    | none =>
      let (id, s) := s.fresh
      (s.incAg a n).askDm (.std g r a c n sc) c.toNat false ag.off (storeSize sc) (s.srcBytes r (storeSize sc)) id

/-! Tensors (06 R146). -/

/-- A tensor access of the running word becomes a request at its port; `addr` keeps the bundle it came from. Its home and
its word are those its page has now (log 12). -/
def State.askTn (s : State) (ins : Instr) (k : ReqKind) (cls size : Nat) (val : List Byte) (a : Ag) (dst id : Nat) :
    State :=
  let t := s.fg
  let h := s.tnHome t.die t.vf a.tid.toNat a.coord
  let s := if k = .query then s else s.access id cls (decide (k = .tnLoad)) (decide (k = .tnStore)) h.1 h.2 size val
  s.ask ⟨id, t.key, t.vf, t.die, s.col, k, ins, t.pc, size, val, 0, 0, a, dst, none⟩ (.portAccess id)
def execLdt (g : Guard) (l : BitVec 4) (a : BitVec 3) (o : BitVec 6) (c : BitVec 4) (n : BitVec 1) (sc : BitVec 2)
    (s : State) : R :=
  s.when g fun s =>
    let ag := s.bank.agr a
    let (id, s) := s.fresh
    ((s.landing id l.toNat o.toNat).incAg a n).askTn (.ldt g l a o c n sc) .tnLoad c.toNat (loadSize sc) [] ag 0 id
def execStt (g : Guard) (r : BitVec 4) (a : BitVec 3) (c : BitVec 4) (n : BitVec 1) (sc : BitVec 2) (s : State) : R :=
  s.when g fun s =>
    let ag := s.bank.agr a
    let (id, s) := s.fresh
    (s.incAg a n).askTn (.stt g r a c n sc) .tnStore c.toNat (storeSize sc) (s.srcBytes r (storeSize sc)) ag 0 id
def execTqry (g : Guard) (d : RegF) (a : BitVec 6) (s : State) : R :=
  s.when g fun s =>
    let ag := vget Ag.zero s.bank.ag a.toNat
    let dst := s.bank.physI d
    let (id, s) := s.fresh
    let s : State := { s with fg := { s.fg with results := s.fg.results ++ [(⟨id, s.col, false, dst, none, none⟩ : PendRes)] } }
    s.askTn (.tqry g d a) .query 0 0 [] ag dst id

end Sys2Proof.Machine
end

