-- ==== Sys2Proof/Machine/Port.lean ====
section
/-!
DEFINITION. The memory ports (11 R214 to R221): misses, page requests and answers, poison, and the events PORT_ACCESS,
TILE_TABLE_MISS, PAGE_ANSWER, UNCORRECTABLE_HBM_ERROR and LANDING_DATA_ARRIVAL.
-/
namespace Sys2Proof.Machine

/-! Parking (03 R68, 11 R215). -/

/-- The task that a missing page parks: an urgent stop at its next bundle boundary, its landing held to be issued again. -/
def State.park (s : State) (r : Req) (tag : Nat) : State :=
  if !(s.task r.task).alive then s
  else
    let again (l : List Landing) : List Landing := l.map (fun x => if x.id = r.id then { x with again := true } else x)
    s.mapTask r.task (fun t =>
      { t with land := again t.land, work := { t.work with land := again t.work.land },
               snap := { t.snap with land := again t.snap.land },
               pages := if t.pages.elem tag then t.pages else t.pages ++ [tag] })
/-- The smallest free page tag (DESIGN CHOICE: the spec says fresh; log 13). -/
def State.freeTag (s : State) : Nat :=
  ((List.range 65536).find? (fun n => !s.pages.any (fun p => decide (p.tag = n)))).getD 0
/-- No page request can be made now: every tag is live or quarantined (DESIGN CHOICE: 11 R215 gives no outcome, the request waits
at its port, log 13), or the pair of the die, or die 0's, is stopped and cannot carry it (24 R394). -/
def State.noRequest (s : State) (p : Nat) : Bool :=
  decide (65536 ≤ s.pages.length) || s.fw.down.elem (p / 8) || s.fw.down.elem 0
/-- An outstanding miss of a tile at a port. -/
def PortSt.missOf (x : PortSt) (vf tid tile : Nat) : Option Miss :=
  x.miss.find? (fun m => decide (m.vf = vf) && decide (m.tid = tid) && decide (m.tile = tile))
/-- Raise or join the page request of a tile at a port (11 R215): misses at one port share one tag. The miss stays
outstanding until the answer. -/
def State.pageRequest (s : State) (p vf tid tile : Nat) (write : Bool) : Nat × State :=
  match (s.port p).missOf vf tid tile with
  | some ⟨_, _, _, some tag, _⟩ =>
    (tag, { s with pages := s.pages.map (fun q => if q.tag = tag then { q with write := q.write || write } else q) })
  | _ =>
    let tag := s.freeTag
    let x := (s.port p).noMiss vf tid tile
    let s := s.setPort p { x with miss := x.miss ++ [⟨vf, tid, tile, some tag, []⟩] }
    let s : State := { s with pages := s.pages ++ [⟨tag, p, vf, tid, tile, write, [], []⟩] }
    (tag, s.send (.host vf 2 [tag, vf, tid, tile, write.toNat, p / 8]))
/-- A port has no room for another miss. -/
def State.missFull (s : State) (p vf tid tile : Nat) : Bool :=
  ((s.port p).missOf vf tid tile).isNone && decide (256 ≤ (s.port p).miss.length)
/-! Events. -/

/-- A load's data, or its failure, leaves the port. -/
def State.portLoad (s : State) (r : Req) (d : VWord) (trap : Option Nat) : State :=
  ((s.dropReq r.id).performed r.task r.id).fly r.task r.id d trap
/-- A failing tensor access (11 R214): a load lands zero and traps at arrival, a store is dropped and traps deferred. -/
def State.portFail (s : State) (r : Req) (cause : Nat) (event : Bool) : State :=
  let s := if event then s.report r.vf 1 [r.task] else s
  match r.kind with
  | .tnLoad => s.portLoad r 0 (some cause)
  | _ => ((s.dropReq r.id).performed r.task r.id).raise r.task cause r.col
/-- TQRY's answer (11 Table 11.8). -/
def State.queryWord (s : State) (r : Req) : Word :=
  let c := r.ag.coord
  let tid := r.ag.tid.toNat
  let word (st wr di po ca off tile : Nat) : Word :=
    BitVec.ofNat 64 (st * 2 ^ 61 + wr * 2 ^ 60 + di * 2 ^ 59 + po * 2 ^ 58 + ca * 2 ^ 57 + off % 65536 * 2 ^ 32 + tile % 2 ^ 32)
  match s.descriptor r.die r.vf tid c with
  | .unknown => word 1 0 0 0 0 0 0
  | .refused => word 2 0 0 0 0 0 0
  | .segment => word 4 0 0 0 0 0 0
  | .ok d =>
    let tile := d.tileNo c
    let off := d.byteNo c
    if !d.inside c then word 3 0 0 0 0 off tile
    else
      let hit := (s.cached (portOf r.die tile) r.vf tid tile).isSome.toNat
      match s.entryOf r.die r.vf tid d tile with
      | none => word 4 0 0 0 0 0 0
      | some e =>
        if !tePresent e then word 5 0 0 (tePoison e).toNat 0 off tile
        else match s.segment r.vf (teAddr d e off) with
          | none => word 4 0 0 (tePoison e).toNat hit 0 0
          | some (hd, pa) =>
            word (if teWritable e then 0 else 6) (teWritable e).toNat (teDirty e).toNat
              (tePoison e || s.frameListed hd pa).toNat hit off tile
/-- A query's fetch waits for one of the port's misses (11 R215). -/
def State.queryFull (s : State) (r : Req) : Bool :=
  let c := r.ag.coord
  match s.descriptor r.die r.vf r.ag.tid.toNat c with
  | .ok d =>
    let p := portOf r.die (d.tileNo c)
    d.inside c && (s.cached p r.vf r.ag.tid.toNat (d.tileNo c)).isNone && s.missFull p r.vf r.ag.tid.toNat (d.tileNo c)
  | _ => false
/-- What a query leaves in its port's caches: the descriptor it met, and an entry that is present. -/
def State.queryCaches (s : State) (r : Req) : State :=
  let c := r.ag.coord
  match s.descriptor r.die r.vf r.ag.tid.toNat c with
  | .ok d =>
    let p := portOf r.die (d.tileNo c)
    let s := s.cacheDesc p d
    match s.entryOf r.die r.vf r.ag.tid.toNat d (d.tileNo c) with
    | some e => if d.inside c && tePresent e then s.cacheTile p r.vf r.ag.tid.toNat (d.tileNo c) e else s
    | none => s
  | _ => s
/-- One request at its port. A load of 64 or 128 bytes, which the spec does not make atomic, reads all its words in one
step (DESIGN CHOICE, log 7). -/
def portAccess (n : Nat) (s : State) : State :=
  match s.req n with
  | none => s
  | some r =>
    if r.tag.isSome then s
    else if r.kind = .query then
      if s.queryFull r then s.soon (.portAccess n) else ((s.queryCaches r).dropReq n).grant r.task n (s.queryWord r)
    else match (s.task r.task).may n with
      | .no => s.soon (.portAccess n)
      | m =>
        match s.translate r.die r.vf r.ag.tid.toNat r.ag.coord (decide (r.kind = .tnStore)) r.size with
        | .fault c e => s.portFail r c e
        | .miss p tid tile d =>
          let s := s.cacheDesc p d
          if s.missFull p r.vf tid tile then s.soon (.portAccess n)
          else
            let x := s.port p
            let same (m : Miss) : Bool := decide (m.vf = r.vf) && decide (m.tid = tid) && decide (m.tile = tile)
            (s.setPort p { x with miss := if x.miss.any same then x.miss.map (fun m => if same m then { m with ids := m.ids ++ [n] } else m)
                else x.miss ++ [⟨r.vf, tid, tile, none, [n]⟩] }).soon
              (.tileTableMiss n)
        | .ok p tile d e hd pa poison =>
          let s := (s.cacheDesc p d).cacheTile p r.vf r.ag.tid.toNat tile e
          match r.kind with
          | .tnLoad =>
            if poison then s.portLoad r 0 (some Cause.poison)
            else match m with
              | .path bs => s.portLoad r (landVal bs) none
              | _ => s.portLoad r (landVal (s.hbmBytes (s.keyNo r.vf) (hbmNo hd pa) r.size)) none
          | _ =>
            let s := s.dirty p r.vf r.ag.tid.toNat tile d e
            ((s.setHbmBytes (s.keyNo r.vf) (hbmNo hd pa) r.val).dropReq n).performed r.task n
/-- A miss is answered by the tile table: an entry that is present is cached, another raises a page request. -/
def tileTableMiss (n : Nat) (s : State) : State :=
  match s.req n with
  | none => s
  | some r =>
    match s.translate r.die r.vf r.ag.tid.toNat r.ag.coord (decide (r.kind = .tnStore)) r.size with
    | .miss p tid tile d =>
      let clear (s : State) : State := s.setPort p ((s.port p).noMiss r.vf tid tile)
      match s.vfNum r.vf (d.base + 8 * tile) 8 with
      | none => (clear s).portFail r Cause.segmentFault true
      | some e =>
        if tePresent e && !(match (s.port p).missOf r.vf tid tile with | some m => m.tag.isSome | none => false) then
          ((clear s).cacheTile p r.vf tid tile e).soon (.portAccess n)
        else if s.missFull p r.vf tid tile then (s.unmiss [n]).soon (.portAccess n)
        else if s.noRequest p then s.soon (.tileTableMiss n)
        else
          let (tag, s) := s.pageRequest p r.vf tid tile (decide (r.kind = .tnStore))
          let s : State := { s with
            pages := s.pages.map (fun q => if q.tag = tag then { q with reqs := q.reqs ++ [n] } else q),
            reqs := s.reqs.map (fun q => if q.id = n then { q with tag := some tag } else q) }
          s.park r tag
    | _ => (s.unmiss [n]).soon (.portAccess n)
/-- The waiters of a task leave their tags (11 R217). -/
def State.unwait (s : State) (k : Nat) : State :=
  let ids := (s.reqs.filter (fun r => decide (r.task = k) && r.tag.isSome)).map (·.id)
  let s : State := { s with
    reqs := s.reqs.filter (fun r => !ids.elem r.id),
    pages := s.pages.map (fun p => { p with reqs := p.reqs.filter (fun n => !ids.elem n) }) }
  ((s.performedAll k ids).mapTask k (fun t => { t with pages := [] })).quarantine
/-- A parked task goes on when the last page it waits for has been answered. -/
def State.unpark (s : State) (k : Nat) : State :=
  let t := s.task k
  if t.stop ≠ .page ∨ !t.pages.isEmpty then s
  else
    (if t.resident then s.mapTask k Task.resume else s.mapTask k (fun t => { t with stop := .run })).schedule t.die
/-- A page answer reaches the front end (11 R216, R217), where it waits while the pair is stopped (24 R394). -/
def pageAnswer (tag : Nat) (ok : Bool) (entry : Word) (s : State) : State :=
  match s.pages.find? (fun p => decide (p.tag = tag)) with
  | none => s
  | some p =>
    if s.fw.down.elem (p.port / 8) || s.fw.down.elem 0 then s.soon (.pageAnswer tag ok entry) else
    let s := State.wakeFront { s with pages := s.pages.filter (fun q => decide (q.tag ≠ tag)) } (p.port / 8)
    if p.reqs.isEmpty && p.chans.isEmpty then s.send (.host p.vf 3 [tag])
    else
      let good := ok && tePresent entry.toNat
      let s := s.setPort p.port ((s.port p.port).noMiss p.vf p.tid p.tile)
      let s := if good then
          match s.readDesc p.vf p.tid with
          | .ok d => (s.vfWrite p.vf (d.base + 8 * p.tile) (bytesOf 8 entry.toNat)).getD s
          | _ => s
        else s
      let s := p.reqs.foldl (fun s n =>
        match s.req n with
        | none => s
        | some r =>
          let s : State := { s with reqs := s.reqs.map (fun q => if q.id = n then { q with tag := none } else q) }
          if good then
            portAccess n ((s.cacheTile p.port p.vf p.tid p.tile entry.toNat).mapTask r.task (fun t => t.reissue n))
          else
            let out (l : List Landing) : List Landing := l.filter (fun x => decide (x.id ≠ n))
            ((s.dropReq n).performed r.task n).mapTask r.task (fun t =>
              { t with work := { t.work with land := out t.work.land }, snap := { t.snap with land := out t.snap.land },
                       land := out t.land, resumeAt := match t.resumeAt with | some a => some a | none => some (r.addr, r.col) })) s
      let s := p.chans.foldl (fun s c =>
        let x := fget Chan.zero s.chans c
        State.soon { s with chans := fset Chan.zero s.chans c { x with page := false, noPage := !good } } (.completionRecord c)) s
      let ks := (s.tasks.filter (fun t => t.pages.elem tag)).map Task.key
      ks.foldl (fun s k => (s.mapTask k (fun t => { t with pages := t.pages.filter (· ≠ tag) })).unpark k) s
/-- Firmware sets POISON in the tile-table entries of a VF that name a frame (11 R218). -/
def State.poisonEntries (s : State) (vf die frame : Nat) : State :=
  (List.range (s.vf vf).tdtCount).foldl (fun s tid =>
    match s.readDesc vf tid with
    | .ok d =>
      (List.range (d.nt 0 * d.nt 1 * d.nt 2 * d.nt 3)).foldl (fun s tile =>
        let a := d.base + 8 * tile
        match s.vfNum vf a 8 with
        | some e =>
          let hit := (List.range (2 ^ d.tsz)).any (fun k =>
            decide (s.segment vf (teAddr d e (4096 * k)) = some (die, frame * 4096)))
          if tePresent e && !tePoison e && hit then (s.vfWrite vf a (bytesOf 8 (e + 2 ^ 61))).getD s else s
        | none => s) s
    | _ => s) s
/-- An uncorrectable error is read from a frame (11 R218): listed by its home port, reported once; in the 256 MB
firmware region at the top of a die's HBM it is fatal (26 R429). -/
def hbmError (die frame : Nat) (s : State) : State :=
  let n := die * 8 + frame % 8
  let p := s.port n
  if p.poison.elem frame then s
  else
  let s := if 33488896 ≤ frame then s.soon (.fatalEvent die .firmwareRegion) else s
  if 4096 ≤ p.poison.length then
    (s.vfs.map (·.1)).foldl (fun s vf => s.poisonEntries vf die frame) ((s.tally 48 1).send (.host 0 4 [die, frame]))
  else (s.setPort n { p with poison := p.poison ++ [frame] }).send (.host 0 4 [die, frame])
/-- Loaded data reaches the column. -/
def landingDataArrival (k n : Nat) (s : State) : State :=
  match s.flight.find? (fun f => decide (f.task = k) && decide (f.id = n)) with
  | none => s
  | some f =>
    let s : State := { s with flight := s.flight.filter (fun f => !(decide (f.task = k) && decide (f.id = n))) }
    s.mapTask k (fun t => t.arrive n f.data f.trap)

def execTileTableMiss (s : State) : R := match s.ev with | .tileTableMiss n => .next (tileTableMiss n s) | _ => .next s
def execPageAnswer (s : State) : R :=
  match s.ev with | .pageAnswer tag ok e => .next (pageAnswer tag ok e s) | _ => .next s
def execUncorrectableHbmError (s : State) : R :=
  match s.ev with | .uncorrectableHbmError d f => .next (hbmError d f s) | _ => .next s
def execLandingDataArrival (s : State) : R :=
  match s.ev with | .landingDataArrival k n => .next (landingDataArrival k n s) | _ => .next s

end Sys2Proof.Machine
end

