-- ==== Sys2Proof/Machine/Bank.lean ====
section
/-!
DEFINITION. DM banks, bank arithmetic, the ticket dispenser and PUT (16 R280 to R292): the D-slot words of the bank
region, what each does at its home, and the events BANK_ACCESS, DISPENSER_ACCESS, PUT_ARRIVAL and
DM_UNCORRECTABLE_ERROR.
-/
namespace Sys2Proof.Machine

/-! Words. A returning word takes a landing at issue (16 R283). -/

/-- LREG, LOFF and OFFSET of a bank address word (16 Table 16.3). -/
def bankLreg (w : Word) : Nat := bits w.toNat 63 60
def bankLoff (w : Word) : Nat := max 8 (bits w.toNat 59 54)
def bankOff (w : Word) : Nat := bits w.toNat 27 0
/-- The size of a bank operation's size code. -/
def bankSize (z : BitVec 2) : Nat := if z.toNat = 0 then 8 else 4
/-- Form a bank record: its access takes its place in the task's order now (16 R284). -/
def State.bankRec (s : State) (g : Guard) (ins : Instr) (a : RegF) (b : Option RegF) (pair : Option RegF) (c : BitVec 4)
    (size : Nat) (ret : Bool) : R :=
  s.when g fun s =>
    let (x, s) := s.takeI a
    let (y, s) := match b with | some f => s.takeI f | none => (0, s)
    let e := match pair with | some f => s.bank.i (s.bank.physI f) | none => 0
    let (id, s) := s.fresh
    let s := if ret then s.landing id (bankLreg x) (bankLoff x) else s
    let off := bankOff x - bankOff x % size
    let s := s.access id c.toNat ret true (.dm s.fg.die) (s.dmAt s.fg.vf s.fg.die off) size []
    s.formRec ins .bank x y e id 0
/-- The register that number n + 1 with the same flag names (16 R283). -/
def pairField (b : RegF) : RegF := b + 1

def execBadd (g : Guard) (a b : RegF) (c : BitVec 4) (z : BitVec 2) (s : State) : R :=
  s.bankRec g (.badd g a b c z) a (some b) none c (bankSize z) false
def execBfadd (g : Guard) (a b : RegF) (c : BitVec 4) (fl : BitVec 2) (s : State) : R :=
  s.bankRec g (.bfadd g a b c fl) a (some b) none c (if fl.toNat = 0 then 4 else 2) false
def execBmin (g : Guard) (a b : RegF) (c : BitVec 4) (u : BitVec 1) (z : BitVec 2) (s : State) : R :=
  s.bankRec g (.bmin g a b c u z) a (some b) none c (bankSize z) false
def execBmax (g : Guard) (a b : RegF) (c : BitVec 4) (u : BitVec 1) (z : BitVec 2) (s : State) : R :=
  s.bankRec g (.bmax g a b c u z) a (some b) none c (bankSize z) false
def execBand (g : Guard) (a b : RegF) (c : BitVec 4) (z : BitVec 2) (s : State) : R :=
  s.bankRec g (.band g a b c z) a (some b) none c (bankSize z) false
def execBor (g : Guard) (a b : RegF) (c : BitVec 4) (z : BitVec 2) (s : State) : R :=
  s.bankRec g (.bor g a b c z) a (some b) none c (bankSize z) false
def execBxor (g : Guard) (a b : RegF) (c : BitVec 4) (z : BitVec 2) (s : State) : R :=
  s.bankRec g (.bxor g a b c z) a (some b) none c (bankSize z) false
def execBswp (g : Guard) (a b : RegF) (c : BitVec 4) (z : BitVec 2) (s : State) : R :=
  s.bankRec g (.bswp g a b c z) a (some b) none c (bankSize z) true
def execBcas (g : Guard) (a b : RegF) (c : BitVec 4) (z : BitVec 2) (s : State) : R :=
  s.bankRec g (.bcas g a b c z) a (some b) (some (pairField b)) c (bankSize z) true
def execBfaa (g : Guard) (a b : RegF) (c : BitVec 4) (z : BitVec 2) (s : State) : R :=
  s.bankRec g (.bfaa g a b c z) a (some b) none c (bankSize z) true
def execTktake (g : Guard) (a : RegF) (c : BitVec 4) (s : State) : R :=
  s.bankRec g (.tktake g a c) a none none c 8 true
def execTknext (g : Guard) (a : RegF) (c : BitVec 4) (r : BitVec 1) (s : State) : R :=
  s.bankRec g (.tknext g a c r) a none none c 8 false
/-- PUT's size. -/
def putSize (z : BitVec 2) : Nat := match z.toNat with | 0 => 8 | 1 => 4 | 2 => 2 | _ => 1
/-- The target task of a PUT: a task of the sender's launch by linear index. -/
def State.putTarget (s : State) (launch idx : Nat) : Option Task :=
  s.tasks.find? (fun t => decide (t.key ≠ 0) && decide (t.launch = launch) && decide (t.idx = idx))
/-- The home of the word that a PUT of the foreground task writes, and its memory number (02 R30): the DM of the target's
die, or the LS it stands in; for a target without LS, and for a PUT past the target's allocation, its die, with no word of it. -/
def State.putHome (s : State) (w size : Nat) : Home × Nat :=
  let off := bits w 27 0 - bits w 27 0 % size
  match s.putTarget s.fg.launch (bits w 59 28) with
  | none => (.dm s.fg.die, 2 ^ 62)
  | some t =>
    if bits w 63 63 = 1 then
      (.dm t.die, if vget 0 (s.vf s.fg.vf).dmSize t.die < off + size then 2 ^ 62 else s.dmAt s.fg.vf t.die off)
    else if t.hasLs ∧ bits w 27 22 = 0 ∧ off + size ≤ (s.launchOf s.fg).lsTiles * 4096 then (.ls (coreOf t.unit), lsNo (coreOf t.unit) (t.lsBase * 4096 + off))
    else (.dm t.die, 2 ^ 62)
def execPut (g : Guard) (a b : RegF) (c : BitVec 4) (z : BitVec 2) (s : State) : R :=
  s.when g fun s =>
    let (x, s) := s.takeI a
    let (y, s) := s.takeI b
    let (id, s) := s.fresh
    let h := s.putHome y.toNat (putSize z)
    let s := s.access id c.toNat false true h.1 h.2 (putSize z) (bytesOf (putSize z) x.toNat)
    s.formRec (.put g a b c z) .bank x y 0 id 0

/-! From the bank queue to the homes: records leave in the order of the whole queue (01 R16). -/

/-- The request a bank record becomes. -/
def bankReq (s : State) (r : Rec) : Req × Event :=
  let t := s.task r.task
  let mk (k : ReqKind) (addr size : Nat) : Req :=
    ⟨r.acc, r.task, t.vf, t.die, r.col, k, r.ins, addr, size, [], r.s2, r.pair, Ag.zero, 0, none⟩
  match r.ins with
  | .tktake .. => (mk .tkTake (bits r.s1.toNat 10 0) 8, .dispenserAccess r.acc)
  | .tknext _ _ _ x => (mk (.tkNext (x.getLsbD 0)) (bits r.s1.toNat 10 0) 8, .dispenserAccess r.acc)
  | .put _ _ _ _ z =>
    ({ mk .put r.s2.toNat (putSize z) with val := bytesOf (putSize z) r.s1.toNat }, .putArrival r.acc)
  | .bfadd _ _ _ _ fl => (mk .bank (bankOff r.s1) (if fl.toNat = 0 then 4 else 2), .bankAccess r.acc)
  | .badd _ _ _ _ z | .band _ _ _ _ z | .bor _ _ _ _ z | .bxor _ _ _ _ z | .bswp _ _ _ _ z | .bcas _ _ _ _ z
  | .bfaa _ _ _ _ z | .bmin _ _ _ _ _ z | .bmax _ _ _ _ _ z => (mk .bank (bankOff r.s1) (bankSize z), .bankAccess r.acc)
  | _ => (mk .bank (bankOff r.s1) 8, .bankAccess r.acc)
/-- The bank queue sends every record on its way; what waits in the slip window enters it (01 R16). -/
def State.drainBank (s : State) (u : Nat) : State :=
  let rs := (s.unit u).qBank
  let s := rs.foldl (fun s r => let (q, e) := bankReq s r; s.ask q e) (s.mapUnit u (fun x => { x with qBank := [] }))
  if rs.isEmpty then s else s.soon (.commandRecordEntry u .bank)

/-! At the bank (16 R281, R283). -/

/-- The sum of two values of a float format, rounded once (05 R93). -/
def bfSum (f : FFmt) (x y : Nat) : Nat := f.round .rne .ieee (Fp.add (f.decode x) (f.decode y))
/-- new(old, v) of 16 Table 16.4, as a number below 2^(8·size). -/
def bankNew (ins : Instr) (size old v e : Nat) : Nat :=
  let m := 2 ^ (8 * size)
  let v := v % m
  let less (u : Bool) (x y : Nat) : Bool := if u then decide (x < y) else decide (sext (8 * size) x < sext (8 * size) y)
  match ins with
  | .badd .. | .bfaa .. => (old + v) % m
  | .bfadd _ _ _ _ fl => match fl.toNat with | 0 => bfSum fp32 old v | 1 => bfSum bf16 old v | _ => bfSum fp16 old v
  | .bmin _ _ _ _ u _ => if less (u.getLsbD 0) v old then v else old
  | .bmax _ _ _ _ u _ => if less (u.getLsbD 0) old v then v else old
  | .band .. => old &&& v
  | .bor .. => old ||| v
  | .bxor .. => old ^^^ v
  | .bswp .. => v
  | .bcas .. => if old = e % m then v else old
  | _ => old
/-- Whether a bank word returns the old value. -/
def bankReturns : Instr → Bool
  | .bswp .. | .bcas .. | .bfaa .. => true
  | _ => false
/-- A request that ends: gone, performed, with its landing's value if it has one. -/
def State.endReq (s : State) (r : Req) (ret : Option (VWord × Option Nat)) : State :=
  let s := (s.dropReq r.id).performed r.task r.id
  match ret with
  | some (d, trap) => s.fly r.task r.id d trap
  | none => s
/-- One access at its bank. A load of 64 or 128 bytes, which the spec does not make atomic, reads all its words in one
step (DESIGN CHOICE, log 7). -/
def bankAccess (n : Nat) (s : State) : State :=
  match s.req n with
  | none => s
  | some r =>
    match (s.task r.task).may n, r.kind with
    | .no, _ => s.soon (.bankAccess n)
    | .path bs, .dmLoad =>
      if s.dmPoisoned r.addr r.size then s.soon (.bankAccess n) else s.endReq r (some (landVal bs, none))
    | _, .dmLoad =>
      if s.dmPoisoned r.addr r.size then s.endReq r (some (0, some Cause.poison))
      else s.endReq r (some (landVal (s.bytes r.addr r.size), none))
    | .path _, _ => s.soon (.bankAccess n)
    | .home, .dmStore => (s.dmWrite r.die r.addr r.val).endReq r none
    | .home, .bank =>
      let off := r.addr - r.addr % r.size
      let ret (d : VWord) : Option (VWord × Option Nat) := if bankReturns r.ins then some (d, none) else none
      if vget 0 (s.vf r.vf).dmSize r.die < off + r.size then
        (((s.report r.vf 1 [r.task]).raise r.task Cause.segmentFault r.col).endReq r (ret 0))
      else
        let a := s.dmAt r.vf r.die off
        if s.dmPoisoned a r.size then (s.raise r.task Cause.poison r.col).endReq r (ret 0)
        else
          let old := s.num a r.size
          (s.dmWrite r.die a (bytesOf r.size (bankNew r.ins r.size old r.v.toNat r.e.toNat))).endReq r
            (ret (BitVec.ofNat 1024 old))
    | _, _ => s
/-- An uncorrectable error poisons a DM line, by its number in the die (bits 26:6 of the physical address), and is
reported once (16 R281). -/
def dmError (die line : Nat) (s : State) : State :=
  let k := dmNo die (64 * (line % 2097152)) / 64
  if fget false s.dmPois k then s
  else State.send { s.tally (36 + die) 1 with dmPois := fset false s.dmPois k true } (.host 0 5 [die, line])

/-! Tickets (16 R287 to R289). -/

/-- A counter by die and number. -/
def State.ticket (s : State) (die n : Nat) : Ticket := fget Ticket.zero s.tickets (die * 2048 + n)
def State.setTicket (s : State) (die n : Nat) (x : Ticket) : State :=
  { s with tickets := fset Ticket.zero s.tickets (die * 2048 + n) x }
/-- A ticket is reached (16 R287). -/
def Ticket.reached (x : Ticket) (t : Nat) : Bool :=
  let d := (t + 4294967296 - x.serving) % 4294967296
  decide (d = 0) || decide (2147483648 ≤ d)
/-- The taker of the ticket being served. -/
def Ticket.taker (x : Ticket) : Option Nat := (x.takers.find? (fun p => decide (p.1 = x.serving))).map (·.2)
/-- Sleepers of a counter: a reset aborts all, else the reached ones complete (16 R289, R290). -/
def State.wakeTickets (s : State) (die n : Nat) (abort : Bool) : State :=
  let x := s.ticket die n
  s.tasks.foldl (fun s t => match t.sleep with
    | some sl => match sl.obj with
      | .ticket d m =>
        if d = die ∧ m = n then
          (if abort then s.endSleep t.key 2
           else if x.reached (sl.val.toNat % 4294967296) then s.endSleep t.key 0 else s)
        else s
      | _ => s
    | none => s) s
/-- The holder edge of a counter moves to the taker of SERVING while a task waits on the counter or holds an edge to it
(16 R290). Into a full table no edge goes (DESIGN CHOICE, log 32: the spec gives an advance of SERVING no outcome there). -/
def State.moveHolder (s : State) (vf die n : Nat) : State :=
  let w := objWord 2 die n
  let l := s.claspOf die
  if l.any (fun e => decide (e.sort ≠ .obj) && decide (e.obj = w) && decide (e.vf = vf)) then
    let l' := l.filter (fun e => !(decide (e.sort = .hold) && decide (e.obj = w) && decide (e.vf = vf)))
    let l' := match (s.ticket die n).taker with
      | some h => if l'.length < 1024 then l' ++ [⟨.hold, w, vf, h⟩] else l'
      | none => l'
    (s.setClasp die l').inheritAll
  else s
/-- One access at the dispenser. TKNEXT waits for every earlier access of its task (02 R40). -/
def dispenserAccess (n : Nat) (s : State) : State :=
  match s.req n with
  | none => s
  | some r =>
    let v := s.vf r.vf
    let ret : Option (VWord × Option Nat) := if r.kind = .tkTake then some (0, none) else none
    if v.tkCount ≤ r.addr then (s.raise r.task Cause.segmentFault r.col).endReq r ret
    else
      let k := v.tkBase + r.addr
      let x := s.ticket r.die k
      match r.kind with
      | .tkTake =>
        match (s.task r.task).may n with
        | .home =>
          let s := s.setTicket r.die k
            { x with next := (x.next + 1) % 4294967296, takers := (x.takers ++ [(x.next, r.task)]).reverse.take 64 |>.reverse }
          s.endReq r (some (BitVec.ofNat 1024 x.next, none))
        | _ => s.soon (.dispenserAccess n)
      | .tkNext rst =>
        if !(before (s.task r.task).accs n).isEmpty then s.soon (.dispenserAccess n)
        else
          let s := s.setTicket r.die k (if rst then Ticket.zero else { x with serving := (x.serving + 1) % 4294967296 })
          (((s.endReq r none).moveHolder r.vf r.die k).wakeTickets r.die k rst)
      | _ => s

/-! PUT (16 R292). -/

/-- A PUT reaches its target's die. -/
def putArrival (n : Nat) (s : State) : State :=
  match s.req n with
  | none => s
  | some r =>
    match (s.task r.task).may n with
    | .home =>
      let w := r.addr
      let idx := bits w 59 28
      let size := r.size
      let off := bits w 27 0 - bits w 27 0 % size
      let bad (c : Nat) : State := (s.raise r.task c r.col).endReq r none
      let l := s.launchOf (s.task r.task)
      if (l.xm + 1) * (l.ym + 1) * (l.zm + 1) ≤ idx then bad Cause.segmentFault
      else match s.putTarget (s.task r.task).launch idx with
        | none => s.endReq r none
        | some t =>
          if bits w 63 63 = 1 then
            if vget 0 (s.vf r.vf).dmSize t.die < off + size then bad Cause.segmentFault
            else (s.dmWrite t.die (s.dmAt r.vf t.die off) r.val).endReq r none
          else if bits w 27 22 ≠ 0 ∨ l.lsTiles * 4096 < off + size then bad Cause.segmentFault
          else match t.state with
            | .pending | .evicted =>
              let s : State := { (s.dropReq n) with heldPuts := s.heldPuts ++ [r] }
              s.schedule t.die
            | .retired | .killed | .never => s.endReq r none
            | _ => match s.putLs t off r.val with
              | some s => s.endReq r none
              | none => bad Cause.owner
    | _ => s.soon (.putArrival n)
def execBankAccess (s : State) : R := match s.ev with | .bankAccess n => .next (bankAccess n s) | _ => .next s
def execDmUncorrectableError (s : State) : R :=
  match s.ev with | .dmUncorrectableError d l => .next (dmError d l s) | _ => .next s
def execDispenserAccess (s : State) : R :=
  match s.ev with | .dispenserAccess n => .next (dispenserAccess n s) | _ => .next s
def execPutArrival (s : State) : R := match s.ev with | .putArrival n => .next (putArrival n s) | _ => .next s

end Sys2Proof.Machine
end

