-- ==== Sys2Proof/Machine/CopyEngine.lean ====
section
/-!
DEFINITION. What a copy channel does with a transfer entry (10 R189 to R196): the elements of its ends, conversion,
poison, and the outcomes of Table 10.8.
-/
namespace Sys2Proof.Machine

/-- Why an element has no place: malformed entry, refused (cause, firmware event), page absent (tensor, tile), port without room for
the miss. -/
inductive LocErr where
  | malformed
  | fault (cause : Nat) (event : Bool)
  | page (tid tile : Nat)
  | busy
  deriving DecidableEq, Repr

/-- One element of an end, or why it has none. -/
abbrev LocR := Except LocErr Loc

/-! Bits of memory. -/

/-- A byte under a key. -/
def State.keyByte (s : State) (key a : Nat) : Byte := if key = 0 then s.byte a else s.hbmByte key a
def State.keyBytes (s : State) (key a : Nat) : Nat → List Byte
  | 0 => []
  | n + 1 => s.keyByte key a :: s.keyBytes key (a + 1) n
def State.setKeyBytes (s : State) (key a : Nat) (bs : List Byte) : State :=
  if key = 0 then s.setBytes a bs else s.setHbmBytes key a bs
/-- The code of an element. -/
def State.elemAt (s : State) (l : Loc) : Nat :=
  let n := elemBits l.fmt
  ofBytes (s.keyBytes l.key l.a ((l.bit + n + 7) / 8)) / 2 ^ l.bit % 2 ^ n
/-- Write the code of an element, its neighbours' bits kept. -/
def State.setElem (s : State) (l : Loc) (code : Nat) : State :=
  let n := elemBits l.fmt
  let k := (l.bit + n + 7) / 8
  let old := ofBytes (s.keyBytes l.key l.a k)
  let new := old - old / 2 ^ l.bit % 2 ^ n * 2 ^ l.bit + code % 2 ^ n * 2 ^ l.bit
  s.setKeyBytes l.key l.a (bytesOf k new)

/-! Ends. -/

/-- The owner byte of an agent's tile (01 Table 01.5). -/
def ownerByte (agent chan unit : Nat) : BitVec 8 := BitVec.ofNat 8 (128 + agent % 8 * 16 + chan % 4 * 4 + unit % 4)
/-- The format of a physical tile under sampled BANK_FMT registers (05 R100, R101). -/
def tileFmt (fmts : Vector Lane 8) (tile : Nat) : Nat := (vget 0 fmts (tile / 128)).toNat % 16

/-- The elements of an LS end, up to n: tile k of the run is `tiles k`, as a tile of the allocation, and at most `lim`
tiles; formats follow the banks tile by tile unless bytes move raw (10 R190). After a malformed element or the end of
the allocation the list stops with that error. -/
def State.lsLocs (s : State) (t : Task) (fmts : Vector Lane 8) (agent chan : Nat) (tiles : Nat → Nat) (lim : Nat)
    (raw : Bool) : Nat → Nat → Nat → List LocR
  | 0, _, _ => []
  | n + 1, k, pos =>
    let core := coreOf t.unit
    let vt := tiles k
    let phys := t.lsBase + vt
    if lim ≤ k then [.error .malformed]
    else if t.lsSize ≤ vt then [.error (.fault Cause.owner false)]
    else
      let fmt := if raw then 8 else tileFmt fmts phys
      let base := lsNo core (phys * 4096)
      let mine := decide (s.owner core phys = ownerByte agent chan (t.unit % 4))
      let ans (l : Loc) : LocR := if mine then .ok l else .error (.fault Cause.owner false)
      if isMx fmt then
        let b := pos / 32
        let blk := base + mxElemBytes fmt * b
        let bitpos := pos % 32 * elemBits fmt
        ans ⟨blk + bitpos / 8, bitpos % 8, fmt, blk, base + mxScaleOff fmt + b, 0, false⟩
          :: (if pos + 1 = 32 * mxBlocks fmt then s.lsLocs t fmts agent chan tiles lim raw n (k + 1) 0
              else s.lsLocs t fmts agent chan tiles lim raw n k (pos + 1))
      else
        let w := elemBits fmt
        if 32768 < pos + w then [.error .malformed]
        else
          ans ⟨base + pos / 8, pos % 8, fmt, 0, 0, 0, false⟩
            :: (if pos + w = 32768 then s.lsLocs t fmts agent chan tiles lim raw n (k + 1) 0
                else s.lsLocs t fmts agent chan tiles lim raw n k (pos + w))
/-- Element n of an end's list; past its last entry, that entry. -/
def locAt (l : List LocR) (n : Nat) : LocR := (l[n]?).getD (l.getLastD (.error .malformed))
/-- One element of a DM end. -/
def State.dmLoc (s : State) (t : Task) (off fmt n : Nat) : LocR :=
  let p := 8 * off + n * elemBits fmt
  if t.dmSize < (p + elemBits fmt + 7) / 8 then .error (.fault Cause.segmentFault true)
  else .ok ⟨s.dmAt t.vf t.die (p / 8), p % 8, fmt, 0, 0, 0, false⟩
/-- Coordinates of a tensor element. -/
def coord4 (c0 c1 c2 c3 : Nat) (k : Nat) : Nat := match k with | 0 => c0 | 1 => c1 | 2 => c2 | _ => c3
/-- One element of a tensor end (11 R209), the entry from the port's cache or from memory. -/
def State.tnLoc (s : State) (t : Task) (tid c0 c1 c2 c3 : Nat) (write : Bool) : LocR :=
  let c := coord4 c0 c1 c2 c3
  match s.descriptor t.die t.vf tid c with
  | .unknown | .refused => .error (.fault Cause.segmentFault false)
  | .segment => .error (.fault Cause.segmentFault true)
  | .ok d =>
    if !d.inside c then .error (.fault Cause.segmentFault false)
    else
      let tile := d.tileNo c
      let port := portOf t.die tile
      if (s.cached port t.vf tid tile).isNone && s.missFull port t.vf tid tile then .error .busy
      else match s.entryOf t.die t.vf tid d tile with
      | none => .error (.fault Cause.segmentFault true)
      | some e =>
        if !tePresent e then .error (.page tid tile)
        else if write && !teWritable e then .error (.fault Cause.segmentFault false)
        else
          let p := elemBitAt d.fmt (d.elemNo c)
          let b := d.elemNo c / 32
          let part := b / mxBlocks d.fmt
          let blk := 4096 * part + mxElemBytes d.fmt * (b % mxBlocks d.fmt)
          let sc := 4096 * part + mxScaleOff d.fmt + b % mxBlocks d.fmt
          match s.segment t.vf (teAddr d e (p / 8)), s.segment t.vf (teAddr d e (if isMx d.fmt then sc else p / 8)) with
          | some (hd, pa), some (sd, sp) =>
            let first := if isMx d.fmt then hbmNo hd (pa - (p / 8 - blk)) else 0
            .ok ⟨hbmNo hd pa, p % 8, d.fmt, first, if isMx d.fmt then hbmNo sd sp else 0, s.keyNo t.vf,
              tePoison e || s.frameListed hd pa || (isMx d.fmt && s.frameListed sd sp)⟩
          | _, _ => .error (.fault Cause.segmentFault true)
/-- The place of an element as an entry names it. -/
def State.spotLoc (s : State) (t : Task) (p : Spot) (write : Bool) : LocR :=
  match p with
  | .tn tid c0 c1 c2 c3 => s.tnLoc t tid c0 c1 c2 c3 write
  | .at l => .ok l
/-- What an access of a tensor element does at its port (11 R207, R212): descriptor and entry are cached, and the first
write sets DIRTY. -/
def State.touch (s : State) (t : Task) (p : Spot) (write : Bool) : State :=
  match p with
  | .tn tid c0 c1 c2 c3 =>
    let c := coord4 c0 c1 c2 c3
    match s.descriptor t.die t.vf tid c with
    | .ok d =>
      let tile := d.tileNo c
      let port := portOf t.die tile
      match s.entryOf t.die t.vf tid d tile with
      | some e =>
        let s := (s.cacheDesc port d).cacheTile port t.vf tid tile e
        if write then s.dirty port t.vf tid tile d e else s
      | none => s
    | _ => s
  | .at _ => s

/-! Poison (10 R194). -/

/-- The element's bytes, or its block's scale, are poisoned. -/
def State.locPoisoned (s : State) (l : Loc) : Bool :=
  if l.key ≠ 0 then l.pois
  else if lsNo 0 0 ≤ l.a ∧ l.a < imemNo 0 0 0 then fget false s.lsPois ((l.a - lsNo 0 0) / 4096)
  else fget false s.dmPois (l.a / 64)
/-- Mark where poison came: a tile, a DM line, or the tile-table entry of a frame. -/
def State.markPoison (s : State) (t : Task) (p : Spot) (l : Loc) : State :=
  match p with
  | .tn tid c0 c1 c2 c3 =>
    let c := coord4 c0 c1 c2 c3
    match s.descriptor t.die t.vf tid c with
    | .ok d =>
      let tile := d.tileNo c
      let te := d.base + 8 * tile
      let s := match s.vfNum t.vf te 8 with
        | some e => if tePoison e then s else (s.vfWrite t.vf te (bytesOf 8 (e + 2 ^ 61))).getD s
        | none => s
      match s.cached (portOf t.die tile) t.vf tid tile with
      | some e => if tePoison e then s else s.cacheTile (portOf t.die tile) t.vf tid tile (e + 2 ^ 61)
      | none => s
    | _ => s
  | .at _ =>
    if lsNo 0 0 ≤ l.a ∧ l.a < imemNo 0 0 0 then { s with lsPois := fset false s.lsPois ((l.a - lsNo 0 0) / 4096) true }
    else { s with dmPois := fset false s.dmPois (l.a / 64) true }
/-- The tile or line of a byte of LS or DM: its number as in `Run.clean`, its first byte, its size in bits. -/
def cellAt (a : Nat) : Nat × Nat × Nat :=
  if lsNo 0 0 ≤ a then (2 * ((a - lsNo 0 0) / 4096), lsNo 0 0 + (a - lsNo 0 0) / 4096 * 4096, 32768)
  else (2 * (a / 64) + 1, a / 64 * 64, 512)
/-- A run has written n bits of LS or DM from a bit of a byte on, from poisoned sources or not: the tile or line whose
every bit it has written from unpoisoned ones is no longer poisoned. -/
def State.wrote (s : State) (clean : FMap Nat) (a bit n : Nat) (pois : Bool) : State × FMap Nat :=
  let (c, base, size) := cellAt a
  let mask := (2 ^ n - 1) * 2 ^ (8 * (a - base) + bit)
  let old := fget 0 clean c
  let new := if pois then old ^^^ (old &&& mask) else old ||| mask
  if new = 2 ^ size - 1 then
    (if c % 2 = 0 then { s with lsPois := fset false s.lsPois (c / 2) false } else { s with dmPois := fset false s.dmPois (c / 2) false },
      fset 0 clean c 0)
  else (s, fset 0 clean c new)

/-! Reading and writing elements. -/

/-- Two elements lie in one aligned 8-byte word, or in one MX block. -/
def Loc.together (x y : Loc) : Bool :=
  decide (x.key = y.key) && decide (isMx x.fmt = isMx y.fmt) &&
    (if isMx x.fmt then decide (x.blk = y.blk) else decide (x.a / 8 = y.a / 8))
/-- The places of the first elements that lie together with the first one (16 R281). -/
def okRun (l : Loc) : List LocR → List Loc
  | .ok x :: r => if l.together x then x :: okRun l r else []
  | _ => []
/-- What one step of a channel takes of a list of elements: their places, or why the first has none. A word holds at most
64 elements. -/
def State.runAt (s : State) (t : Task) (write : Bool) : List Spot → Except LocErr (List Loc)
  | [] => .ok []
  | p :: r => match s.spotLoc t p write with
    | .error e => .error e
    | .ok l => .ok (l :: okRun l ((r.take 64).map (fun q => s.spotLoc t q write)))
/-- An element that a step has read. -/
def State.gotOf (s : State) (x : Item) (l : Loc) : Got :=
  ⟨l.fmt, s.elemAt l, if isMx l.fmt then (s.keyByte l.key l.scale).toNat else 0, s.locPoisoned l, x.dst, x.eor⟩
/-- The exact value of an element read, its MX scale applied, and whether it is the bad tern code. -/
def Got.value (x : Got) : Fp × Bool :=
  if isMx x.fmt then ((mxDecode x.fmt x.scale [x.code]).headD .nan, false) else elemValue x.fmt x.code

/-- What writing elements leaves: the state, the bits written clean, bits written, poison seen, NaN met, bad tern read. -/
structure Moved where
  s     : State
  clean : FMap Nat
  cnt   : Nat
  pois  : Bool
  nan   : Bool
  tern  : Bool
/-- The codes that a group writes, with the scale of an MX block, and whether a NaN was met or the bad tern code read:
bits unchanged of each element whose format is the target's or where bytes move raw, else the element converted, an MX destination
block by block (05 R95, R98, R101, 10 R190). A group is what one step takes. Where it covers an MX block only in part, or the blocks of two MX ends are not aligned to
one another, the elements present are encoded alone and the block's scale is theirs, or that of the first source element
(DESIGN CHOICE, log 26: the spec gives a block's scale only for whole blocks). -/
def groupCodes (raw : Bool) (fmt : Nat) (g : List Got) : List Nat × Nat × Bool × Bool :=
  if raw || g.all (fun x => decide (x.fmt = fmt)) then (g.map (·.code), (g.map (·.scale)).headD 0, false, false)
  else
    if isMx fmt then
      let vs := g.map Got.value
      let (sc, cs, nan) := mxEncode fmt (vs.map (·.1))
      (cs, sc, nan, vs.any (·.2))
    else
      let cs := g.map (fun x => if x.fmt = fmt then (x.code, false) else elemCode fmt .rne false x.value.1)
      (cs.map (·.1), 0, cs.any (·.2), g.any (fun x => decide (x.fmt ≠ fmt) && x.value.2))
/-- One step of a channel writes a group: the elements of one aligned word, or of one MX block. Each tile's entry is used, also where
two entries name one frame (11 R212); the monitors of every DM word that the bytes reach wake (16 R285). -/
def State.writeGroup (s : State) (t : Task) (raw : Bool) (clean : FMap Nat) (g : List (Got × Loc)) : Moved :=
  match g with
  | [] => ⟨s, clean, 0, false, false, false⟩
  | (x, l) :: _ =>
    let s := g.foldl (fun s e => s.touch t e.1.dst true) s
    let mx := isMx l.fmt && !raw
    let (cs, sc, nan, tern) := groupCodes raw l.fmt (g.map (·.1))
    let s := (List.zip (g.map (·.2)) cs).foldl (fun s p => s.setElem p.1 p.2) s
    let s := if mx then s.setKeyBytes l.key l.scale [BitVec.ofNat 8 sc] else s
    let bad (y : Got) : Bool := if mx then g.any (·.1.pois) else y.pois
    let s := g.foldl (fun s e => if bad e.1 then s.markPoison t e.1.dst e.2 else s) s
    let (s, clean) := if l.key ≠ 0 then (s, clean) else
      let (s, clean) := g.foldl (fun (m : State × FMap Nat) e => m.1.wrote m.2 e.2.a e.2.bit (elemBits l.fmt) (bad e.1)) (s, clean)
      if mx then s.wrote clean l.scale 0 8 (bad x) else (s, clean)
    let top := g.foldl (fun n e => max n (e.2.a + (e.2.bit + elemBits e.2.fmt + 7) / 8)) (l.a / 8 * 8 + 8)
    let s := if l.key = 0 ∧ l.a < lsNo 0 0 then
        (s.wakeMonitors t.die (l.a / 8 * 8) (top - l.a / 8 * 8)).grantFreed t.die (l.a / 8 * 8) (top - l.a / 8 * 8) else s
    ⟨s, clean, g.length * elemBits l.fmt + (if mx then 8 else 0), g.any (·.1.pois), nan, tern⟩

end Sys2Proof.Machine
end

