-- ==== Sys2Proof/Machine/FnStage.lean ====
section
/-!
DEFINITION. The function stage (14 R260 to R269): table lookup, microprograms, and the F-slot words FN, FNP, FRCP and
FRSQ.
-/
namespace Sys2Proof.Machine

/-! Tables (14 R261 to R263). -/

/-- A table as an evaluation reads it: its entries' source (a default table or an LS tile by memory number), LO, WEXP,
EDGE. -/
structure FnTable where
  rom  : Bool
  src  : Nat
  lo   : Lane
  wexp : Int
  edge : Bool
/-- The table that slot n of a column's bank holds. -/
def fnTable (t : Task) (b : ColBank) (n : Nat) : FnTable :=
  match vget none b.ft n with
  | none => ⟨true, n, defaultLo n, defaultWexp n, false⟩
  | some f => ⟨false, lsNo (coreOf t.unit) ((t.lsBase + f.tile) * 4096), f.lo, sext 8 (f.hdr.toNat % 256), f.hdr.getLsbD 8⟩
/-- Coefficient k of segment idx. -/
def State.fnCoef (s : State) (x : FnTable) (idx k : Nat) : Lane :=
  if x.rom then defaultCoef x.src idx k else BitVec.ofNat 32 (s.num (x.src + 12 * idx + 4 * k) 4)
/-- t at or above 0 and below 2^k. -/
def inRange (t : Fp) (k : Int) : Bool :=
  (decide (Fp.cmp t (.fin false 0 0) = some .gt) || decide (Fp.cmp t (.fin false 0 0) = some .eq)) &&
    decide (Fp.cmp t (.fin false 1 k) = some .lt)
/-- LOOKUP of 14 R262; x is no NaN. Where LO and WEXP are 0 the difference is not rounded, so that an XSPLIT fraction, which
may be no fp32 number, is looked up exactly as 05 R104 does (DEDUCED, log 27). -/
def State.lookup (s : State) (f : FnTable) (x : Fp) : Lane :=
  let zero : Fp := .fin false 0 0
  let d := Fp.add x (Fp.neg (f32 f.lo))
  let t : Fp := if Fp.cmp (f32 f.lo) zero = some .eq ∧ f.wexp = 0 then d else f32 (rne32 d)
  let neg := decide (Fp.cmp t zero = some .lt)
  let w := f.wexp - 8
  let (idx, r) : Nat × Fp :=
    if inRange t f.wexp then
      match t with
      | .fin _ m e =>
        let idx := (floorSplit false m (e - w)).1.toNat % 256
        (idx, Fp.add t (.fin true idx w))
      | _ => (0, zero)
    else if !f.edge then (if neg then (0, zero) else (255, .fin false 1 w))
    else if neg then (0, t)
    else (255, f32 (rne32 (Fp.add t (.fin true 255 w))))
  segEval (s.fnCoef f idx 0) (s.fnCoef f idx 1) (s.fnCoef f idx 2) r

/-! Programs (14 R264 to R266). -/

/-- A step word from its parts. -/
def stepWord (op d a b : Nat) : Lane := BitVec.ofNat 32 (op * 33554432 + d * 16384 + a * 128 + b)
/-- The default program of slot n (14 Table 14.3), RES w0; slots 5 to 15 hold an invalid one. -/
def defaultProgram (n : Nat) : List Lane :=
  let prog (mode scale : Nat) : List Lane :=
    [0x80000002, stepWord 0x59 1 0 mode, stepWord 0x58 1 1 n, stepWord 0x5A 0 1 scale]
  match n with
  | 0 => prog 0 0
  | 1 => prog 1 1
  | 2 => prog 1 3
  | 3 => prog 1 2
  | 4 => [0x80000000, stepWord 0x58 0 0 4]
  | _ => []
/-- The image in slot n of a bank, as words. -/
def fnImage (b : ColBank) (n : Nat) : List Lane :=
  match vget [] b.fm n with
  | [] => defaultProgram n
  | l => l
/-- The work of one lane: w0 to w7, E, S, and whether a poisoned tile was read. -/
structure FnLane where
  w    : Vector Fp 8
  e    : Fp
  sg   : Bool
  pois : Bool
/-- An integer value, between −2000 and 2000: farther exponents give the same results. -/
def expOf : Fp → Int
  | .fin n m e => let v : Int := (floorSplit n m e).1; min (max v (-2000)) 2000
  | _ => 0
/-- XSPLIT: reduced argument, E, S (14 Table 14.6). -/
def xsplit (mant : Bool) (x : Fp) : Fp × Fp × Bool :=
  match x with
  | .nan => (.nan, .nan, false)
  | .inf n => if mant then (.fin false 1 0, .inf false, n) else (.fin false 0 0, .inf n, false)
  | .fin n m e =>
    if mant then
      if m = 0 then (.fin false 1 0, .inf true, n)
      else
        let k : Int := Nat.log2 m
        (.fin false m (-k), Fp.ofInt (e + k), n)
    else
      let (i, rest, er) := floorSplit n m e
      (.fin false rest er, Fp.ofInt i, false)
/-- SCALE: a rebuilt with E and S (14 Table 14.6). -/
def scaleFn (mode : Nat) (a e : Fp) (sg : Bool) : Lane :=
  if a.isNan || e.isNan then nan32
  else
    let signed (x : Lane) : Lane := if sg then (if (f32 x).isNan then x else x ^^^ 0x80000000) else x
    match mode, e with
    | 0, .inf n => if n then 0 else pinf32
    | 0, _ => rne32 (Fp.scale2 (expOf e) a)
    | 1, .inf n => signed (if n then pinf32 else 0)
    | 1, _ => signed (rne32 (Fp.scale2 (-expOf e) a))
    | 2, .inf n => if n then ninf32 else if sg then nan32 else pinf32
    | 2, _ => if sg then nan32 else rne32 (Fp.add a e)
    | _, .inf n => if n then signed pinf32 else if sg then nan32 else 0
    | _, _ =>
      if sg then nan32
      else
        let k := expOf e
        let c : Lane := if k % 2 = 0 then 0x3F800000 else 0x3F3504F3
        rne32 (Fp.scale2 (-(k / 2)) (f32 (rne32 (Fp.mul a (f32 c)))))
/-- One step on one lane. -/
def State.fnStep (s : State) (t : Task) (b : ColBank) (image : List Lane) (l : FnLane) (w : Lane) : FnLane :=
  let f := w.toNat
  let opd (n : Nat) : Fp := if n % 16 < 8 then vget .nan l.w (n % 16) else f32 (lget 0 image (17 + (n % 16 - 8)))
  let d := bits f 20 14 % 8
  let a := opd (bits f 13 7)
  let bn := bits f 6 0
  let put (x : Fp) : FnLane := { l with w := vset l.w d x }
  let rn (x : Fp) : FnLane := put (f32 (rne32 x))
  match bits f 31 25 with
  | 0x01 => rn (Fp.add a (opd bn))
  | 0x03 => rn (Fp.mul a (opd bn))
  | 0x04 => rn (Fp.add (Fp.mul a (opd bn)) (vget .nan l.w d))
  | 0x58 =>
    if a.isNan then put .nan
    else
      let tab := fnTable t b (bn % 16)
      let l' := put (f32 (s.lookup tab a))
      let p := !tab.rom && fget false s.lsPois ((tab.src - lsNo 0 0) / 4096)
      { l' with pois := l.pois || p }
  | 0x59 => let (x, e, sg) := xsplit (decide (bn % 2 = 1)) a; { put x with e := e, sg := sg }
  | _ => put (f32 (scaleFn (bn % 4) a l.e l.sg))
/-- A program on one lane: the result and whether a poisoned tile was read (14 R266). -/
def State.fnRun (s : State) (t : Task) (b : ColBank) (n : Nat) (x p : Lane) : Lane × Bool :=
  let image := fnImage b n
  let hdr := (image.headD 0).toNat
  if hdr < 2147483648 then (nan32, false)
  else
    let steps := (image.drop 1).take (bits hdr 3 0 + 1)
    let z : Fp := .fin false 0 0
    let start : FnLane := ⟨#v[f32 x, f32 p, z, z, z, z, z, z], z, false, false⟩
    let l := steps.foldl (fun l w => s.fnStep t b image l w) start
    (rne32 (vget .nan l.w (bits hdr 6 4)), l.pois)
/-- FN and FNP: one program on every lane at latency 8; poison writes +0 and traps at the result bundle (14 R267). -/
def State.fnWord (s : State) (g : Guard) (d a : RegF) (n : BitVec 4) (par : Bool) : R :=
  s.when g fun s =>
    let b := s.bank
    let x := lanes (b.v (b.physV a))
    let p := if par then lanes (b.v (b.physV d)) else x.map (fun _ => 0)
    let rs := List.zipWith (s.fnRun s.fg b n.toNat) x p
    if rs.any (·.2) then (s.putV d 8 0).post 8 (.trap Cause.poison)
    else s.putV d 8 (ofLanes (rs.map (·.1)))
def execFn (g : Guard) (d a : RegF) (n : BitVec 4) (s : State) : R := s.fnWord g d a n false
def execFnp (g : Guard) (d a : RegF) (n : BitVec 4) (s : State) : R := s.fnWord g d a n true
def execFrcp (g : Guard) (d a : RegF) (s : State) : R := s.vec1 g d a 10 (map1 frcp)
def execFrsq (g : Guard) (d a : RegF) (s : State) : R := s.vec1 g d a 10 (map1 frsq)

/-- The binding of a `.ftable`'s slot at a task's start, in an allocation of n tiles (14 R263). -/
def tableBind (n : Nat) (e : Nat × List Byte) : FtBind :=
  ⟨n - 1 - e.1, BitVec.ofNat 32 (ofBytes ((e.2.drop 3072).take 4)), BitVec.ofNat 32 (ofBytes ((e.2.drop 3076).take 4))⟩
/-- What a table slot holds at a task's start: a `.ftable`'s tile, or the default table (14 R263). -/
def startTable (o : CodeObj) (lsSize n : Nat) : Option FtBind := (o.ftables.find? (fun e => decide (e.1 = n))).map (tableBind lsSize)
/-- A tile leaves the function stage: every slot bound to it takes its start content, or the default table where that was
this same tile (14 R267; log 27). -/
def ColBank.rebind (b : ColBank) (start : Nat → Option FtBind) (tile : Nat) : ColBank :=
  { b with ft := Vector.ofFn (fun i => match b.ft[i] with
      | some x => if x.tile ≠ tile then some x else match start i.val with
        | some y => if y.tile = tile then none else some y
        | none => none
      | none => none) }
/-- The same in both task banks of a unit, for a physical tile of its core. -/
def State.rebindTile (s : State) (u tile : Nat) : State :=
  [(s.unit u).prim, (s.unit u).sec].foldl (fun s k =>
    let t := s.task k
    if k = 0 ∨ tile < t.lsBase then s
    else
      let start := startTable (s.launchOf t).obj t.lsSize
      s.mapTask k (fun t => { t with banks := t.banks.map (fun b => b.rebind start (tile - t.lsBase)) })) s

/-- A program image that FMLD takes (14 R272), as its 32 words. -/
def imageOk (w : List Lane) : Bool :=
  let hdr := (w.headD 0).toNat
  let stepOk (x : Lane) : Bool :=
    let f := x.toNat
    let op := bits f 31 25
    let b := bits f 6 0
    decide (bits f 24 21 = 0) && decide (bits f 20 14 < 8) && decide (bits f 13 7 < 16) &&
      (match op with
       | 0x01 | 0x03 | 0x04 => decide (b < 16)
       | 0x58 => decide (b < 16)
       | 0x59 => decide (b < 2)
       | 0x5A => decide (b < 4)
       | _ => false)
  decide (bits hdr 31 31 = 1) && decide (bits hdr 30 7 = 0) && ((w.drop 1).take (bits hdr 3 0 + 1)).all stepOk
/-- A table header that FTLD takes (14 R271). -/
def headerOk (h : Lane) : Bool :=
  let w := sext 8 (h.toNat % 256)
  decide (bits h.toNat 31 31 = 1) && decide (bits h.toNat 30 9 = 0) && decide (-24 ≤ w) && decide (w ≤ 24)

end Sys2Proof.Machine
end

