-- ==== Sys2Proof/Machine/Cb.lean ====
section
/-!
DEFINITION. Circular buffers and tile flips (01 R19 to R26): descriptors, the firing rule, advances and the owner states
that pass with them, and the event CBPOP_GRANT.
-/
namespace Sys2Proof.Machine

/-- The owner byte of a tile that the core unit holds. -/
def coreOwner (u : Nat) : BitVec 8 := BitVec.ofNat 8 (u % 4)
/-- A physical tile of a core changes its owner; a tile leaving the function stage rebinds its table slots (14 R267). -/
def State.flip (s : State) (u phys : Nat) (o : BitVec 8) : State :=
  let core := coreOf u
  let old := s.owner core phys
  let s := s.setOwner core phys o
  if old.getLsbD 7 && decide (bits old.toNat 6 4 = 3) && decide (old ≠ o) then s.rebindTile u phys else s
/-- Several tiles of a task's allocation flip. -/
def State.flipTiles (s : State) (t : Task) (tiles : List Nat) (o : BitVec 8) : State :=
  tiles.foldl (fun s n => s.flip t.unit (t.lsBase + n) o) s
/-- The columns of a unit, as strips and channels of the package. -/
def unitCols (u width : Nat) : List Nat := (List.range width).map (physCol u width)
/-- Engines of a unit look at their queues again. -/
def State.poke (s : State) (u : Nat) : State :=
  (s.soon (.commandRecordEntry u .copy)).soon (.commandRecordEntry u .chain)

/-! Descriptors (01 Table 01.6). -/

/-- The owner byte of a side's tiles. -/
def cbOwner (d : Word) (prod : Bool) (u : Nat) : BitVec 8 :=
  match cbAgent d prod with
  | 0 => coreOwner u
  | 1 => ownerByte 0 (cbChan d prod) (u % 4)
  | 2 => ownerByte 1 (cbChan d prod) (u % 4)
  | 3 => ownerByte 3 (cbChan d prod) (u % 4)
  | _ => ownerByte 2 (cbChan d prod) (u % 4)
/-- The tile of the allocation at a pointer value. -/
def cbTile (d : Word) (x : Nat) : Nat := cbBase d + x % cbCount d
/-- The tiles that a side's next operation covers. -/
def cbTiles (d : Word) (prod : Bool) : List Nat :=
  (List.range (cbNum d prod)).map (fun k => cbTile d (cbPtr d prod + k))
/-- Every tile of the ring. -/
def cbRing (d : Word) : List Nat := ringTiles d
/-- The side may fire (01 R24). -/
def cbFires (d : Word) (prod : Bool) : Bool :=
  let n := cbCount d
  let occ := (cbProd d + 2 * n - cbCons d) % (2 * n)
  decide (n ≠ 0) && (if prod then decide (cbPn d + 1 ≤ n - occ) else decide (cbCn d + 1 ≤ occ))

/-- Descriptor n of a unit. -/
def State.cb (s : State) (u n : Nat) : Word := vget 0 (s.unit u).cb n
/-- A task may use a buffer: it configured it (01 R27). -/
def State.cbMine (s : State) (t : Task) (n : Nat) : Bool :=
  decide (vget 0 (s.unit t.unit).cbTask n = t.key) && decide (cbCount (s.cb t.unit n) ≠ 0)
/-- A side of a buffer may fire now: no advance of it is still due. -/
def State.cbReady (s : State) (u n : Nat) (prod : Bool) : Bool :=
  cbFires (s.cb u n) prod && !(s.unit u).cbDue.elem (n, prod)
/-- An operation on a side has completed: its advance is due, in the order of the completions (01 R26, R28). -/
def State.cbDone (s : State) (u n : Nat) (prod : Bool) : State :=
  (s.mapUnit u (fun x => { x with cbDue := x.cbDue ++ [(n, prod)] })).soon
    (if prod then .cbProducerCompletion u n else .cbConsumerCompletion u n)
/-- The advance of a side: its tiles flip to the other side and the pointer moves (01 R24). -/
def State.cbAdvance (s : State) (u n : Nat) (prod : Bool) : State :=
  let x := s.unit u
  if !x.cbDue.elem (n, prod) then s
  else
    let d := s.cb u n
    let t := s.task (vget 0 x.cbTask n)
    let s := s.flipTiles t (cbTiles d prod) (cbOwner d (!prod) u)
    let ptr := (cbPtr d prod + cbNum d prod) % (2 * cbCount d)
    let d' := if prod then putBits d 27 19 ptr else putBits d 36 28 ptr
    let s := s.mapUnit u (fun x => { x with cb := vset x.cb n d', cbDue := x.cbDue.filter (fun e => decide (e ≠ (n, prod))) })
    (s.soon (.cbpopGrant u n)).poke u

/-! The core unit's side (10 R204). -/

/-- The side of a buffer whose agent is the core unit. -/
def cbCoreSide (d : Word) : Option Bool :=
  if cbAgent d true = 0 then some true else if cbAgent d false = 0 then some false else none
/-- A record is a CBPOP or a CBPUSH on buffer n. -/
def popOn (n : Nat) (r : Rec) : Bool := match r.ins with | .cbpop _ _ m => decide (m.toNat = n) | _ => false
def pushOn (n : Nat) (r : Rec) : Bool := match r.ins with | .cbpush _ m => decide (m.toNat = n) | _ => false
/-- A pending result is discarded with a trap in its task. -/
def State.dropResult (s : State) (r : Rec) (cause : Nat) : State :=
  (s.mapTask r.task (fun t => { t with results := t.results.filter (fun x => decide (x.id ≠ r.id)) })).raise r.task cause r.col
/-- The first CBPOP that waits on a buffer is granted when its side fires and no granted one is unpushed: the byte offset of
its first tile is delivered. One that the buffer no longer serves traps OWNER (01 R23, 10 R204). -/
def State.cbGrantPop (s : State) (u n : Nat) : State :=
  let x := s.unit u
  match x.pops.find? (popOn n) with
  | none => s
  | some r =>
    let d := s.cb u n
    let without (x : UnitSt) : UnitSt := { x with pops := x.pops.filter (fun q => decide (q.id ≠ r.id)) }
    match cbCoreSide d with
    | none => ((s.mapUnit u without).dropResult r Cause.owner).soon (.cbpopGrant u n)
    | some side =>
      if !s.cbMine (s.task r.task) n then ((s.mapUnit u without).dropResult r Cause.owner).soon (.cbpopGrant u n)
      else if (vget none x.cbGrant n).isNone && s.cbReady u n side then
        let s := s.mapUnit u (fun x => { without x with cbGrant := vset x.cbGrant n (some r.task) })
        (s.grant r.task r.id (BitVec.ofNat 64 (4096 * cbTile d (cbPtr d side)))).poke u
      else s
def execCbpopGrant (s : State) : R := match s.ev with | .cbpopGrant u n => .next (s.cbGrantPop u n) | _ => .next s
/-- CBPOP's record enters the queue. -/
def State.takePop (s : State) (u : Nat) (r : Rec) (n : Nat) : State :=
  let t := s.task r.task
  if s.cbMine t n && (cbCoreSide (s.cb u n)).isSome then
    (s.mapUnit u (fun x => { x with pops := x.pops ++ [r] })).cbGrantPop u n
  else s.dropResult r Cause.owner
/-- A store of a task to some LS tiles of its allocation, issued before a number, has still to perform. -/
def State.storesBefore (s : State) (t : Task) (tiles : List Nat) (id : Nat) : Bool :=
  s.reqs.any (fun r => decide (r.task = t.key) && decide (r.kind = .lsStore) && decide (r.id < id) &&
    tiles.elem (r.addr / 4096 - t.lsBase))
/-- CBPUSH acts once a CBPOP is granted and unpushed, no earlier CBPUSH waits, and the task's earlier stores to the side's
tiles have performed; without a granted CBPOP or an earlier one that waits it traps OWNER (10 R204). -/
def State.takePush (s : State) (u : Nat) (r : Rec) (n : Nat) : State :=
  let t := s.task r.task
  let x := s.unit u
  let mine (f : Rec → Bool) (q : Rec) : Bool := f q && decide (q.task = r.task) && decide (q.id < r.id)
  let granted := decide (vget none x.cbGrant n = some r.task)
  let wait : State := (s.mapUnit u (fun x => { x with pushes := if x.pushes.elem r then x.pushes else x.pushes ++ [r] })).soon
    (.commandRecordEntry u .copy)
  let without : State := s.mapUnit u (fun x => { x with pushes := x.pushes.filter (fun q => decide (q.id ≠ r.id)) })
  match cbCoreSide (s.cb u n) with
  | some side =>
    if x.pushes.any (mine (pushOn n)) || (!granted && x.pops.any (mine (popOn n))) then wait
    else if !(s.cbMine t n && granted) then without.raise r.task Cause.owner r.col
    else if s.storesBefore t (cbTiles (s.cb u n) side) r.id then wait
    else (without.mapUnit u (fun x => { x with cbGrant := vset x.cbGrant n none })).cbDone u n side
  | none => without.raise r.task Cause.owner r.col
/-- The waiting CBPUSHes look again. -/
def State.pokePush (s : State) (u : Nat) : State :=
  (s.unit u).pushes.foldl (fun s r => match r.ins with
    | .cbpush _ n => s.takePush u r n.toNat
    | _ => s) s

end Sys2Proof.Machine
end

