-- ==== Sys2Proof/Machine/Strip.lean ====
section
/-!
DEFINITION. The strips of the chain engine (12 R223 to R238): configuration, tile registers, operand queues, LS ends, and
the arithmetic of a chain step, a matrix-vector group and a merge.
-/
namespace Sys2Proof.Machine

/-- A strip by physical column of the package. -/
def State.strip (s : State) (c : Nat) : Strip := fget Strip.zero s.strips c
def State.setStrip (s : State) (c : Nat) (x : Strip) : State := { s with strips := fset Strip.zero s.strips c x }
def State.mapStrip (s : State) (c : Nat) (f : Strip → Strip) : State := s.setStrip c (f (s.strip c))

/-! CHAIN_CFG (12 Table 12.2). -/

def Strip.mode (x : Strip) : Nat := bits x.cfg.toNat 31 30
def Strip.passes (x : Strip) : Nat := bits x.cfg.toNat 29 28 + 1
def Strip.mask (x : Strip) : Bool := x.cfg.getLsbD 27
def Strip.fast (x : Strip) : Bool := x.cfg.getLsbD 26
def Strip.qshare (x : Strip) : Bool := x.cfg.getLsbD 25
def Strip.qfmt (x : Strip) : Nat := bits x.cfg.toNat 23 20
def Strip.kfmt (x : Strip) : Nat := bits x.cfg.toNat 19 16
def Strip.vfmt (x : Strip) : Nat := bits x.cfg.toNat 15 12
def Strip.save (x : Strip) : Nat := bits x.cfg.toNat 9 0
def Strip.scale2 (x : Strip) : Lane := x.cfg.extractLsb' 32 32
/-- A configuration image that MCFG takes, but for its save area (12 Table 12.3, 13 R243). -/
def cfgOk (x : Strip) : Bool :=
  let w := x.cfg.toNat
  let tile (f : Nat) : Bool := [1, 2, 3, 4].elem f
  decide (x.mode ≠ 3) && decide (bits w 24 24 = 0) && decide (bits w 11 10 = 0) &&
    (match x.mode with
     | 1 => tile x.qfmt && (tile x.kfmt || isMx x.kfmt) && (tile x.vfmt || isMx x.vfmt)
     | 2 => (tile x.qfmt || decide (x.qfmt = 8)) && [1, 3, 4, 6, 0xA, 8].elem x.kfmt
     | _ => true)
/-- The save-area tiles. -/
def Strip.saveTiles (x : Strip) : List Nat := (List.range 22).map (fun k => x.save + k)

/-! Tile registers (12 R228, 13 R244). -/

def TileReg.type (r : TileReg) : Nat := bits r.cfg.toNat 16 13
def TileReg.cols (r : TileReg) : Nat := bits r.cfg.toNat 12 7 + 1
def TileReg.rows (r : TileReg) : Nat := bits r.cfg.toNat 6 1 + 1
/-- Bytes of an element of a tile register type; mask64 is 8. -/
def typeSize (ty : Nat) : Nat := elemBits ty / 8
def TileReg.size (r : TileReg) : Nat := r.rows * r.cols * typeSize r.type
/-- A shape that R228 takes. -/
def TileReg.shapeOk (r : TileReg) : Bool :=
  [0, 1, 2, 3, 4, 7, 8, 0xB, 0xF].elem r.type && decide (r.size ≤ 16384) && (decide (r.type ≠ 0xF) || decide (r.cols = 1))
/-- The code of element (i, j). -/
def TileReg.at (r : TileReg) (i j : Nat) : Nat :=
  let n := typeSize r.type
  let b := (i * r.cols + j) * n
  ofBytes ((List.range n).map (fun k => fget 0 r.data (b + k)))
/-- Write the code of element number e. -/
def TileReg.put (r : TileReg) (e code : Nat) : TileReg :=
  let n := typeSize r.type
  let bs := List.zip (List.range n) (bytesOf n code)
  { r with data := bs.foldl (fun d p => fset 0 d (e * n + p.1) p.2) r.data }
/-- The codes of every element, row by row. -/
def TileReg.codes (r : TileReg) : List Nat :=
  (List.range (r.rows * r.cols)).map (fun e => r.at (e / r.cols) (e % r.cols))
/-- A register whose elements are a list of codes. -/
def TileReg.fill (r : TileReg) (codes : List Nat) : TileReg :=
  (List.zip (List.range codes.length) codes).foldl (fun r p => r.put p.1 p.2) { r with data := [] }
/-- Bits 16:1 of a shape image replace the shape. -/
def TileReg.shaped (r : TileReg) (w : Word) : TileReg :=
  { r with cfg := BitVec.ofNat 32 (bits w.toNat 16 1 * 2 + r.cfg.toNat % 2) }

/-! Operand queues (12 R229, 13 R200). -/

/-- Queue qa or qb of a strip, the entries it has not used. -/
def Strip.queue (x : Strip) (qb : Bool) : List QEnt := if qb then x.qb else x.qa
def Strip.setQueue (x : Strip) (qb : Bool) (l : List QEnt) : Strip := if qb then { x with qb := l } else { x with qa := l }
def Strip.bound (x : Strip) (qb : Bool) : Option (Nat × Nat × Nat) := if qb then x.bindB else x.bindA
def Strip.setBound (x : Strip) (qb : Bool) (b : Option (Nat × Nat × Nat)) : Strip :=
  if qb then { x with bindB := b } else { x with bindA := b }
def Strip.used (x : Strip) (qb : Bool) : Nat := if qb then x.usedB else x.usedA
def Strip.setUsed (x : Strip) (qb : Bool) (n : Nat) : Strip := if qb then { x with usedB := n } else { x with usedA := n }
/-- The columns of a strip's unit. -/
def State.stripCols (s : State) (c : Nat) : List Nat :=
  let (u, k) := s.unitOfCol c
  let w := widthCols ((s.core (c / 4)).split.toNat % 8)
  unitCols u (if k < w then w else 1)
/-- The first column of a strip's unit. -/
def State.firstCol (s : State) (c : Nat) : Nat := (s.stripCols c).headD c
/-- The strips of a unit agree to share column 0's queues (12 R224). -/
def State.shares (s : State) (c : Nat) : Bool :=
  let l := s.stripCols c
  decide (1 < l.length) && l.all (fun d => (s.strip d).qshare)
/-- The strips of a unit disagree on QSHARE. -/
def State.disagree (s : State) (c : Nat) : Bool :=
  let l := (s.stripCols c).map (fun d => (s.strip d).qshare)
  l.any id && l.any (fun b => !b)
/-- A queue of a strip that its column does not feed: a sharing strip other than column 0's (12 R224). -/
def State.foreignQueue (s : State) (c : Nat) : Bool := s.shares c && decide (s.firstCol c ≠ c)
/-- The strip whose queues a strip reads. -/
def State.queueHome (s : State) (c : Nat) : Nat := if s.shares c then s.firstCol c else c
/-- The complete entries a strip may still use, oldest first. -/
def State.entries (s : State) (c : Nat) (qb : Bool) : List QEnt :=
  (((s.strip (s.queueHome c)).queue qb).filter (·.done)).drop (if s.shares c then (s.strip c).used qb else 0)
/-- The words of a full bound queue wait in their link register; look again when an entry leaves. -/
def State.wakeBound (s : State) (c : Nat) (qb : Bool) : State :=
  if ((s.strip c).bound qb).isSome then s.soon (.boundQueueWord c qb) else s
/-- The n oldest entries leave a queue: what the strips of a unit have used of column 0's is counted from its new head. -/
def State.queuePops (s : State) (h : Nat) (qb : Bool) (n : Nat) : State :=
  let s := if s.firstCol h = h then
      (s.stripCols h).foldl (fun s d => s.mapStrip d (fun x => x.setUsed qb (x.used qb - n))) s
    else s
  s.mapStrip h (fun x => x.setQueue qb ((x.queue qb).drop n))
/-- A strip has used n entries: they leave the queue, a shared one only once every strip has used it. -/
def State.popEntries (s : State) (c : Nat) (qb : Bool) (n : Nat) : State :=
  let h := s.queueHome c
  let s :=
    if s.shares c then
      let s := s.mapStrip c (fun x => x.setUsed qb (x.used qb + n))
      s.queuePops h qb ((s.stripCols c).foldl (fun a d => min a ((s.strip d).used qb)) ((s.strip c).used qb))
    else s.queuePops h qb n
  (s.wakeBound h qb).poke (s.unitOfCol c).1
/-- Entries that a strip took and did not use stand again before what has come since. -/
def State.unpop (s : State) (c : Nat) (qb : Bool) (es : List QEnt) : State :=
  let h := s.queueHome c
  if s.shares c then
    let u := (s.strip c).used qb
    let r := es.length - u
    let s := (s.stripCols c).foldl (fun s d =>
      s.mapStrip d (fun x => x.setUsed qb (if d = c then u - es.length else x.used qb + r))) s
    s.mapStrip h (fun x => x.setQueue qb (es.take r ++ x.queue qb))
  else s.mapStrip h (fun x => x.setQueue qb (es ++ x.queue qb))

/-- The exact value of an element of an entry, its MX scale applied (12 R229, 05 R97, R98). -/
def QEnt.val (e : QEnt) (r k : Nat) : Fp :=
  let n := r * e.cols + k
  let w := lget 0 e.codes n
  if isMx e.fmt then (mxDecode e.fmt (lget 0 e.scales (n / 32)) [w]).headD .nan else (elemValue e.fmt w).1
/-- An integer or tern format (05 Table 05.1). -/
def intFmt (f : Nat) : Bool := decide (f = 7) || decide (f = 8) || decide (f = 9) || decide (f = 0xA)
/-- An element as an integer; the tern code 0b10 is 0. -/
def intElem (f w : Nat) : Int := if f = 0xA ∧ w = 2 then 0 else sval (elemBits f) w
/-- An entry holds a bad tern code. -/
def QEnt.ternBad (e : QEnt) : Bool := decide (e.fmt = 0xA) && e.codes.any (fun w => decide (w = 2))

/-! A chain step (12 R231). -/

/-- One dot product in the order of 05 R102, in fp32. -/
def dot32 (acc : Lane) (xs : List (Fp × Fp)) : Lane :=
  xs.foldl (fun a p => rne32 (Fp.add (f32 a) (Fp.mul p.1 p.2))) acc
/-- The elements of a row over the passes: element 64·n + k is column k of entry n. -/
def passRow (es : List QEnt) (j : Nat) : List Fp := es.flatMap (fun e => (List.range 64).map (e.val j))
/-- Equal as fp32 numbers. -/
def feq (x y : Lane) : Bool := decide (Fp.cmp (f32 x) (f32 y) = some .eq)
/-- One row of a chain step: the query's elements, its mask (bit j visible), its statistics and O; then the new ones. -/
def chainRow (scale : Lane) (ka : List QEnt) (vb : List QEnt) (kn : Nat) (q : List Fp) (mask : Nat → Bool) (sm sl : Lane)
    (o : List Lane) : Lane × Lane × Lane × List Lane :=
  let s : List Lane := (List.range kn).map (fun j =>
    if mask j then fmul (dot32 0 (List.zip q (passRow ka j))) scale else ninf32)
  let mt := s.tail.foldl fmax (s.headD ninf32)
  let mnew := fmax sm mt
  let c := if feq sm mnew then 0x3F800000 else exp2T (fsub sm mnew)
  let p : List Lane := s.map (fun x => if x = ninf32 then 0 else roundBf16 (exp2T (fsub x mnew)))
  let l := p.foldl fadd (fmul sl c)
  let onew := (List.zip (List.range o.length) o).map (fun (n, x) =>
    let e := lget ⟨0, 0, 0, [], [], false, [], true⟩ vb (n / 64)
    (List.zip (List.range kn) p).foldl (fun acc (j, w) => rne32 (Fp.add (f32 acc) (Fp.mul (f32 w) (e.val j (n % 64)))))
      (fmul x c))
  (mnew, l, c, onew)
/-- Row i of Q as exact values. -/
def Strip.qRow (x : Strip) (i : Nat) : List Fp :=
  (List.range (64 * x.passes)).map (fun k => (elemValue x.qfmt (fget 0 x.q (i * 256 + k))).1)
/-- Row i of O. -/
def Strip.oRow (x : Strip) (i : Nat) : List Lane := (List.range (64 * x.passes)).map (fun n => fget 0 x.o (i * 256 + n))
/-- Write row i of O. -/
def Strip.setORow (x : Strip) (i : Nat) (l : List Lane) : Strip :=
  { x with o := (List.zip (List.range l.length) l).foldl (fun o p => fset 0 o (i * 256 + p.1) p.2) x.o }
/-- Statistics and O at −∞, +0 and +0. -/
def Strip.clearRows (x : Strip) : Strip :=
  { x with sm := Vector.replicate 16 ninf32, sl := Vector.replicate 16 0, o := [] }
/-- The step of every row, committed together (12 R232). -/
def Strip.chainStep (x : Strip) (ka vb : List QEnt) (mask : Nat → Nat → Bool) : Strip :=
  let kn := match ka with | e :: _ => e.rows | [] => 0
  (List.range 16).foldl (fun y i =>
    let (m, l, c, o) := chainRow x.scale2 ka vb kn (x.qRow i) (mask i) (vget 0 x.sm i) (vget 0 x.sl i) (x.oRow i)
    ({ y with sm := vset y.sm i m, sl := vset y.sl i l, sc := vset y.sc i c } : Strip).setORow i o) x
/-- CHFIN (13 R250). -/
def Strip.finish (x : Strip) : Strip :=
  (List.range 16).foldl (fun y i =>
    let l := vget 0 x.sl i
    if feq l 0 then { y.setORow i ((x.oRow i).map (fun _ => 0)) with empty := y.empty ||| (1 <<< i) }
    else y.setORow i ((x.oRow i).map (fun o => fdiv o l))) x
/-- A merge of one row, a with b (05 R105): m, l, O, and cb. -/
def mergeRow (ma la mb lb : Lane) (oa ob : List Lane) : Lane × Lane × List Lane × Lane :=
  let m := fmax ma mb
  let ca := if feq ma m then 0x3F800000 else exp2T (fsub ma m)
  let cb := if feq mb m then 0x3F800000 else exp2T (fsub mb m)
  (m, fadd (fmul la ca) (fmul lb cb), List.zipWith (fun x y => fadd (fmul x ca) (fmul y cb)) oa ob, cb)

/-! A matrix-vector group (12 R234). -/

/-- The kind of an accumulator: 0 fp32, 1 fp64, 2 int32. -/
def accKind (f g : Nat) : Nat :=
  if f = 0xB ∨ g = 0xB then 1 else if intFmt f && intFmt g then 2 else 0
/-- One multiply-accumulate in an accumulator of a kind, exact values or integers. -/
def macc (kind : Nat) (acc : Nat) (x y : Fp) (xi yi : Int) : Nat :=
  match kind with
  | 1 => fp64.round .rne .ieee (Fp.add (fp64.decode acc) (Fp.mul x y))
  | 2 => icode 32 (sval 32 acc + xi * yi)
  | _ => fp32.round .rne .ieee (Fp.add (fp32.decode acc) (Fp.mul x y))
/-- y[r][b] of a group: weight row r against vector b of the batch. -/
def Strip.mvDot (x : Strip) (ws : List QEnt) (r b : Nat) : Nat :=
  let kind := accKind x.qfmt x.kfmt
  (List.range (64 * x.passes)).foldl (fun acc k =>
    let e := lget ⟨0, 0, 0, [], [], false, [], true⟩ ws (k / 64)
    let v := fget 0 x.q (b * 256 + k)
    macc kind acc (e.val r (k % 64)) (elemValue x.qfmt v).1 (intElem e.fmt (lget 0 e.codes (r * e.cols + k % 64)))
      (intElem x.qfmt v)) 0
/-- A group's rows written into a tile register from a row on. -/
def Strip.mvRows (x : Strip) (ws : List QEnt) (reg : TileReg) (row : Nat) : TileReg :=
  let kn := match ws with | e :: _ => e.rows | [] => 0
  (List.range kn).foldl (fun reg r =>
    (List.range x.batch).foldl (fun reg b => reg.put ((row + r) * reg.cols + b) (x.mvDot ws r b)) reg) reg

/-! LS ends (13 R242, R246). -/

/-- The tiles that n elements of an LS end touch from a bit of a tile on, with fuel. -/
def tileSpan (fmts : Vector Lane 8) (base : Nat) (tiles : Nat → Nat) (raw : Bool) : Nat → Nat → Nat → Nat → List Nat
  | 0, _, _, _ => []
  | fuel + 1, k, pos, n =>
    if n = 0 then []
    else
      let fmt := if raw then 8 else tileFmt fmts (base + tiles k)
      let room := if isMx fmt then 32 * mxBlocks fmt else (32768 - pos) / elemBits fmt
      tiles k :: tileSpan fmts base tiles raw fuel (k + 1) 0 (n - room)
/-- The checks of a range of bytes at an LS address: a cause, or the memory number of its first byte. -/
def State.lsSpan (s : State) (t : Task) (agent chan : Nat) (a : Word) (align len : Nat) (src : Bool) : Except Nat Nat :=
  let a := a.toNat
  let core := coreOf t.unit
  if bits a 63 22 ≠ 0 ∨ a % align ≠ 0 ∨ t.lsSize * 4096 < a + len then .error Cause.chainFault
  else
    let tiles := (List.range ((a + len - 1) / 4096 + 1 - a / 4096)).map (fun k => t.lsBase + a / 4096 + k)
    if tiles.any (fun p => decide (s.owner core p ≠ ownerByte agent chan (t.unit % 4))) then .error Cause.owner
    else if src && tiles.any (s.tilePoisoned core) then .error Cause.poison
    else .ok (lsNo core (t.lsBase * 4096 + a))
/-- The code at a bit position of packed bytes. -/
def packedAt (bs : List Byte) (bitpos w : Nat) : Nat := ofBytes ((bs.drop (bitpos / 8)).take ((w + 14) / 8)) / 2 ^ (bitpos % 8) % 2 ^ w
/-- Packed elements from a memory number. -/
def State.packed (s : State) (a w n : Nat) : List Nat :=
  let bs := s.bytes a ((n * w + 7) / 8)
  (List.range n).map (fun k => packedAt bs (k * w) w)
/-- Rows and elements per row of a shape value (13 R242). -/
def shapeRows (w : Word) : Nat := bits w.toNat 3 0 + 1
def shapeCount (w : Word) : Nat := bits w.toNat 24 16
/-- n elements of an LS end that follows BANK_FMT, by a strip, or the cause of its fault. -/
def State.stripLocs (s : State) (t : Task) (fmts : Vector Lane 8) (chan : Nat) (a : Word) (n : Nat) :
    Except Nat (List Loc) :=
  let tile := bits a.toNat 21 12
  let byte := bits a.toNat 11 0
  let fmt := tileFmt fmts (t.lsBase + tile)
  if bits a.toNat 63 22 ≠ 0 then .error Cause.chainFault
  else if isMx fmt && decide (byte ≠ 0) then .error Cause.chainFault
  else if byte * 8 % elemBits fmt ≠ 0 then .error Cause.chainFault
  else
    let l := s.lsLocs t fmts 1 chan (fun k => tile + k) (t.lsSize - tile) false n 0 (if isMx fmt then 0 else byte * 8)
    if l.length ≠ n then .error Cause.chainFault
    else
      l.foldr (fun x acc => match x, acc with
        | .ok l, .ok ls => .ok (l :: ls)
        | .error (.fault c _), .ok _ => .error c
        | .error (.fault c _), .error d => .error (if d = Cause.chainFault then d else c)
        | .error _, _ => .error Cause.chainFault
        | .ok _, .error d => .error d) (.ok [])
/-- Encode elements of one format into places, blocks together; the flag says a NaN was met (05 R95, R98). -/
def State.encodeElems (s : State) (fmt : Nat) (items : List (Loc × Nat)) : State × Bool :=
  let groups := items.splitBy (fun x y => isMx x.1.fmt && decide (x.1.blk = y.1.blk))
  groups.foldl (fun (s, nan) g =>
    match g with
    | [] => (s, nan)
    | (l, _) :: _ =>
      if isMx l.fmt then
        let (sc, cs, n) := mxEncode l.fmt (g.map (fun p => (elemValue fmt p.2).1))
        (((List.zip g cs).foldl (fun s p => s.setElem p.1.1 p.2) s).setKeyBytes l.key l.scale [BitVec.ofNat 8 sc], nan || n)
      else
        g.foldl (fun (s, nan) p =>
          if p.1.fmt = fmt then (s.setElem p.1 p.2, nan)
          else
            let (code, n) := elemCode p.1.fmt .rne false (elemValue fmt p.2).1
            (s.setElem p.1 code, nan || n)) (s, nan)) (s, false)

end Sys2Proof.Machine
end

