-- ==== Sys2Proof/Machine/Chain.lean ====
section
/-!
DEFINITION. The M slot (13 R239 to R259, 14 R271 to R275): its words at issue, and the strip that takes their records one
at a time, with the events STRIP_TRANSFER_COMPLETION, PAIR_FIRE, CHAIN_COMMIT, MV_GROUP_COMMIT, CHARM_COMPLETION,
CHARM_WRITE and BOUND_QUEUE_WORD.
-/
namespace Sys2Proof.Machine

/-! Words. -/

def execMcfg (g : Guard) (a : RegF) (s : State) : R := s.rec1 g (.mcfg g a) .chain a
def execTcfg (g : Guard) (a : RegF) (t : BitVec 3) (s : State) : R := s.rec1 g (.tcfg g a t) .chain a
def execTzero (g : Guard) (t : BitVec 3) (s : State) : R := s.rec0 g (.tzero g t) .chain
def execTreshape (g : Guard) (a : RegF) (t : BitVec 3) (s : State) : R := s.rec1 g (.treshape g a t) .chain a
def execTldq (g : Guard) (a b : RegF) (s : State) : R := s.rec2 g (.tldq g a b) .chain a b
def execTld (g : Guard) (a : RegF) (t : BitVec 3) (s : State) : R := s.rec1 g (.tld g a t) .chain a
def execTst (g : Guard) (a : RegF) (k : BitVec 1) (t : BitVec 3) (s : State) : R := s.rec1 g (.tst g a k t) .chain a
def execTstO (g : Guard) (a b : RegF) (k : BitVec 1) (s : State) : R := s.rec2 g (.tstO g a b k) .chain a b
def execQbind (g : Guard) (a : RegF) (q : BitVec 1) (s : State) : R := s.rec1 g (.qbind g a q) .chain a
def execQdrop (g : Guard) (q u fl : BitVec 1) (s : State) : R := s.rec0 g (.qdrop g q u fl) .chain
def execChain (g : Guard) (a : RegF) (im : BitVec 1) (s : State) : R := s.rec1 g (.chain g a im) .chain a
def execChainm (g : Guard) (a : RegF) (m : BitVec 3) (im : BitVec 1) (s : State) : R :=
  s.rec1 g (.chainm g a m im) .chain a
def execChfin (g : Guard) (k : BitVec 1) (s : State) : R := s.rec0 g (.chfin g k) .chain
def execStsave (g : Guard) (a b : RegF) (k : BitVec 1) (s : State) : R := s.rec2 g (.stsave g a b k) .chain a b
def execStld (g : Guard) (a : RegF) (s : State) : R := s.rec1 g (.stld g a) .chain a
def execStldMerge (g : Guard) (a b : RegF) (s : State) : R := s.rec2 g (.stldMerge g a b) .chain a b
def execMcall (g : Guard) (a : RegF) (s : State) : R := s.rec1 g (.mcall g a) .chain a
/-- MREP acts at issue (13 R255): the repetition starts, its record is taken without effect. -/
def execMrep (g : Guard) (a : RegF) (s : State) : R :=
  s.when g fun s =>
    let (x, s) := s.takeI a
    let w := (vget 0 s.bank.mp 7).toNat
    let step := if bits w 63 63 = 1 then some (bits w 2 0, bits w 6 3, sext 7 (bits w 13 7)) else none
    let m : Mrep := ⟨bits x.toNat 11 0 + 1, (s.fg.pc + 1) % 4096, step, false, 0, s.ctl.live.getD 0, false⟩
    State.formRec { s with fg := { s.fg with mrep := some m } } (.mrep g a) .chain x 0 0 0 0
def execMvb (g : Guard) (a b : RegF) (s : State) : R := s.rec2 g (.mvb g a b) .chain a b
def execMv (g : Guard) (a : RegF) (t : BitVec 3) (s : State) : R := s.rec1 g (.mv g a t) .chain a
def execMpoll (g : Guard) (a : RegF) (s : State) : R := s.recDst g (.mpoll g a) .chain a 0 none
def execChld (g : Guard) (a b : RegF) (s : State) : R := s.rec2 g (.chld g a b) .chain a b
def execFtld (g : Guard) (a : RegF) (n : BitVec 4) (s : State) : R := s.rec1 g (.ftld g a n) .chain a
def execFmld (g : Guard) (a : RegF) (n : BitVec 4) (s : State) : R := s.rec1 g (.fmld g a n) .chain a
/-- ROWSTAT names its destination by value: the pending result is a v register (14 R275). -/
def execRowstat (g : Guard) (a : RegF) (o : BitVec 2) (h : BitVec 1) (t : BitVec 3) (s : State) : R :=
  s.when g fun s =>
    let (x, s) := s.takeI a
    let id := s.nid
    let s := s.formRec (.rowstat g a o h t) .chain x 0 0 0 0
    { s with fg := { s.fg with results := s.fg.results ++ [⟨id, s.col, true, x.toNat % 32, none, none⟩] } }

/-! The end of a command. -/

/-- A command of a strip ends: what MPOLL reports of it, and the strip is free (13 R259). -/
def State.stripDone (s : State) (c : Nat) (r : Rec) (status cause : Nat) : State :=
  let s := if (s.strip c).tern then s.flagTask r.task (flagBits false true) else s
  let s := s.mapStrip c (fun x => { x with
    run := none, charm := none, fired := false, cancel := false, tern := false, left := 0, lastStatus := status,
    lastCause := if status = 1 then cause else x.lastCause })
  (s.settle r.task).poke (s.unitOfCol c).1
/-- It ends with a deferred trap (13 R239). -/
def State.stripFault (s : State) (c : Nat) (r : Rec) (cause : Nat) : State :=
  (s.raise r.task cause r.col).stripDone c r 1 cause
/-- It ends as an operation decided. -/
def State.stripEnd (s : State) (c : Nat) (r : Rec) : Except Nat State → State
  | .ok s' => s'.stripDone c r 0 0
  | .error cause => s.stripFault c r cause

/-- The register of a tile field, 0 or 1 within its strip. -/
def tileNo (t : BitVec 3) : Nat := t.toNat % 2
/-- The tile registers a word names. -/
def namedTile : Instr → Option Nat
  | .tcfg _ _ t | .tzero _ t | .treshape _ _ t | .tld _ _ t | .tst _ _ _ t | .mv _ _ t | .rowstat _ _ _ _ t => some (tileNo t)
  | .chainm _ _ m _ => some (tileNo m)
  | _ => none
/-- Another task holds the strip or the register a word names (01 R27, 13 R241). R27 makes no exception of the words that
write slots or charms, FTLD, FMLD and CHLD, which 14 R271 to R273 do not list it for (DEDUCED, log 14). -/
def Strip.denied (x : Strip) (r : Rec) : Bool :=
  (decide (x.holder ≠ 0) && decide (x.holder ≠ r.task)) ||
    (match namedTile r.ins with
     | some n => decide (vget 0 x.thold n ≠ 0) && decide (vget 0 x.thold n ≠ r.task)
     | none => false)
/-- The task of a record holds a register. -/
def Strip.holds (x : Strip) (r : Rec) (n : Nat) : Bool := decide (vget 0 x.thold n = r.task)

/-! Commands that act as one step (13 R240). -/

/-- MCFG (13 R243). The queues it empties are its strip's own: what the strips of a unit have used counts against column 0's
(12 R224). -/
def State.takeMcfg (s : State) (c : Nat) (r : Rec) : State :=
  let t := s.task r.task
  let core := coreOf t.unit
  let old := s.strip c
  let x := { old with cfg := r.s1 }
  let me := ownerByte 1 r.col (t.unit % 4)
  let mine (n : Nat) : Bool :=
    let o := s.owner core (t.lsBase + n)
    !o.getLsbD 7 || decide (o = me)
  if !cfgOk x || (decide (x.mode ≠ 0) && (decide (t.lsSize < x.save + 22) || !x.saveTiles.all mine)) then
    s.stripFault c r Cause.chainFault
  else
    let drop := decide (x.mode ≠ old.mode) || decide (x.passes ≠ old.passes) || decide (x.kfmt ≠ old.kfmt) ||
      decide (x.vfmt ≠ old.vfmt)
    let x := { x.clearRows with
      holder := r.task, sc := Vector.replicate 16 0, empty := 0, loaded := false, batch := 0, q := [],
      qa := if drop then [] else x.qa, qb := if drop then [] else x.qb,
      lastCause := 0, partDrop := false, pairs := 0 }
    let s := s.setStrip c x
    let s := if drop && decide (s.firstCol c = c) then
        (s.stripCols c).foldl (fun s d => s.mapStrip d (fun y => { y with usedA := 0, usedB := 0 })) s
      else s
    let s := if x.mode ≠ 0 then s.flipTiles t x.saveTiles me else s
    ((s.wakeBound c false).wakeBound c true).stripDone c r 0 0
/-- TCFG (13 R244). -/
def State.takeTcfg (s : State) (c : Nat) (r : Rec) (n : Nat) : State :=
  let x := s.strip c
  let reg := vget TileReg.zero x.treg n
  let new := reg.shaped r.s1
  if !new.shapeOk then s.stripFault c r Cause.tileShape
  else
    let new := if bits new.cfg.toNat 16 1 = bits reg.cfg.toNat 16 1 then reg else { new with data := [] }
    let bank := (s.task r.task).tbank % 2
    let new := { new with cfg := BitVec.ofNat 32 (new.cfg.toNat - new.cfg.toNat % 2 + bank) }
    (s.setStrip c { x with treg := vset x.treg n new, thold := vset x.thold n r.task }).stripDone c r 0 0
/-- TZERO. -/
def State.takeTzero (s : State) (c : Nat) (r : Rec) (n : Nat) : State :=
  (s.mapStrip c (fun x => { x with treg := vset x.treg n { vget TileReg.zero x.treg n with data := [] } })).stripDone c r 0 0
/-- TRESHAPE. -/
def State.takeTreshape (s : State) (c : Nat) (r : Rec) (n : Nat) : State :=
  let reg := vget TileReg.zero (s.strip c).treg n
  let new := reg.shaped r.s1
  if !new.shapeOk || decide (new.size ≠ reg.size) then s.stripFault c r Cause.tileShape
  else (s.mapStrip c (fun x => { x with treg := vset x.treg n new })).stripDone c r 0 0
/-- QBIND (13 R247); a register that is unbound, or bound to send, is the wrong binding (18 R309). -/
def State.takeQbind (s : State) (c : Nat) (r : Rec) (qb : Bool) : State :=
  let t := s.task r.task
  let n := bits r.s1.toNat 2 0
  let lq := vget Lq.none (t.bank r.col).lq n
  let x := s.strip c
  if bits r.s1.toNat 7 3 ≠ 0 ∨ bits r.s1.toNat 63 14 ≠ 0 then s.stripFault c r Cause.chainFault
  else if (x.bound qb).isSome || s.foreignQueue c then s.stripFault c r Cause.owner
  else if (match lq.bind with | none | some (.sendCirc _) | some (.sendEnd _) => true | _ => false) then
    s.stripFault c r Cause.owner
  else
    let fmt := if qb && decide (x.mode ≠ 2) then x.vfmt else x.kfmt
    let s := s.setStrip c ({ x with holder := r.task }.setBound qb (some (n, bits r.s1.toNat 13 8 + 1, fmt)))
    let b := t.bank r.col
    let s := s.setTask (t.setBank r.col { b with lq := vset b.lq n { lq with queue := some qb } })
    (s.soon (.boundQueueWord c qb)).stripDone c r 0 0
/-- QDROP (13 R248). -/
def State.takeQdrop (s : State) (c : Nat) (r : Rec) (qb unbind flush : Bool) : State :=
  let x := s.strip c
  if s.foreignQueue c then s.stripFault c r Cause.owner
  else
    let bnd := x.bound qb
    let part := (x.queue qb).any (fun e => !e.done)
    let s := if flush then (s.stripCols c).foldl (fun s d => s.mapStrip d (fun y => y.setUsed qb 0)) s else s
    let x := if flush then (x.setQueue qb []).setUsed qb 0 else x
    match unbind, bnd with
    | true, some (n, _, _) =>
      let x := if flush then x
        else { x.setQueue qb ((x.queue qb).filter (·.done)) with partDrop := x.partDrop || part }
      let t := s.task r.task
      let b := t.bank r.col
      let lq := vget Lq.none b.lq n
      let s := s.setTask (t.setBank r.col { b with lq := vset b.lq n { lq with queue := none } })
      (s.setStrip c (x.setBound qb none)).stripDone c r 0 0
    | _, _ => ((s.setStrip c x).wakeBound c qb).stripDone c r 0 0
/-- CHFIN (13 R250). -/
def State.takeChfin (s : State) (c : Nat) (r : Rec) : State :=
  if (s.strip c).mode ≠ 1 then s.stripFault c r Cause.chainFault
  else (s.mapStrip c Strip.finish).stripDone c r 0 0
/-- MPOLL (13 Table 13.4); it is no ended command. -/
def State.takeMpoll (s : State) (c : Nat) (r : Rec) : State :=
  let x := s.strip c
  let h := s.strip (s.queueHome c)
  let n (qb : Bool) : Nat := ((h.queue qb).filter (·.done)).length
  let w := x.empty.toNat * 2 ^ 48 + x.lastCause % 256 * 2 ^ 40 + x.lastStatus % 4 * 2 ^ 38 + x.partDrop.toNat * 2 ^ 37 +
    x.loaded.toNat * 2 ^ 36 + h.bindB.isSome.toNat * 2 ^ 35 + h.bindA.isSome.toNat * 2 ^ 34 + n true % 8 * 2 ^ 31 +
    n false % 8 * 2 ^ 28 + x.pairs % 131072
  s.grant r.task r.id (BitVec.ofNat 64 w)
/-- FTLD (14 R271). -/
def State.takeFtld (s : State) (c : Nat) (r : Rec) (n : Nat) : State :=
  let t := s.task r.task
  let tile := bits r.s1.toNat 21 12
  let phys := t.lsBase + tile
  let o := s.owner (coreOf t.unit) phys
  let mem := lsNo (coreOf t.unit) (phys * 4096)
  let hdr : Lane := BitVec.ofNat 32 (s.num (mem + 3076) 4)
  if bits r.s1.toNat 63 22 ≠ 0 ∨ bits r.s1.toNat 11 0 ≠ 0 ∨ t.lsSize ≤ tile then s.stripFault c r Cause.chainFault
  else if !(o.getLsbD 7 && decide (bits o.toNat 6 4 = 3)) then s.stripFault c r Cause.owner
  else if s.tilePoisoned (coreOf t.unit) phys then s.stripFault c r Cause.poison
  else if !headerOk hdr then s.stripFault c r Cause.charmFault
  else
    let b := t.bank r.col
    let f : FtBind := ⟨tile, BitVec.ofNat 32 (s.num (mem + 3072) 4), hdr⟩
    (s.setTask (t.setBank r.col { b with ft := vset b.ft n (some f) })).stripDone c r 0 0
/-- FMLD (14 R272). -/
def State.takeFmld (s : State) (c : Nat) (r : Rec) (n : Nat) : State :=
  let t := s.task r.task
  let tile := bits r.s1.toNat 21 12
  let phys := t.lsBase + tile
  let o := s.owner (coreOf t.unit) phys
  let image : List Lane := (s.packed (lsNo (coreOf t.unit) (phys * 4096 + bits r.s1.toNat 11 0)) 32 32).map (BitVec.ofNat 32)
  if bits r.s1.toNat 63 22 ≠ 0 ∨ bits r.s1.toNat 6 0 ≠ 0 ∨ t.lsSize ≤ tile then s.stripFault c r Cause.chainFault
  else if !(o.getLsbD 7 && decide (bits o.toNat 6 4 = 3)) then s.stripFault c r Cause.owner
  else if s.tilePoisoned (coreOf t.unit) phys then s.stripFault c r Cause.poison
  else if !imageOk image then s.stripFault c r Cause.charmFault
  else
    let b := t.bank r.col
    (s.setTask (t.setBank r.col { b with fm := vset b.fm n image })).stripDone c r 0 0
/-- The lane of a row statistic (14 R274). -/
def rowStat (op : Nat) (reg : TileReg) (i : Nat) : Lane :=
  let start : Lane := match op with | 2 => ninf32 | 3 => pinf32 | _ => 0
  if reg.rows ≤ i then start
  else (List.range reg.cols).foldl (fun acc n =>
    let e := (elemValue reg.type (reg.at i n)).1
    match op with
    | 0 => rne32 (Fp.add (f32 acc) e)
    | 1 => rne32 (Fp.add (f32 acc) (Fp.mul e e))
    | 2 => fmax acc (rne32 e)
    | _ => fmin acc (rne32 e)) start
/-- ROWSTAT (14 R274): its result is delivered to a v register. -/
def State.takeRowstat (s : State) (c : Nat) (r : Rec) (op : Nat) (hi : Bool) (n : Nat) : State :=
  let x := s.strip c
  let reg := vget TileReg.zero x.treg n
  let drop (s : State) : State :=
    s.mapTask r.task (fun t => { t with results := t.results.filter (fun p => decide (p.id ≠ r.id)) })
  if !x.holds r n then (drop s).stripFault c r Cause.owner
  else if !([0, 1, 2, 3, 4].elem reg.type) || decide (bits r.s1.toNat 63 5 ≠ 0) then (drop s).stripFault c r Cause.chainFault
  else
    let v := ofLanes ((List.range 32).map (fun j => rowStat op reg (32 * hi.toNat + j)))
    (s.grantV r.task r.id v).stripDone c r 0 0

/-! LS transfers (13 R245, R246, R251 to R253, R257). -/

/-- The save area is the strip's. -/
def State.saveOwned (s : State) (c : Nat) (r : Rec) : Bool :=
  let t := s.task r.task
  (s.strip c).saveTiles.all (fun n =>
    decide (n < t.lsSize) && decide (s.owner (coreOf t.unit) (t.lsBase + n) = ownerByte 1 r.col (t.unit % 4)))
/-- A chain command finds a save-area tile that is not the strip's, or strips that disagree on QSHARE (12 R224, R227). -/
def State.chainBad (s : State) (c : Nat) (r : Rec) : Bool :=
  (decide ((s.strip c).mode ≠ 0) && !s.saveOwned c r) || s.disagree c
/-- Rows of packed QFMT elements into Q or the batch. -/
def Strip.loadRows (x : Strip) (rows count : Nat) (codes : List Nat) : Strip :=
  { x with loaded := true, batch := rows,
           q := (List.zip (List.range (rows * count)) codes).foldl
             (fun q p => fset 0 q (p.1 / count * 256 + p.1 % count) p.2) [] }
/-- A load of Q or of the batch: the mode it needs, its rows. -/
def State.xferRows (s : State) (c : Nat) (r : Rec) (mode rows : Nat) : Except Nat State :=
  let t := s.task r.task
  let x := s.strip c
  let n := shapeCount r.s2
  let w := elemBits x.qfmt
  if x.mode ≠ mode ∨ n = 0 ∨ 64 * x.passes < n ∨ (mode = 2 ∧ s.chainBad c r) then .error Cause.chainFault
  else match s.lsSpan t 1 r.col r.s1 (max 1 (w / 8)) ((rows * n * w + 7) / 8) true with
    | .error e => .error e
    | .ok a => .ok (s.setStrip c (x.loadRows rows n (s.packed a w (rows * n))))
/-- TLD. -/
def State.xferTld (s : State) (c : Nat) (r : Rec) (n : Nat) : Except Nat State :=
  let t := s.task r.task
  let x := s.strip c
  let reg := vget TileReg.zero x.treg n
  let put (codes : List Nat) : State := s.setStrip c { x with treg := vset x.treg n (reg.fill codes) }
  if !x.holds r n then .error Cause.chainFault
  else if reg.type = 0xF then
    match s.lsSpan t 1 r.col r.s1 8 (8 * reg.rows) true with
    | .error e => .error e
    | .ok a => .ok (put (s.packed a 64 reg.rows))
  else match s.stripLocs t x.fmts r.col r.s1 (reg.rows * reg.cols) with
    | .error e => .error e
    | .ok ls =>
      if ls.any s.locPoisoned then .error Cause.poison
      else
        let vs := ls.map (fun l =>
          if l.fmt = reg.type then (s.elemAt l, false, false)
          else
            let (v, bad) := (s.gotOf ⟨.at l, .at l, false⟩ l).value
            let (code, nan) := elemCode reg.type .rne false v
            (code, nan, bad))
        .ok ((put (vs.map (·.1))).flagTask r.task (flagBits (vs.any (·.2.1)) (vs.any (·.2.2))))
/-- TST of a register. -/
def State.xferTst (s : State) (c : Nat) (r : Rec) (n : Nat) : Except Nat State :=
  let t := s.task r.task
  let x := s.strip c
  let reg := vget TileReg.zero x.treg n
  if reg.type = 0xF then
    match s.lsSpan t 1 r.col r.s1 8 (8 * reg.rows) false with
    | .error e => .error e
    | .ok a => .ok (s.setBytes a (reg.codes.flatMap (bytesOf 8)))
  else match s.stripLocs t x.fmts r.col r.s1 (reg.rows * reg.cols) with
    | .error e => .error e
    | .ok ls =>
      let (s, nan) := s.encodeElems reg.type (List.zip ls reg.codes)
      .ok (s.flagTask r.task (flagBits nan false))
/-- TST of O. -/
def State.xferTstO (s : State) (c : Nat) (r : Rec) : Except Nat State :=
  let t := s.task r.task
  let x := s.strip c
  let n := shapeCount r.s2
  let rows := shapeRows r.s2
  if n = 0 ∨ 64 * x.passes < n then .error Cause.chainFault
  else match s.stripLocs t x.fmts r.col r.s1 (rows * n) with
    | .error e => .error e
    | .ok ls =>
      let codes := (List.range rows).flatMap (fun i => (x.oRow i).take n |>.map BitVec.toNat)
      let (s, nan) := s.encodeElems 0 (List.zip ls codes)
      .ok (s.flagTask r.task (flagBits nan false))
/-- The bytes of a partial-state record (13 Table 13.3). -/
def Strip.record (x : Strip) (ticket : Nat) : List Byte :=
  let v (l : Vector Lane 16) : List Byte := l.toList.flatMap (fun w => bytesOf 4 w.toNat)
  v x.sm ++ v x.sl ++ v x.sc ++ bytesOf 64 (ticket % 65536) ++
    (List.range 16).flatMap (fun i => (x.oRow i).flatMap (fun w => bytesOf 4 w.toNat))
/-- STSAVE. -/
def State.xferStsave (s : State) (c : Nat) (r : Rec) : Except Nat State :=
  let x := s.strip c
  match s.lsSpan (s.task r.task) 1 r.col r.s1 256 (256 + 4096 * x.passes) false with
  | .error e => .error e
  | .ok a => .ok (s.setBytes a (x.record (bits r.s2.toNat 15 0)))
/-- STLD, plain or merging. -/
def State.xferStld (s : State) (c : Nat) (r : Rec) (merge : Bool) : Except Nat State :=
  let x := s.strip c
  match s.lsSpan (s.task r.task) 1 r.col r.s1 256 (256 + 4096 * x.passes) true with
  | .error e => .error e
  | .ok a =>
    let word (k : Nat) : Lane := BitVec.ofNat 32 (s.num (a + 4 * k) 4)
    let ticket := s.num (a + 192) 2
    let w := 64 * x.passes
    let o (i : Nat) : List Lane := (List.range w).map (fun n => word (64 + w * i + n))
    if merge then
      if !x.fast && decide (ticket + 1 ≠ bits r.s2.toNat 15 0) then .error Cause.chainFault
      else .ok (s.setStrip c ((List.range 16).foldl (fun y i =>
        let (m, l, o', cb) := mergeRow (word i) (word (16 + i)) (vget 0 x.sm i) (vget 0 x.sl i) (o i) (x.oRow i)
        ({ y with sm := vset y.sm i m, sl := vset y.sl i l, sc := vset y.sc i cb } : Strip).setORow i o') x))
    else .ok (s.setStrip c ((List.range 16).foldl (fun y i =>
        ({ y with sm := vset y.sm i (word i), sl := vset y.sl i (word (16 + i)),
                  sc := vset y.sc i (word (32 + i)) } : Strip).setORow i (o i)) x))
/-- What an LS transfer of a strip does, or the cause of its fault. -/
def State.xfer (s : State) (c : Nat) (r : Rec) : Except Nat State :=
  match r.ins with
  | .tldq .. => s.xferRows c r 1 (shapeRows r.s2)
  | .mvb .. => s.xferRows c r 2 (bits r.s2.toNat 2 0 + 1)
  | .tld _ _ t => s.xferTld c r (tileNo t)
  | .tst _ _ _ t => s.xferTst c r (tileNo t)
  | .tstO .. => s.xferTstO c r
  | .stsave .. => s.xferStsave c r
  | .stld .. => s.xferStld c r false
  | .stldMerge .. => s.xferStld c r true
  | _ => .ok s
/-- A killed transfer leaves each byte old or new (13 R240): the new memory where the free choice says so (log 9). -/
def mixMem (old new : State) (base : Nat) : State :=
  let changed := (new.mem ++ old.mem).filter (fun e => decide (old.byte e.1 ≠ new.byte e.1))
  changed.foldl (fun s e =>
    if Config.pick (base + e.1) % 2 = 0 then s.setByte e.1 (new.byte e.1) else s.setByte e.1 (old.byte e.1)) old
/-- A transfer has moved its bytes. -/
def stripTransferCompletion (c : Nat) (s : State) : State :=
  match (s.strip c).run with
  | none => s
  | some r =>
    match r.ins with
    | .tldq .. | .mvb .. | .tld .. | .tst .. | .tstO .. | .stsave .. | .stld .. | .stldMerge .. =>
      if s.lsStores (c / 4) then s.soon (.stripTransferCompletion c)
      else if (s.task r.task).state = .killed ∧ !keeps r.ins then
        let s' := match s.xfer c r with | .ok n => mixMem s n s.choice | .error _ => s
        State.stripDone { s' with choice := s'.choice + 1 } c r 2 0
      else s.stripEnd c r (s.xfer c r)
    | _ => s

/-! CHAIN, CHAINM and MV (13 R249, R258). -/

/-- The mask register of a CHAINM. -/
def maskReg (x : Strip) (r : Rec) : Option TileReg :=
  match r.ins with
  | .chainm _ _ m _ => some (vget TileReg.zero x.treg (tileNo m))
  | _ => none
/-- The faults of CHAIN, CHAINM and MV that their pairs have no part in (12 Table 12.10). -/
def State.pairCmdBad (s : State) (c : Nat) (r : Rec) : Bool :=
  let x := s.strip c
  !x.loaded || s.chainBad c r || (match r.ins with
    | .mv _ _ t =>
      let reg := vget TileReg.zero x.treg (tileNo t)
      let want := if accKind x.qfmt x.kfmt = 2 then 7 else 0
      decide (x.mode ≠ 2) || decide (reg.type ≠ want) || decide (reg.cols < x.batch) ||
        (decide (x.kfmt = 0xA) && decide (x.qfmt ≠ 8))
    | _ => decide (x.mode ≠ 1) || (match maskReg x r with
        | some g => !(x.mask && decide (g.type = 0xF) && decide (16 ≤ g.rows))
        | none => false))
/-- The entries of the next pair or group are there (12 R229, R234). -/
def State.pairThere (s : State) (c : Nat) (r : Rec) : Bool :=
  let p := (s.strip c).passes
  (match r.ins with | .mv .. => true | _ => decide (p ≤ (s.entries c false).length)) && decide (p ≤ (s.entries c true).length)
/-- A CHAIN, CHAINM or MV waits at the head of the chain queue until its first pair is there, unless it faults. -/
def State.waitsPair (s : State) (c : Nat) (r : Rec) : Bool :=
  match r.ins with
  | .chain .. | .chainm .. | .mv .. => !(s.strip c).denied r && !s.pairCmdBad c r && !s.pairThere c r
  | _ => false
/-- Entries that make one pair or group: 1 to 64 rows, the same of each, the format, 64 columns. -/
def entriesOk (es : List QEnt) (fmt kn : Nat) : Bool :=
  decide (1 ≤ kn) && decide (kn ≤ 64) &&
    es.all (fun e => decide (e.rows = kn) && decide (e.fmt = fmt) && decide (e.cols = 64))
/-- The rows of the entries of a pair or group. -/
def rowsOf (l : List QEnt) : Nat := match l with | e :: _ => e.rows | [] => 0
/-- What keeps the next pair or group, which is there, from starting (12 R237, Table 12.10): so many groups of a command are
left, from a row of its register on. -/
def State.pairFault (s : State) (c : Nat) (r : Rec) (row left : Nat) : Option Nat :=
  let x := s.strip c
  let ka := (s.entries c false).take x.passes
  let vb := (s.entries c true).take x.passes
  match r.ins with
  | .mv _ _ t =>
    let reg := vget TileReg.zero x.treg (tileNo t)
    if vb.any (·.pois) then some Cause.poison
    else if !entriesOk vb x.kfmt (rowsOf vb) || decide (reg.rows < row + left * rowsOf vb) then some Cause.chainFault
    else none
  | _ =>
    if (ka ++ vb).any (·.pois) then some Cause.poison
    else if !entriesOk ka x.kfmt (rowsOf ka) || !entriesOk vb x.vfmt (rowsOf ka) then some Cause.chainFault
    else none
/-- A CHAIN, CHAINM or MV ends before its first pair, its PAIRS 0 (13 R259). -/
def State.pairRefused (s : State) (c : Nat) (r : Rec) (cause : Nat) : State :=
  (s.mapStrip c (fun x => { x with pairs := 0 })).stripFault c r cause
/-- CHAIN, CHAINM and MV as the strip takes them; their first pair or group is there, and a fault of it leaves the state as
it is, INIT included (13 R249). -/
def State.takeChain (s : State) (c : Nat) (r : Rec) (init : Bool) : State :=
  let x := s.strip c
  if s.pairCmdBad c r || decide (s.pairFault c r 0 (bits r.s1.toNat 15 0 + 1) = some Cause.chainFault) then
    s.pairRefused c r Cause.chainFault
  else
    let x := if init then x.clearRows else x
    (s.setStrip c { x with run := some r, left := bits r.s1.toNat 15 0 + 1, row := 0, pairs := 0, fired := false }).soon
      (.pairFire c)
/-- The task of a running command is debug-halted: the strip holds (12 Table 12.9). -/
def State.chainHeld (s : State) (r : Rec) : Bool := decide ((s.task r.task).stop = .debug)
/-- A pair or group fires once its entries are there. -/
def pairFire (c : Nat) (s : State) : State :=
  let x := s.strip c
  match x.run with
  | none => s
  | some r =>
    let fire (e : Event) : State :=
      if s.chainHeld r then s.soon (.pairFire c)
      else if x.cancel then s.stripDone c r 2 0
      else if !s.pairThere c r then s.soon (.pairFire c)
      else match s.pairFault c r x.row x.left with
        | some cause => s.stripFault c r cause
        | none => (s.setStrip c { x with fired := true }).soon e
    if x.fired then s
    else match r.ins with
      | .chain .. | .chainm .. => fire (.chainCommit c)
      | .mv .. => fire (.mvGroupCommit c)
      | _ => s
/-- A fired pair or group does not commit: its task is halted, or another strip has emptied the shared queue since
(12 R237; log 14). -/
def State.pairOff (s : State) (c : Nat) (r : Rec) : Bool := s.chainHeld r || !s.pairThere c r
/-- A pair commits: the rows of the strip change together and its entries leave (12 R232). -/
def chainCommit (c : Nat) (s : State) : State :=
  let x := s.strip c
  match x.run with
  | none => s
  | some r =>
    if !x.fired then s
    else if s.pairOff c r then (s.setStrip c { x with fired := false }).soon (.pairFire c)
    else
      let p := x.passes
      let mask (i j : Nat) : Bool := match maskReg x r with | some g => bits (g.at i 0) j j = 1 | none => true
      let y := x.chainStep ((s.entries c false).take p) ((s.entries c true).take p) mask
      let s := s.setStrip c { y with fired := false, left := x.left - 1, pairs := x.pairs + 1 }
      let s := (s.popEntries c false p).popEntries c true p
      if x.cancel then s.stripDone c r 2 0
      else if x.left ≤ 1 then s.stripDone c r 0 0
      else s.soon (.pairFire c)
/-- A group commits: its rows are written together and its entries leave (12 R234). -/
def mvGroupCommit (c : Nat) (s : State) : State :=
  let x := s.strip c
  match x.run with
  | none => s
  | some r =>
    match r.ins with
    | .mv _ _ t =>
      if !x.fired then s
      else if s.pairOff c r then (s.setStrip c { x with fired := false }).soon (.pairFire c)
      else
        let n := tileNo t
        let ws := (s.entries c true).take x.passes
        let reg := x.mvRows ws (vget TileReg.zero x.treg n) x.row
        let s := s.setStrip c { x with fired := false, left := x.left - 1, pairs := x.pairs + 1, row := x.row + rowsOf ws,
                                       treg := vset x.treg n reg, tern := x.tern || ws.any QEnt.ternBad }
        let s := s.popEntries c true x.passes
        if x.cancel then s.stripDone c r 2 0
        else if x.left ≤ 1 then s.stripDone c r 0 0
        else s.soon (.pairFire c)
    | _ => s

/-! Charms (12 R235, R236, 13 R254). -/

/-- The charm store of a core. -/
def State.charm (s : State) (core n : Nat) : Charm := fget ⟨0, []⟩ s.charms (core * 256 + n)
/-- A microword that CHLD takes, at its index (12 R236). -/
def microOk (idx : Nat) (w : Word) : Bool :=
  let v := w.toNat
  let a := bits v 59 56
  let b := bits v 55 52
  let im := bits v 47 32
  let tile (n : Nat) : Bool := decide (n < 2) || decide (8 ≤ n)
  decide (bits v 51 48 = 0) && decide (bits v 31 0 = 0) &&
    (match bits v 63 60 with
     | 0 => decide (a = 0) && decide (b = 0) && decide (im = 0)
     | 1 => decide (a < 2) && decide (b < 4) && decide (im = 0)
     | 2 => decide (a < 2) && decide (b < 2) && decide (im = 0)
     | 3 | 4 => tile a && decide (b < 2) && decide (im = 0)
     | 5 => tile a && decide (b < 4) && decide (im = 0)
     | 6 => decide (a < 8) && decide (b < 4) && decide (im = 0)
     | 7 => decide (a < 8) && decide (b = 0)
     | 8 => decide (a < 4) && decide (b = 0) && decide (im ≤ 62) && decide (im < idx)
     | _ => false)
/-- A charm that CHLD takes. -/
def charmOk (ws : List Word) : Bool :=
  (List.zip (List.range ws.length) ws).all (fun p => microOk p.1 p.2) && decide (bits (ws.getLastD 1).toNat 63 60 = 0)
/-- MCALL as the strip takes it. -/
def State.takeMcall (s : State) (c : Nat) (r : Rec) : State :=
  let n := bits r.s1.toNat 7 0
  let ch := s.charm (c / 4) n
  let ok := if n < 16 then decide (n < 8) else !ch.words.isEmpty && decide (ch.vf = (s.task r.task).vf)
  let passes := lget 0 r.stag 1
  if !ok then s.stripFault c r Cause.charmFault
  else if s.chainBad c r || ([0, 1, 3].elem n && (decide (passes.toNat = 0) || decide (4096 < passes.toNat))) then
    s.stripFault c r Cause.chainFault
  else
    let run : CharmRun :=
      { num := n, words := if n < 16 then [] else ch.words, pc := 0, par := Vector.ofFn (fun k => lget 0 r.stag k.val),
        cnt := Vector.replicate 4 0, feeds := Vector.replicate 4 none, accK := Vector.replicate 2 0,
        acc := Vector.replicate 2 [], outs := Vector.replicate 2 none, popA := [], popB := [], nan := false, tern := false }
    (s.mapStrip c (fun x => { x with run := some r, charm := some run, fired := false })).soon (.charmCompletion c)
/-- A tile register as an operand. -/
def TileReg.entry (r : TileReg) : QEnt := ⟨r.rows, r.cols, r.type, r.codes, [], false, [], true⟩
/-- An element of a feed that is there. -/
def QEnt.has (e : QEnt) (i j : Nat) : Bool := decide (i < e.rows) && decide (j < e.cols)
/-- One pass (05 R102): the streamed rows times the stationary columns, 64 elements each. What the feeds do not hold is
free (log 14). -/
def passOf (kind : Nat) (st sr : Option QEnt) (prev : List (List Nat)) (accumulate : Bool) (free : Nat) : List (List Nat) :=
  let any (n : Nat) : Nat := (Config.freeWord (free + n)).toNat % (if kind = 1 then 2 ^ 64 else 2 ^ 32)
  let rows := match sr with | some e => e.rows | none => 64
  let cols := match st with | some e => e.cols | none => 64
  (List.range rows).map (fun i => (List.range cols).map (fun j =>
    let start : Option Nat := if accumulate then (prev[i]?).bind (fun l => l[j]?) else some 0
    match start, st, sr with
    | some a, some b, some x =>
      if (List.range 64).all (fun k => x.has i k && b.has k j) then
        (List.range 64).foldl (fun acc k =>
          macc kind acc (x.val i k) (b.val k j) (intElem x.fmt (lget 0 x.codes (i * x.cols + k)))
            (intElem b.fmt (lget 0 b.codes (k * b.cols + j)))) a
      else any (i * 64 + j)
    | _, _, _ => any (i * 64 + j)))
/-- The value of an accumulator of a kind. -/
def accValue (kind w : Nat) : Fp :=
  match kind with | 1 => fp64.decode w | 2 => Fp.ofInt (sval 32 w) | _ => fp32.decode w
/-- The format of an accumulator of a kind. -/
def accFmt (kind : Nat) : Nat := match kind with | 1 => 0xB | 2 => 7 | _ => 0
/-- The code of an accumulator converted to an element of a type, and whether a NaN was met; added to the element by
RoundNE, it is no conversion, and in its own format its bits are copied: neither sets a flag (05 R95, R96). -/
def accCode (ty kind w : Nat) (add : Option Nat) : Nat × Bool :=
  match add with
  | some old => ((elemCode ty .rne true (Fp.add (elemValue ty old).1 (accValue kind w))).1, false)
  | none => if ty = accFmt kind then (w, false) else elemCode ty .rne false (accValue kind w)
/-- Accumulators written into a register, or added to it, and whether a conversion met a NaN; elements they do not cover
are free (log 14). -/
def TileReg.take (r : TileReg) (kind : Nat) (acc : List (List Nat)) (add : Bool) (free : Nat) : TileReg × Bool :=
  let out := (List.range (r.rows * r.cols)).map (fun e =>
    match ((acc[e / r.cols]?).bind (fun l => l[e % r.cols]?)) with
    | some w => accCode r.type kind w (if add then some (r.at (e / r.cols) (e % r.cols)) else none)
    | none => ((Config.freeWord (free + e)).toNat % 2 ^ elemBits r.type, false))
  (r.fill (out.map (·.1)), out.any (·.2))
/-- What a microword did. -/
inductive CharmRes where
  | go (s : State) (k : CharmRun)
  | wait
  | fault (cause : Nat)
  | done (k : CharmRun)
/-- The register a tile field names. -/
def CharmRun.tile (k : CharmRun) (f : Nat) : Nat := if f < 2 then f else (vget 0 k.par (f - 8)).toNat % 2
/-- Take the head entry of a queue for a charm. -/
def State.charmPop (s : State) (c : Nat) (qb : Bool) (k : CharmRun) : Option (QEnt × State × CharmRun) :=
  match s.entries c qb with
  | [] => none
  | e :: _ => some (e, s.popEntries c qb 1, if qb then { k with popB := k.popB ++ [e] } else { k with popA := k.popA ++ [e] })
/-- One microword. A PASS that accumulates over accumulators of another kind starts from +0 (DESIGN CHOICE, log 14: the
spec does not say what such a pass adds to). -/
def charmStep (c : Nat) (r : Rec) (s : State) (k : CharmRun) : CharmRes :=
  let x := s.strip c
  if k.words.isEmpty then .fault Cause.charmFault
  else
  let w := (lget 0 k.words k.pc).toNat
  let a := bits w 59 56
  let b := bits w 55 52
  let nxt (k : CharmRun) : CharmRun := { k with pc := k.pc + 1 }
  match bits w 63 60 with
  | 0 => .done k
  | 1 =>
    match s.charmPop c (decide (a = 1)) k with
    | none => .wait
    | some (e, s', k') => if e.pois then .fault Cause.poison else .go s' (nxt { k' with feeds := vset k'.feeds b (some e) })
  | 2 =>
    let st := vget none k.feeds (2 * a)
    let sr := vget none k.feeds (2 * a + 1)
    let f (e : Option QEnt) : Nat := match e with | some e => e.fmt | none => 0
    let kind := accKind (f st) (f sr)
    let acc := passOf kind st sr (vget [] k.acc a) (decide (b = 1) && decide (vget 0 k.accK a = kind)) s.choice
    let bad (e : Option QEnt) : Bool := match e with | some e => e.ternBad | none => false
    .go { s with choice := s.choice + 65536 }
      (nxt { k with acc := vset k.acc a acc, accK := vset k.accK a kind, tern := k.tern || bad st || bad sr })
  | 3 | 4 =>
    let n := k.tile a
    let reg := vget TileReg.zero x.treg n
    if !x.holds r n || decide (reg.type = 0xF) then .fault Cause.charmFault
    else
      let (new, nan) := reg.take (vget 0 k.accK b) (vget [] k.acc b) (decide (bits w 63 60 = 3)) s.choice
      .go { s with choice := s.choice + 65536 } (nxt { k with outs := vset k.outs n (some new), nan := k.nan || nan })
  | 5 =>
    let n := k.tile a
    if !x.holds r n then .fault Cause.charmFault
    else .go s (nxt { k with feeds := vset k.feeds b (some (vget TileReg.zero x.treg n).entry) })
  | 6 => .go s (nxt { k with cnt := vset k.cnt b (vget 0 k.par a).toNat })
  | 7 => .go s (nxt { k with par := vset k.par a (vget 0 k.par a + wordOf (sext 16 (bits w 47 32))) })
  | _ =>
    let n := vget 0 k.cnt a
    if 1 < n then .go s { k with cnt := vset k.cnt a (n - 1), pc := bits w 47 32 }
    else .go s (nxt { k with cnt := vset k.cnt a 0 })
/-- A step of a firmware charm (13 Table 13.5); `pc` counts its passes or groups. A pass whose entries change the kind of the
accumulators reads their bits in the new kind (DESIGN CHOICE, log 14: the spec does not say what such a pass adds to), and RoundNE sums
and products are no conversions (05 R96). -/
def firmStep (c : Nat) (r : Rec) (s : State) (k : CharmRun) : CharmRes :=
  let x := s.strip c
  let par (n : Nat) : Nat := (vget 0 k.par n).toNat
  let tile (n : Nat) : Nat := par n % 2
  let reg (n : Nat) : TileReg := vget TileReg.zero x.treg n
  match k.num with
  | 0 | 1 | 3 =>
    let n := tile 0
    let d := reg n
    if !x.holds r n then .fault Cause.charmFault
    else if k.pc < par 1 then
      match s.entries c false, s.entries c true with
      | ea :: _, eb :: _ =>
        if ea.pois || eb.pois then .fault Cause.poison
        else
          let kind := accKind ea.fmt eb.fmt
          if (k.num = 3 ∧ (ea.fmt ≠ 0xB ∨ eb.fmt ≠ 0xB)) ∨ d.rows < ea.rows ∨ d.cols < 64 then .fault Cause.chainFault
          else
            let acc := passOf kind (some eb) (some ea) (vget [] k.acc 0) (decide (k.pc ≠ 0)) s.choice
            let s := (s.popEntries c false 1).popEntries c true 1
            .go { s with choice := s.choice + 65536 }
              { k with pc := k.pc + 1, acc := vset k.acc 0 acc, accK := vset k.accK 0 kind, popA := k.popA ++ [ea],
                       popB := k.popB ++ [eb], tern := k.tern || ea.ternBad || eb.ternBad }
      | _, _ => .wait
    else if d.type = 0xF then .fault Cause.charmFault
    else if (k.num = 1 ∧ d.type ≠ 0) ∨ (k.num = 3 ∧ d.type ≠ 0xB) then .fault Cause.chainFault
    else
      let acc := vget [] k.acc 0
      let kind := vget 0 k.accK 0
      let (out, nan) := (List.zip (List.range acc.length) acc).foldl (fun o (i, row) =>
        (List.zip (List.range row.length) row).foldl (fun (o, nan) (j, w) =>
          let (code, n) := accCode d.type kind w (if k.num = 1 then some (d.at i j) else none)
          (o.put (i * d.cols + j) code, nan || n)) o) (d, false)
      .done { k with outs := vset k.outs n (some out), nan := nan }
  | 2 =>
    let a := reg (tile 0)
    let d := reg (tile 1)
    if !x.holds r (tile 0) || !x.holds r (tile 1) then .fault Cause.charmFault
    else if d.rows ≠ a.cols ∨ d.cols ≠ a.rows ∨ d.type ≠ a.type then .fault Cause.chainFault
    else
      let out := d.fill ((List.range (d.rows * d.cols)).map (fun e => a.at (e % d.cols) (e / d.cols)))
      .done { k with outs := vset k.outs (tile 1) (some out) }
  | 4 | 5 =>
    let n := tile 0
    let d := (vget none k.outs n).getD (reg n)
    let ws := (s.entries c true).take x.passes
    let kn := match ws with | e :: _ => e.rows | [] => 0
    let want := if accKind x.qfmt x.kfmt = 2 then 7 else 0
    if !x.holds r n then .fault Cause.charmFault
    else if x.mode ≠ 2 ∨ !x.loaded ∨ d.type ≠ want ∨ d.cols < x.batch ∨ (x.kfmt = 0xA ∧ x.qfmt ≠ 8) ∨
        (k.num = 5 ∧ (x.kfmt ≠ 0xA ∨ x.qfmt ≠ 8)) then .fault Cause.chainFault
    else if k.pc < par 1 then
      if ws.length < x.passes then .wait
      else if ws.any (·.pois) then .fault Cause.poison
      else
        let row := vget 0 k.cnt 0
        if !entriesOk ws x.kfmt kn || decide (d.rows < row + kn) then .fault Cause.chainFault
        else
          .go (s.popEntries c true x.passes)
            { k with pc := k.pc + 1, cnt := vset k.cnt 0 (row + kn), popB := k.popB ++ ws,
                     outs := vset k.outs n (some (x.mvRows ws d row)), tern := k.tern || ws.any QEnt.ternBad }
    else .done k
  | 6 =>
    let a := reg (tile 0)
    let b := reg (tile 1)
    let d := reg (tile 2)
    if !x.holds r (tile 0) || !x.holds r (tile 1) || !x.holds r (tile 2) || decide (d.type = 0xF) then .fault Cause.charmFault
    else if a.rows ≠ d.rows ∨ a.cols ≠ d.cols ∨ b.rows ≠ d.rows ∨ b.cols ≠ d.cols then .fault Cause.chainFault
    else
      let v (q : TileReg) (e : Nat) : Fp := (elemValue q.type (q.at (e / q.cols) (e % q.cols))).1
      let out := (List.range (d.rows * d.cols)).map (fun e => elemCode d.type .rne true (Fp.add (v a e) (v b e)))
      .done { k with outs := vset k.outs (tile 2) (some (d.fill (out.map (·.1)))) }
  | _ =>
    let a := reg (tile 0)
    let d := reg (tile 2)
    if !x.holds r (tile 0) || !x.holds r (tile 2) || decide (d.type = 0xF) then .fault Cause.charmFault
    else if a.rows ≠ d.rows ∨ a.cols ≠ d.cols then .fault Cause.chainFault
    else
      let f := fp32.decode (par 1 % 4294967296)
      let out := (List.range (d.rows * d.cols)).map (fun e =>
        elemCode d.type .rne true (Fp.mul (elemValue a.type (a.at (e / a.cols) (e % a.cols))).1 f))
      .done { k with outs := vset k.outs (tile 2) (some (d.fill (out.map (·.1)))) }
/-- A charm that is abandoned, or that ends by CHARM_FAULT, CHAIN_FAULT or POISON, gives back the entries it took: they stand
before what has come since (for the faults a DESIGN CHOICE: 13 R254 speaks only of tile writes; log 14). -/
def State.charmUndo (s : State) (c : Nat) (k : CharmRun) : State :=
  (s.unpop c false k.popA).unpop c true k.popB
/-- Run a charm for some microwords; a wait keeps its place. -/
def charmRun (c : Nat) (r : Rec) : Nat → State → CharmRun → State
  | 0, s, k => (s.mapStrip c (fun x => { x with charm := some k })).soon (.charmCompletion c)
  | n + 1, s, k =>
    match (if k.num < 16 then firmStep c r s k else charmStep c r s k) with
    | .go s' k' => charmRun c r n s' k'
    | .wait => (s.mapStrip c (fun x => { x with charm := some k })).soon (.charmCompletion c)
    | .fault cause => ((s.charmUndo c k).flagTask r.task (flagBits k.nan k.tern)).stripFault c r cause
    | .done k' =>
      let put (x : Strip) (n : Nat) : Strip := match vget none k'.outs n with
        | some t => { x with treg := vset x.treg n t }
        | none => x
      ((s.mapStrip c (fun x => put (put x 0) 1)).flagTask r.task (flagBits k'.nan k'.tern)).stripDone c r 0 0
/-- A charm goes on, to its END or to a queue that is empty. -/
def charmCompletion (c : Nat) (s : State) : State :=
  let x := s.strip c
  match x.run, x.charm with
  | some r, some k => if s.chainHeld r then s.soon (.charmCompletion c) else charmRun c r 4096 s k
  | _, _ => s
/-- A running charm of a debug-halted task starts again from its start (12 Table 12.9). -/
def State.restartCharm (s : State) (c : Nat) : State :=
  match (s.strip c).run, (s.strip c).charm with
  | some r, some k =>
    let s := s.charmUndo c k
    s.mapStrip c (fun x => { x with charm := some { k with
      pc := 0, par := Vector.ofFn (fun j => lget 0 r.stag j.val), cnt := Vector.replicate 4 0,
      feeds := Vector.replicate 4 none, acc := Vector.replicate 2 [], outs := Vector.replicate 2 none,
      popA := [], popB := [], nan := false, tern := false } })
  | _, _ => s
/-- CHLD's checks (14 R273): the microwords, or the cause. -/
def State.chldWords (s : State) (r : Rec) : Except Nat (List Word) :=
  let t := s.task r.task
  let n := bits r.s2.toNat 7 0
  let count := bits r.s2.toNat 13 8 + 1
  let mine := (unitCols t.unit t.width).any (fun c => decide (16 + 60 * (c % 4) ≤ n) && decide (n ≤ 75 + 60 * (c % 4)))
  match s.lsSpan t 1 r.col r.s1 8 (8 * count) true with
  | .error e => .error e
  | .ok a =>
    let ws : List Word := (s.packed a 64 count).map (BitVec.ofNat 64)
    if bits r.s2.toNat 63 14 ≠ 0 then .error Cause.chainFault
    else if n < 16 ∨ !mine ∨ !charmOk ws then .error Cause.charmFault
    else .ok ws
/-- CHLD as the strip takes it. -/
def State.takeChld (s : State) (c : Nat) (r : Rec) : State :=
  match s.chldWords r with
  | .error e => s.stripFault c r e
  | .ok _ => (s.mapStrip c (fun x => { x with run := some r, fired := false })).soon (.charmWrite c)
/-- The charm is written once no strip of the core runs it. -/
def charmWrite (c : Nat) (s : State) : State :=
  match (s.strip c).run with
  | none => s
  | some r =>
    match r.ins with
    | .chld .. =>
      let n := bits r.s2.toNat 7 0
      let busy := (List.range 4).any (fun k => match (s.strip (c / 4 * 4 + k)).charm with
        | some q => decide (q.num = n)
        | none => false)
      if busy then s.soon (.charmWrite c)
      else match s.chldWords r with
        | .error e => s.stripFault c r e
        | .ok ws =>
          State.stripDone { s with charms := fset ⟨0, []⟩ s.charms (c / 4 * 256 + n) ⟨(s.task r.task).vf, ws⟩ } c r 0 0
    | _ => s

/-! Taking records (13 R240). -/

/-- The strip takes a record. -/
def State.takeRec (s : State) (c : Nat) (r : Rec) : State :=
  let x := s.strip c
  let begin (s : State) : State :=
    let s := s.mapStrip c (fun x => { x with run := some r, fmts := (s.core (c / 4)).fmt, fired := false })
    match s.xfer c r with
    | .error e => s.stripFault c r e
    | .ok _ => s.soon (.stripTransferCompletion c)
  let drop (s : State) : State :=
    s.mapTask r.task (fun t => { t with results := t.results.filter (fun p => decide (p.id ≠ r.id)) })
  if x.denied r then
    match r.ins with
    | .mpoll .. => (drop s).raise r.task Cause.owner r.col
    | .chain .. | .chainm .. | .mv .. => s.pairRefused c r Cause.owner
    | _ => (drop s).stripFault c r Cause.owner
  else match r.ins with
    | .mcfg .. => s.takeMcfg c r
    | .tcfg _ _ t => s.takeTcfg c r (tileNo t)
    | .tzero _ t => s.takeTzero c r (tileNo t)
    | .treshape _ _ t => s.takeTreshape c r (tileNo t)
    | .tldq .. | .tld .. | .tst .. | .tstO .. | .stsave .. | .stld .. | .stldMerge .. | .mvb .. => begin s
    | .qbind _ _ q => s.takeQbind c r (q.getLsbD 0)
    | .qdrop _ q u f => s.takeQdrop c r (q.getLsbD 0) (u.getLsbD 0) (f.getLsbD 0)
    | .chain _ _ i => s.takeChain c r (i.getLsbD 0)
    | .chainm _ _ _ i => s.takeChain c r (i.getLsbD 0)
    | .chfin .. => s.takeChfin c r
    | .mcall .. => s.takeMcall c r
    | .mv .. => s.takeChain c r false
    | .mpoll .. => s.takeMpoll c r
    | .chld .. => s.takeChld c r
    | .ftld _ _ n => s.takeFtld c r n.toNat
    | .fmld _ _ n => s.takeFmld c r n.toNat
    | .rowstat _ _ o h t => s.takeRowstat c r o.toNat (h.getLsbD 0) (tileNo t)
    | _ => s
/-- A chain word that reads LS. -/
def readsLs : Instr → Bool
  | .tldq .. | .tld .. | .stld .. | .stldMerge .. | .mvb .. | .chld .. | .ftld .. | .fmld .. => true
  | _ => false
/-- A charm that was saved with its task is read again from the core's charm store, where it may not be loaded (14 R273). -/
def State.recharm (s : State) (c : Nat) : State :=
  s.mapStrip c (fun x => match x.run, x.charm with
    | some r, some k =>
      let ch := s.charm (c / 4) k.num
      if k.num < 16 ∨ !k.words.isEmpty ∨ ch.vf ≠ (s.task r.task).vf then x else { x with charm := some { k with words := ch.words } }
    | _, _ => x)
/-- What a strip does next is looked at again: its running command and its bound queues. -/
def State.rerun (s : State) (c : Nat) : State :=
  let s := (s.wakeBound c false).wakeBound c true
  match (s.strip c).run with
  | none => s
  | some r => match r.ins with
    | .chain .. | .chainm .. | .mv .. => if (s.strip c).fired then s else s.soon (.pairFire c)
    | .mcall .. => (s.recharm c).soon (.charmCompletion c)
    | .chld .. => s.soon (.charmWrite c)
    | _ => s.soon (.stripTransferCompletion c)
/-- The strip of a unit's column takes its next record if it is free. -/
def State.pokeStrip (s : State) (u width col : Nat) : State :=
  let c := physCol u width col
  if (s.strip c).run.isSome then s
  else match (s.unit u).qChain.find? (fun r => decide (r.col = col)) with
    | none => s
    | some r =>
      if s.chainHeld r then s
      else if s.waitsPair c r || (readsLs r.ins && s.lsStores (c / 4)) then s.soon (.commandRecordEntry u .chain)
      else
        let s := s.mapUnit u (fun x => { x with qChain := x.qChain.filter (fun q => decide (q.id ≠ r.id)) })
        (s.takeRec c r).soon (.commandRecordEntry u .chain)
/-- Every strip of a unit looks at the chain queue; MREP's records leave it at once (13 R255). -/
def State.pokeChain (s : State) (u : Nat) : State :=
  let rep (r : Rec) : Bool := match r.ins with | .mrep .. => true | _ => false
  let s := if (s.unit u).qChain.any rep then
      (s.mapUnit u (fun x => { x with qChain := x.qChain.filter (fun r => !rep r) })).soon (.commandRecordEntry u .chain)
    else s
  let w := widthCols ((s.core (coreOf u)).split.toNat % 8)
  (List.range w).foldl (fun s k => s.pokeStrip u w k) s

/-! Bound queues (12 R230). -/

/-- Words of a complete bound entry of KN rows. -/
def boundWords (kn fmt : Nat) : Nat := kn * 64 * elemBits fmt / 64
/-- An entry from its words, elements row by row; the words bring no MX scales, which are free (log 14). -/
def boundEntry (kn fmt free : Nat) (ws : List Word) : QEnt :=
  let bs := ws.flatMap (fun w => bytesOf 8 w.toNat)
  let w := elemBits fmt
  ⟨kn, 64, fmt, (List.range (kn * 64)).map (fun k => packedAt bs (k * w) w),
    if isMx fmt then (List.range (2 * kn)).map (fun k => (Config.freeWord (free + k)).toNat % 256) else [], false, [], true⟩
/-- The oldest word of a bound link register joins its queue's current entry. -/
def boundQueueWord (c : Nat) (qb : Bool) (s : State) : State :=
  let x := s.strip c
  match x.bound qb with
  | none => s
  | some (n, kn, fmt) =>
    let t := s.task x.holder
    let col := (s.unitOfCol c).2
    let b := t.bank col
    let lq := vget Lq.none b.lq n
    match lq.fifo with
    | [] => s
    | w :: _ =>
      let q := x.queue qb
      let full := decide (4 ≤ q.length) && q.all (·.done)
      if full then s
      else
        let s := s.setTask (t.setBank col (b.pop n))
        let free := s.choice
        let s : State := { s with choice := s.choice + 128 }
        let q' := if q.all (·.done) then q ++ [⟨kn, 64, fmt, [], [], false, [w], false⟩]
          else q.map (fun e => if e.done then e else { e with words := e.words ++ [w] })
        let q' := q'.map (fun e => if !e.done && decide (boundWords kn fmt ≤ e.words.length) then boundEntry kn fmt free e.words else e)
        (s.setStrip c (x.setQueue qb q')).soon (.boundQueueWord c qb)

def execStripTransferCompletion (s : State) : R :=
  match s.ev with | .stripTransferCompletion c => .next (stripTransferCompletion c s) | _ => .next s
def execPairFire (s : State) : R := match s.ev with | .pairFire c => .next (pairFire c s) | _ => .next s
def execCharmWrite (s : State) : R := match s.ev with | .charmWrite c => .next (charmWrite c s) | _ => .next s
def execBoundQueueWord (s : State) : R :=
  match s.ev with | .boundQueueWord c qb => .next (boundQueueWord c qb s) | _ => .next s

end Sys2Proof.Machine
end

