-- ==== Sys2Proof/Machine/Copy.lean ====
section
/-!
DEFINITION. The copy words of the D slot and the channels that carry them out (10 R187 to R206, 11 R222, 01 R16 to R26):
entries, transfer lists, queue fills, commits, tile flips, circular buffers, status, and the events TAKE_FLIP,
CBCFG_APPLY, COMPLETION_RECORD, TTINV_COMPLETION, DELIVERED_RESULT_WRITE, COMMAND_RECORD_ENTRY and SLIP_STOP.
-/
namespace Sys2Proof.Machine

/-! Words. -/

def execCpy (g : Guard) (k : BitVec 1) (s : State) : R := s.rec0 g (.cpy g k) .copy
def execCpyl (g : Guard) (a b : RegF) (k : BitVec 1) (s : State) : R := s.rec2 g (.cpyl g a b k) .copy a b
def execCpyq (g : Guard) (k q : BitVec 1) (s : State) : R := s.rec0 g (.cpyq g k q) .copy
def execKvcommit (g : Guard) (a b : RegF) (k : BitVec 1) (s : State) : R := s.rec2 g (.kvcommit g a b k) .copy a b
def execGive (g : Guard) (a b : RegF) (e : BitVec 3) (h : BitVec 2) (s : State) : R := s.rec2 g (.give g a b e h) .copy a b
def execTake (g : Guard) (a b : RegF) (e : BitVec 3) (h : BitVec 2) (s : State) : R := s.rec2 g (.take g a b e h) .copy a b
def execCbcfg (g : Guard) (a : RegF) (n : BitVec 3) (s : State) : R := s.rec1 g (.cbcfg g a n) .copy a
def execCbpush (g : Guard) (n : BitVec 3) (s : State) : R := s.rec0 g (.cbpush g n) .copy
def execCbpop (g : Guard) (a : RegF) (n : BitVec 3) (s : State) : R :=
  s.recDst g (.cbpop g a n) .copy a 0 (some n.toNat)
def execCpyst (g : Guard) (a : RegF) (s : State) : R := s.recDst g (.cpyst g a) .copy a 0 none
def execTtinv (g : Guard) (a b : RegF) (m : BitVec 2) (s : State) : R :=
  s.privileged 4 (s.rec2 g (.ttinv g a b m) .copy a b)

/-! Entries (10 Tables 10.2 to 10.4). -/

structure Entry where
  w0 : Nat
  w1 : Nat
  w2 : Nat
  w3 : Nat
def Entry.skind (e : Entry) : Nat := bits e.w3 3 2
def Entry.dkind (e : Entry) : Nat := bits e.w3 1 0
def Entry.dmfmt (e : Entry) : Nat := bits e.w3 9 6
def Entry.raw (e : Entry) : Bool := decide (bits e.w3 10 10 = 1)
def Entry.cb (e : Entry) : Nat := bits e.w3 13 11
def Entry.cbe (e : Entry) : Bool := decide (bits e.w3 14 14 = 1)
def Entry.e0 (e : Entry) : Nat := bits e.w2 15 0 + 1
def Entry.e1 (e : Entry) : Nat := bits e.w2 31 16 + 1
/-- An endpoint word of a kind with a reserved bit set. -/
def endBad (kind w : Nat) : Bool :=
  match kind with | 1 => decide (bits w 63 22 ≠ 0) | 2 => decide (bits w 63 28 ≠ 0) | 3 => true | _ => false
/-- The checks of an entry's words alone; `fill` for CPYQ, which has no destination end. -/
def Entry.bad (e : Entry) (fill : Bool) : Bool :=
  decide (bits e.w3 63 16 ≠ 0) || decide (bits e.w3 5 4 ≠ 0) || endBad e.skind e.w0 || (!fill && endBad e.dkind e.w1) ||
    (e.raw && (decide (e.skind = 0) || (!fill && decide (e.dkind = 0)))) || isMx e.dmfmt || decide (11 < e.dmfmt)
/-- The side of the entry's buffer that a channel of a unit is, if it is one (10 R191); the producer where it is both (DESIGN
CHOICE: R191 does not say which; log 57). -/
def cbSide (d : Word) (col : Nat) : Option Bool :=
  if cbAgent d true = 1 ∧ cbChan d true = col then some true
  else if cbAgent d false = 1 ∧ cbChan d false = col then some false
  else none
/-- The ring that replaces an LS end: descriptor and side; none without CBE. The flag says the entry is malformed. -/
def State.ringOf (s : State) (u col : Nat) (e : Entry) (fill : Bool) : Option (Word × Bool) × Bool :=
  if !e.cbe then (none, false)
  else
    let d := s.cb u e.cb
    match cbSide d col with
    | none => (none, true)
    | some true => (some (d, true), fill || decide (e.dkind ≠ 1))
    | some false => (some (d, false), decide (e.skind ≠ 1))

/-! Ends of entries (10 R190). -/

/-- The elements of an LS end, packed, and whether a rule of R190 makes the entry malformed. -/
def State.lsEnd (s : State) (t : Task) (fmts : Vector Lane 8) (col : Nat) (e : Entry) (w : Nat)
    (ring : Option (Word × Bool)) (n : Nat) : List LocR × Bool :=
  let byte := if ring.isSome then 0 else bits w 11 0
  let tiles (k : Nat) : Nat := match ring with
    | some (d, prod) => cbTile d (cbPtr d prod + k)
    | none => bits w 21 12 + k
  let lim := match ring with | some (d, prod) => cbNum d prod | none => 1024
  let f0 := if e.raw then 8 else tileFmt fmts (t.lsBase + tiles 0)
  let l := s.lsLocs t fmts 0 col tiles lim e.raw n 0 (if isMx f0 then 0 else byte * 8)
  let fs := f0 :: l.filterMap (fun x => match x with | .ok l => some l.fmt | .error _ => none)
  (l, decide (byte * 8 % elemBits f0 ≠ 0) ||
    fs.eraseDups.any (fun f => if isMx f then decide (byte ≠ 0) || decide (e.e0 % 32 ≠ 0) else decide (e.e0 * elemBits f % 8 ≠ 0)) ||
    l.any (fun x => match x with | .error .malformed => true | _ => false))
/-- One element of an end as an entry finds it when it starts: named, or why it has no place. A page that is absent is
found only when the element is read or written. -/
abbrev SpotR := Except LocErr Spot
/-- An end of an entry: the elements of the rows wanted, in order, and whether it is malformed. `c1` gives a tensor end's
row coordinate; a packed end's row j starts j rows after the end. A ring that is the source holds every row of the entry, accepted
or not (10 R191, R201). -/
def State.entryEnd (s : State) (t : Task) (fmts : Vector Lane 8) (col : Nat) (e : Entry) (src : Bool)
    (ring : Option (Word × Bool)) (rows : List Nat) (c1 : Nat → Nat) : List SpotR × Bool :=
  let w := if src then e.w0 else e.w1
  let e0 := e.e0
  let top := rows.foldl (fun a j => max a (j + 1)) (if src && ring.isSome then e.e1 else 0)
  let pick (f : Nat → Nat → SpotR) : List SpotR := rows.flatMap (fun j => (List.range e0).map (fun k => f j k))
  match if src then e.skind else e.dkind with
  | 0 =>
    let c3 := if src then bits e.w2 63 48 else bits e.w2 47 32
    (pick (fun j k =>
      let p : Spot := .tn (bits w 63 48) (bits w 15 0 + k) (c1 j) (bits w 47 32) c3
      match s.spotLoc t p (!src) with
      | .ok _ | .error (.page ..) | .error .busy => .ok p
      | .error x => .error x), false)
  | 1 =>
    let (l, bad) := s.lsEnd t fmts col e w ring (top * e0)
    (pick (fun j k => (locAt l (j * e0 + k)).map .at), bad)
  | _ =>
    let fmt := if e.raw then 8 else e.dmfmt
    (pick (fun j k => (s.dmLoc t (bits w 27 0) fmt (j * e0 + k)).map .at),
      decide (bits w 27 0 * 8 % elemBits fmt ≠ 0) || decide (e0 * elemBits fmt % 8 ≠ 0))

/-- What an entry that starts is to do: its elements; or it fails, with a status, a cause, whether the firmware is told,
the elements of it that are moved all the same, and those of which each may be (10 R196; log 9). -/
inductive Plan where
  | fail (status cause : Nat) (event : Bool) (sure maybe : List Item)
  | go (items : List Item)
/-- A malformed entry of which nothing is moved. -/
def Plan.malformed : Plan := .fail 2 0 false [] []
/-- The pairs both of whose elements have a place; `last` tells the pairs that end a row that counts. -/
def goodPairs (last : Nat → Bool) (a b : List SpotR) : List Item :=
  (List.zip (List.range a.length) (List.zip a b)).filterMap (fun p => match p.2 with
    | (.ok x, .ok y) => some ⟨x, y, last p.1⟩
    | _ => none)
/-- The number and the error of the first pair that lacks a place, in element order. -/
def pairErr (a b : List SpotR) : Option (Nat × LocErr) :=
  (List.zip (List.range a.length) (List.zip a b)).findSome? (fun p => match p.2 with
    | (.error e, _) | (_, .error e) => some (p.1, e)
    | _ => none)
/-- The side of the ring that an end of an entry is, if the entry is one. -/
def endRing (ring : Option (Word × Bool)) (src : Bool) : Option (Word × Bool) :=
  ring.bind (fun p => if p.2 == !src then some p else none)
/-- The plan of an entry for pairs of rows, source and destination. A KVCOMMIT that faults has moved the rows before the
failing one (10 R201). -/
def State.plan (s : State) (t : Task) (fmts : Vector Lane 8) (col : Nat) (e : Entry) (rows : List (Nat × Nat))
    (commit : Bool) : Plan :=
  let (ring, bad) := s.ringOf t.unit col e false
  if e.bad false || bad then .malformed
  else
    let (a, ba) := s.entryEnd t fmts col e true (endRing ring true) (rows.map (·.1)) (fun j => bits e.w0 31 16 + j)
    let (b, bb) := s.entryEnd t fmts col e false (endRing ring false) (rows.map (·.2))
      (fun j => if commit then j else bits e.w1 31 16 + j)
    let last (k : Nat) : Bool := commit && decide (k % e.e0 = e.e0 - 1)
    if ba || bb then .fail 2 0 false [] (goodPairs (fun _ => false) a b)
    else match pairErr a b with
      | none => .go (goodPairs last a b)
      | some (_, .malformed) | some (_, .page ..) | some (_, .busy) => .fail 2 0 false [] (goodPairs (fun _ => false) a b)
      | some (k, .fault cause ev) =>
        let n := if commit then k / e.e0 * e.e0 else 0
        let m := if commit then e.e0 else a.length
        .fail 1 cause ev (goodPairs last (a.take n) (b.take n))
          (goodPairs (fun _ => false) ((a.drop n).take m) ((b.drop n).take m))

/-! The state of a channel. -/

/-- A channel by physical column of the package. -/
def State.chan (s : State) (c : Nat) : Chan := fget Chan.zero s.chans c
def State.setChan (s : State) (c : Nat) (x : Chan) : State := { s with chans := fset Chan.zero s.chans c x }
/-- Change the command that a channel runs. -/
def State.mapRun (s : State) (c : Nat) (f : Run → Run) : State :=
  s.setChan c { s.chan c with run := (s.chan c).run.map f }
/-- The completion record control a command captured (10 Table 10.6): enabled, misaligned, its offset. -/
def recOn (r : Rec) : Bool := (lget 0 r.stag 4).getLsbD 63
def recOff (r : Rec) : Nat := bits (lget 0 r.stag 4).toNat 27 0
def recBad (r : Rec) : Bool := recOn r && decide (recOff r % 8 ≠ 0)
/-- A command ends (10 R195, R206): the channel is free, the record is written if it can be, a fault traps. -/
def State.copyEnd (s : State) (c : Nat) (status cause index : Nat) (event noRecord : Bool) : State :=
  let x := s.chan c
  match x.run with
  | none => s
  | some q =>
    let r := q.cmd
    let t := s.task r.task
    let count := match r.ins with | .kvcommit .. => q.cnt | .ttinv .. => 0 | _ => q.cnt / 8
    let w := 2 ^ 63 + status * 2 ^ 60 + q.pois.toNat * 2 ^ 59 + cause % 256 * 2 ^ 48 + index % 65536 * 2 ^ 32 + count % 2 ^ 32
    let s := if recOn r && !noRecord then s.dmWrite t.die (s.dmAt t.vf t.die (recOff r)) (bytesOf 8 w) else s
    let bad := decide (status = 1) || decide (status = 2)
    let s := s.setChan c { x with run := none, index := index % 65536, cause := if bad then cause else x.cause,
                                  status := status, pois := q.pois, fault := bad, page := false, noPage := false }
    let s := if event then s.report t.vf 1 [t.key] else s
    let s := if status = 1 then s.raise r.task cause r.col else s
    ((s.flagTask r.task (flagBits q.nan q.tern)).settle r.task).poke q.unit

/-! Queue fills (10 R200). -/

/-- The queue a CPYQ names. -/
def fillQueue : Instr → Bool
  | .cpyq _ _ q => q.getLsbD 0
  | _ => false
/-- The queue's entries, complete or filling. -/
def State.queueFull (s : State) (c : Nat) (qb : Bool) : Bool := decide (4 ≤ ((s.strip c).queue qb).length)
/-- The format of a queue's entries, none where the strip's MODE does not use it. -/
def Strip.fillFmt (x : Strip) (qb : Bool) : Option Nat :=
  match x.mode with
  | 1 => some (if qb then x.vfmt else x.kfmt)
  | 2 => if qb then some x.kfmt else none
  | _ => none
/-- The codes and scales of elements read, encoded for a queue, block by block for MX; whether a NaN or bad tern was met. -/
def fillCodes (fmt : Nat) (g : List Got) : List Nat × List Nat × Bool × Bool :=
  if isMx fmt then
    let out := (List.range (g.length / 32)).map (fun k => groupCodes false fmt ((g.drop (32 * k)).take 32))
    (out.flatMap (·.1), out.map (·.2.1), out.any (·.2.2.1), out.any (·.2.2.2))
  else
    let out := g.map (fun x => groupCodes false fmt [x])
    (out.flatMap (·.1), [], out.any (·.2.2.1), out.any (·.2.2.2))
/-- Codes of raw bytes regrouped into elements of a format. -/
def rawCodes (fmt : Nat) (g : List Got) : List Nat :=
  let bs : List Byte := g.map (fun x => BitVec.ofNat 8 x.code)
  (List.range (bs.length * 8 / elemBits fmt)).map (fun k => packedAt bs (k * elemBits fmt) (elemBits fmt))
/-- Columns and bits of a queue entry of a format that an entry fills. -/
def fillCols (fmt : Nat) (e : Entry) : Nat := if e.raw then e.e0 * 8 / elemBits fmt else e.e0
def fillBits (fmt : Nat) (e : Entry) : Nat :=
  e.e1 * fillCols fmt e * elemBits fmt + (if isMx fmt then e.e1 * fillCols fmt e / 32 * 8 else 0)
/-- The first error of an end. -/
def firstErr (l : List SpotR) : Option LocErr := l.findSome? (fun x => match x with | .error e => some e | .ok _ => none)
/-- The plan of a CPYQ's entry. Bytes that move raw into a queue of an MX format, or in rows that are no whole elements of
the queue's format, make it malformed (DESIGN CHOICE, log 26: the spec does not say what such an entry would hold), and so
do more than the 64 rows that an entry can have (DEDUCED from 12 R229, log 26). -/
def State.fill (s : State) (t : Task) (q : Run) (e : Entry) : Plan :=
  let fmt := q.dfmt
  let (ring, bad) := s.ringOf t.unit q.cmd.col e true
  if e.bad true || bad || decide (65536 < fillBits fmt e) || decide (64 < e.e1) ||
      (isMx fmt && (e.raw || decide (e.e0 % 32 ≠ 0))) || (e.raw && decide (e.e0 * 8 % elemBits fmt ≠ 0)) then .malformed
  else
    let (l, ba) := s.entryEnd t q.fmts q.cmd.col e true (endRing ring true) (List.range e.e1) (fun j => bits e.w0 31 16 + j)
    if ba then .malformed
    else match firstErr l with
      | none => .go (l.filterMap (fun x => match x with | .ok p => some ⟨p, p, false⟩ | .error _ => none))
      | some (.fault cause ev) => .fail 1 cause ev [] []
      | some _ => .malformed
/-- The queue entry that a CPYQ has read becomes visible, with all its bytes (10 R200). -/
def State.fillQ (s : State) (c : Nat) (q : Run) (g : List Got) : State :=
  let e : Entry := ⟨(lget 0 q.cmd.stag 0).toNat, 0, (lget 0 q.cmd.stag 2).toNat, (lget 0 q.cmd.stag 3).toNat⟩
  let fmt := q.dfmt
  let (codes, scales, nan, tern) := if e.raw then (rawCodes fmt g, [], false, false) else fillCodes fmt g
  let ent : QEnt := ⟨e.e1, fillCols fmt e, fmt, codes, scales, g.any (·.pois), [], true⟩
  let qb := fillQueue q.cmd.ins
  (s.mapStrip c (fun x => x.setQueue qb (x.queue qb ++ [ent]))).mapRun c (fun q =>
    { q with cnt := q.cnt + fillBits fmt e, pois := q.pois || g.any (·.pois), nan := q.nan || nan, tern := q.tern || tern })

/-! Commands. -/

/-- The single entry a record captured (10 Table 10.1). -/
def recEntry (r : Rec) : Entry :=
  ⟨(lget 0 r.stag 0).toNat, (lget 0 r.stag 1).toNat, (lget 0 r.stag 2).toNat, (lget 0 r.stag 3).toNat⟩
/-- The accepted rows of a KVCOMMIT, packed (10 R201). -/
def acceptedRows (r : Rec) : List (Nat × Nat) :=
  let e := recEntry r
  let js := (List.range e.e1).filter (fun j => r.s1.getLsbD j)
  (List.zip (List.range js.length) js).map (fun p => (p.2, bits r.s2.toNat 15 0 + p.1))
/-- The entries of a command. -/
def cmdTotal (r : Rec) : Nat :=
  match r.ins with
  | .cpyl .. => bits r.s2.toNat 16 0
  | _ => 1
/-- The list of a CPYL: malformed, not owned, or readable (10 R199). -/
def State.listFault (s : State) (t : Task) (r : Rec) : Option (Nat × Nat) :=
  let a := r.s1.toNat
  let n := bits r.s2.toNat 16 0
  if bits a 63 22 ≠ 0 ∨ n = 0 ∨ 65536 < n ∨ a % 32 ≠ 0 then some (2, 0)
  else
    let tiles := (List.range ((a + 32 * n - 1) / 4096 + 1 - a / 4096)).map (fun k => a / 4096 + k)
    if tiles.any (fun v => decide (t.lsSize ≤ v) ||
        decide (s.owner (coreOf t.unit) (t.lsBase + v) ≠ ownerByte 0 r.col (t.unit % 4))) then some (1, Cause.owner)
    else none
/-- Entry n of a CPYL's list. -/
def State.listEntry (s : State) (t : Task) (r : Rec) (n : Nat) : Entry :=
  let a := lsNo (coreOf t.unit) (t.lsBase * 4096 + r.s1.toNat + 32 * n)
  ⟨s.num a 8, s.num (a + 8) 8, s.num (a + 16) 8, s.num (a + 24) 8⟩
/-- The entry number n of a command. -/
def State.nextEntry (s : State) (t : Task) (r : Rec) (n : Nat) : Entry :=
  match r.ins with
  | .cpyl .. => s.listEntry t r n
  | _ => recEntry r
/-- Whether a command fills a queue. -/
def fills : Instr → Bool
  | .cpyq .. => true
  | _ => false
/-- A store of the task to DM or HBM, issued before the command, has not performed (10 R193). -/
def storesPending (t : Task) (id : Nat) : Bool :=
  t.accs.any (fun a => a.st && decide (a.id < id) && (match a.home with | .dm _ | .hbm _ | .unmapped => true | _ => false))
/-- An entry in progress on a unit completes a side of buffer n. -/
def State.sideOpen (s : State) (u n : Nat) (prod : Bool) : Bool :=
  (fvals s.chans).any (fun x => match x.run with
    | some q => decide (q.unit = u) && q.ents.any (fun e => decide (e.side = some (n, prod)))
    | none => false)
/-- The entry may fire: its buffer's side is ready, its queue has room, the task's earlier stores have performed. -/
def State.entryReady (s : State) (c : Nat) (t : Task) (r : Rec) (n : Nat) : Bool :=
  let e := s.nextEntry t r n
  let cbOk := match s.ringOf t.unit r.col e (fills r.ins) with
    | (some (_, prod), false) =>
      !s.cbMine t e.cb || (s.cbReady t.unit e.cb prod && !s.sideOpen t.unit e.cb prod)
    | _ => true
  cbOk && (!fills r.ins || !s.queueFull c (fillQueue r.ins)) && !storesPending t r.id && !s.lsStores (c / 4)
/-- A command that ends as soon as it is taken (10 R195, R199, R200): status, cause, whether no record is written. -/
def State.takeFault (s : State) (c : Nat) (r : Rec) : Option (Nat × Nat × Bool) :=
  let t := s.task r.task
  let x := s.strip c
  if recBad r then some (2, 0, true)
  else if recOn r && decide (t.dmSize ≤ recOff r) then some (1, Cause.segmentFault, true)
  else match r.ins with
    | .cpyl .. => (s.listFault t r).map (fun p => (p.1, p.2, false))
    | .cpyq _ _ q =>
      let qb := q.getLsbD 0
      if (x.bound qb).isSome || s.foreignQueue c || (decide (x.holder ≠ 0) && decide (x.holder ≠ r.task)) then
        some (1, Cause.owner, false)
      else if (x.fillFmt qb).isNone then some (2, 0, false)
      else none
    | _ => none

/-! Entries in progress. -/

/-- The MX block of an element's destination, by key and first byte; none where it is no MX element. Of an absent page, the tile. -/
def State.mxBlock (s : State) (t : Task) (p : Spot) : Option (Nat × Nat × Nat) :=
  match s.spotLoc t p true with
  | .ok l => if isMx l.fmt then some (1, l.key, l.blk) else none
  | .error (.page tid tile) => some (2, tid, tile)
  | .error _ => none
/-- A list past its first element, and past all that share that one's MX block. -/
def State.pastBlock {α : Type} (s : State) (t : Task) (dst : α → Spot) : List α → List α
  | [] => []
  | x :: r => match s.mxBlock t (dst x) with
    | none => r
    | some b => r.dropWhile (fun y => decide (s.mxBlock t (dst y) = some b))
/-- Of some elements, those that the free choice takes: an MX block goes as a whole, and not at all where it is one of `cut`, which the
failing element leaves incomplete (10 R196: each element is old or new). -/
def State.chosen {α : Type} (s : State) (t : Task) (dst : α → Spot) (cut : List (Option (Nat × Nat × Nat))) (base : Nat) (l : List α) :
    List α :=
  ((List.zip (List.range l.length) l).foldl (fun (m : List α × Option (Nat × Nat × Nat) × Bool) p =>
    let b := s.mxBlock t (dst p.2)
    let take := if b.isSome && decide (b = m.2.1) then m.2.2 else !cut.elem b && decide (Config.pick (base + p.1) % 2 = 0)
    (if take then m.1 ++ [p.2] else m.1, b, take)) ([], none, false)).1
/-- The next entry of a running command may start: the command goes on, the earlier entries are performed unless ORD is 0
(10 R192), and it may fire. -/
def State.canStart (s : State) (c : Nat) : Bool :=
  match (s.chan c).run with
  | none => false
  | some q =>
    let t := s.task q.cmd.task
    q.fail.isNone && !q.stop && !(s.chan c).page && decide (q.n < q.tot) &&
      (q.ents.isEmpty || decide (bits (s.nextEntry t q.cmd q.n).w3 15 15 = 0)) && s.entryReady c t q.cmd q.n
/-- An entry in progress with nothing left to do is done; a whole one counts, and completes its side (10 R191). -/
def State.closeEnt (s : State) (c i : Nat) : State :=
  match (s.chan c).run with
  | none => s
  | some q => match q.ents[i]? with
    | none => s
    | some e =>
      if !(e.todo.isEmpty && e.held.isEmpty) then s
      else
        let s := s.mapRun c (fun q => { q with ents := q.ents.eraseIdx i, fin := q.fin + e.whole.toNat })
        match e.side with
        | some (n, prod) => s.cbDone q.unit n prod
        | none => s
/-- MX blocks of which an entry that fails at its start may move only a part: those of fewer than 32 elements. -/
def State.cutBlocks (s : State) (t : Task) (l : List Item) : List (Option (Nat × Nat × Nat)) :=
  let bs := (l.map (fun x => s.mxBlock t x.dst)).filter Option.isSome
  bs.eraseDups.filter (fun b => decide ((bs.filter (· = b)).length < 32))
/-- The next entry of a running command starts, and is checked (10 R196). -/
def State.startEntry (s : State) (c : Nat) : State :=
  match (s.chan c).run with
  | none => s
  | some q =>
    let r := q.cmd
    let t := s.task r.task
    let e := s.nextEntry t r q.n
    let plan := if e.cbe && !s.cbMine t e.cb then Plan.fail 1 Cause.owner false [] [] else match r.ins with
      | .cpyq .. => s.fill t q e
      | .kvcommit .. => if e.skind ≠ 1 ∨ 64 < e.e1 then .malformed else s.plan t q.fmts r.col e (acceptedRows r) true
      | _ => s.plan t q.fmts r.col e ((List.range e.e1).map (fun j => (j, j))) false
    let side := if e.cbe then (match s.ringOf t.unit r.col e (fills r.ins) with
      | (some (_, prod), false) => some (e.cb, prod)
      | _ => none) else none
    let i := q.ents.length
    let s := match plan with
      | .go items =>
        let x : Ent := ⟨q.n, side, e.raw, true, items, [], false⟩
        s.mapRun c (fun q => { q with n := q.n + 1, ents := q.ents ++ [x] })
      | .fail status cause ev sure maybe =>
        let x : Ent := ⟨q.n, none, e.raw, false, sure ++ s.chosen t Item.dst (s.cutBlocks t maybe) s.choice maybe, [], false⟩
        State.mapRun { s with choice := s.choice + maybe.length } c (fun q =>
          { q with n := q.n + 1, fail := some (status, cause, q.n, ev), ents := q.ents ++ [x] })
    (s.closeEnt c i).soon (.completionRecord c)
/-- The elements of a list up to the first that ends a counted row, all where none does. -/
def upToRow {α : Type} (eor : α → Bool) : List α → List α
  | [] => []
  | x :: r => if eor x then [x] else x :: upToRow eor r
/-- An entry in progress fails: at its next element to read, or to write. What it has read and not written, and the rest of
its elements that have places, may be moved, each or not, an MX block only whole; a queue entry is not filled; a KVCOMMIT's rows before the failing one are (10 R196, R201).
Entries started after it go no further (log 26). -/
def State.entFails (s : State) (c i : Nat) (read : Bool) (status cause : Nat) (ev : Bool) : State :=
  match (s.chan c).run with
  | none => s
  | some q => match q.ents[i]? with
    | none => s
    | some e =>
      let rows := e.held.any (·.eor) || e.todo.any (·.eor)
      let n := if read then e.held.length - (e.held.reverse.takeWhile (fun x => !x.eor)).length else 0
      let sure := if rows then e.held.take n else []
      let rest := e.held.drop sure.length
      let held := if rows && !read then upToRow Got.eor rest else rest
      let todo := if rows then (if held.any (·.eor) then [] else upToRow Item.eor e.todo) else e.todo
      let t := s.task q.cmd.task
      let next := todo.head?.bind (fun x => s.mxBlock t x.dst)
      let cut := [if read then next else held.head?.bind (fun x => s.mxBlock t x.dst),
        if held.getLast?.bind (fun x => s.mxBlock t x.dst) = next then next else none].filter Option.isSome
      let fill := fills q.cmd.ins
      let held' := if fill then [] else (s.chosen t Got.dst cut s.choice held).map (fun x => { x with eor := false })
      let todo' := if fill then [] else (s.chosen t Item.dst cut (s.choice + held.length) todo).map (fun x => { x with eor := false })
      let e' := { e with whole := false, side := none, wait := false, held := sure ++ held', todo := todo' }
      (State.mapRun { s with choice := s.choice + held.length + todo.length } c (fun q =>
        { q with ents := q.ents.take i ++ [e'], fail := some (status, cause, e.idx, ev) })).closeEnt c i
/-- Change an entry in progress. -/
def State.mapEnt (s : State) (c i : Nat) (f : Ent → Ent) : State :=
  s.mapRun c (fun q => { q with ents := q.ents.modify i f })
/-- The element that an entry would read or write next has no place now: an absent page is asked for, and the channel waits
at it (11 R215), also where a diversion has stopped its command, which ends at the boundary of the entry; a kill has ended the wait
(11 R217). What is left of a failed entry goes on without the element, or without its MX block. A port whose 256 misses are in use
lets it wait. -/
def State.entMiss (s : State) (c i : Nat) (read : Bool) (err : LocErr) : State :=
  match (s.chan c).run with
  | none => s
  | some q => match q.ents[i]? with
    | none => s
    | some e =>
      let t := s.task q.cmd.task
      let skip : State := (s.mapEnt c i (fun e =>
        if read then { e with todo := s.pastBlock t Item.dst e.todo, held := match e.todo with
            | x :: _ => if (s.mxBlock t x.dst).isSome then e.held.filter (fun y => decide (s.mxBlock t y.dst ≠ s.mxBlock t x.dst)) else e.held
            | [] => e.held }
        else { e with held := s.pastBlock t Got.dst e.held })).closeEnt c i
      let counts := e.todo.any (·.eor) || (!read && e.held.any (·.eor))
      if !e.whole && !counts then (if err = .busy then s else skip)
      else match err with
        | .malformed => s.entFails c i read 2 0 false
        | .fault cause ev => s.entFails c i read 1 cause ev
        | .busy => s
        | .page tid tile =>
          let p := portOf t.die tile
          if q.stop && (!t.alive || t.doom) then s.entFails c i read 3 0 false
          else if s.missFull p t.vf tid tile || s.noRequest p then s
          else
            let (tag, s) := s.pageRequest p t.vf tid tile (!read)
            let s : State := { s with pages := s.pages.map (fun x =>
              if x.tag = tag then { x with chans := if x.chans.elem c then x.chans else x.chans ++ [c] } else x) }
            let s := s.mapRun c (fun q => { q with
              ents := (List.zip (List.range q.ents.length) q.ents).map (fun p => { p.2 with wait := decide (p.1 = i) }) })
            s.setChan c { s.chan c with page := true }
/-- One read of an entry in progress: the elements of one aligned word, or of one MX block. -/
def State.readEnt (s : State) (c i : Nat) : State :=
  match (s.chan c).run with
  | none => s
  | some q => match q.ents[i]? with
    | none => s
    | some e =>
      let t := s.task q.cmd.task
      match s.runAt t false (e.todo.map (·.src)) with
      | .error x => s.entMiss c i true x
      | .ok ls =>
        let got := List.zipWith (fun x l => s.gotOf x l) e.todo ls
        let s := match e.todo with | x :: _ => s.touch t x.src false | [] => s
        s.mapEnt c i (fun e => { e with todo := e.todo.drop ls.length, held := e.held ++ got, wait := false })
/-- The elements that an entry's next write puts into one word or block: all of them have been read, or it writes nothing. -/
def State.groupReady (s : State) (c : Nat) (e : Ent) : Bool :=
  match (s.chan c).run with
  | none => false
  | some q =>
    let t := s.task q.cmd.task
    if e.held.isEmpty then false
    else if fills q.cmd.ins || e.todo.isEmpty then e.todo.isEmpty
    else match s.runAt t true (e.held.map (·.dst)) with
      | .error _ => true
      | .ok ls => decide (ls.length < e.held.length) || (match ls, e.todo with
        | l :: _, x :: _ => (match s.spotLoc t x.dst true with | .ok y => !l.together y | .error _ => true)
        | _, _ => true)
/-- One write of an entry in progress; a queue entry is written as a whole, unless a QBIND has bound its queue since (13 R247). -/
def State.writeEnt (s : State) (c i : Nat) : State :=
  match (s.chan c).run with
  | none => s
  | some q => match q.ents[i]? with
    | none => s
    | some e =>
      let t := s.task q.cmd.task
      if fills q.cmd.ins ∧ ((s.strip c).bound (fillQueue q.cmd.ins)).isSome then s.entFails c i false 1 Cause.owner false
      else if fills q.cmd.ins then ((s.fillQ c q e.held).mapEnt c i (fun e => { e with held := [] })).closeEnt c i
      else match s.runAt t true (e.held.map (·.dst)) with
        | .error x => s.entMiss c i false x
        | .ok ls =>
          let g := List.zip e.held ls
          let m := s.writeGroup t e.raw q.clean g
          let cnt := match q.cmd.ins with | .kvcommit .. => (g.filter (·.1.eor)).length | _ => m.cnt
          ((m.s.mapRun c (fun q => { q with
              clean := m.clean, cnt := q.cnt + cnt, pois := q.pois || m.pois, nan := q.nan || m.nan, tern := q.tern || m.tern })).mapEnt c i
            (fun e => { e with held := e.held.drop ls.length, wait := false })).closeEnt c i
/-- What a channel may do next: read or write of an entry in progress, or the start of the next one. -/
inductive Act where
  | read (i : Nat)
  | write (i : Nat)
  | start
/-- Every one of them. -/
def State.acts (s : State) (c : Nat) : List Act :=
  match (s.chan c).run with
  | none => []
  | some q =>
    ((List.zip (List.range q.ents.length) q.ents).flatMap (fun p =>
      (if p.2.todo.isEmpty then [] else [.read p.1]) ++ (if s.groupReady c p.2 then [.write p.1] else []))) ++
      (if s.canStart c then [.start] else [])
/-- An advance that a channel's command has brought about is due. -/
def State.advanceDue (s : State) (q : Run) : Bool :=
  (s.unit q.unit).cbDue.any (fun d => match cbSide (s.cb q.unit d.1) q.cmd.col with
    | some p => decide (p = d.2)
    | none => false)
/-- One step of a channel, by free choice among what it may do (10 R192); at the end of its command, the record. -/
def completionRecord (c : Nat) (s : State) : State :=
  let x := s.chan c
  match x.run with
  | none => s
  | some q =>
    if x.page || (match q.cmd.ins with | .ttinv .. => true | _ => false) then s
    else if s.lsStores (c / 4) || s.advanceDue q then s.soon (.completionRecord c)
    else
      let waiting := if x.noPage then q.ents.findIdx? (·.wait) else none
      let s := if x.noPage then s.setChan c { x with noPage := false } else s
      match waiting, q.ents, q.fail with
      | some i, _, _ =>
        let t := s.task q.cmd.task
        let read := match q.ents[i]? with
          | some e => e.held.isEmpty || (match e.todo with
            | y :: _ => (match s.spotLoc t y.src false with | .error (.page ..) => true | _ => false)
            | [] => false)
          | none => true
        (s.entFails c i read 1 Cause.xlateFault false).soon (.completionRecord c)
      | none, [], some (status, cause, index, ev) => s.copyEnd c status cause (if status = 3 then q.fin else index) ev false
      | none, [], none =>
        if q.stop then s.copyEnd c 3 0 q.fin false false
        else if q.tot ≤ q.n then s.copyEnd c 0 0 (match q.cmd.ins with | .cpyl .. => q.n | _ => 1) false false
        else if s.canStart c then s.startEntry c
        else s.soon (.completionRecord c)
      | none, _ :: _, _ =>
        let l := s.acts c
        let (k, s) := s.choose
        let s := match l[k % l.length]? with
          | some (.read i) => s.readEnt c i
          | some (.write i) => s.writeEnt c i
          | some .start => s.startEntry c
          | none => s
        s.soon (.completionRecord c)
/-- A channel begins a command: its formats are sampled, and its first entry starts, which may fire. -/
def State.beginCopy (s : State) (c : Nat) (r : Rec) : State :=
  let t := s.task r.task
  let dfmt := ((s.strip c).fillFmt (fillQueue r.ins)).getD 16
  let run : Run := ⟨r, t.unit, (s.core (c / 4)).fmt, dfmt, 0, 0, cmdTotal r, 0, false, false, false, false, [], none, []⟩
  let bad := s.takeFault c r
  let s := s.setChan c { s.chan c with run := some run, index := 0, page := false, noPage := false }
  match bad, r.ins with
  | some (status, cause, noRecord), _ => s.copyEnd c status cause 0 false noRecord
  | none, .ttinv .. => s.soon (.ttinvCompletion c)
  | none, _ => s.startEntry c

/-! TTINV (11 R222). -/

/-- What a TTINV drops at every port. -/
def State.dropEntries (s : State) (vf tid mode first count : Nat) : State :=
  let same (v n : Nat) : Bool := decide (v = vf) && (decide (mode = 2) || decide (n = tid))
  { s with ports := s.ports.map (fun p => (p.1, { p.2 with
      desc := if mode < 2 then p.2.desc else p.2.desc.filter (fun d => !same d.vf d.tid),
      tile := p.2.tile.filter (fun e => !(same e.vf e.tid &&
        (decide (mode ≠ 0) || (decide (first ≤ e.tile) && decide (e.tile < first + count))))) })) }
def ttinvCompletion (c : Nat) (s : State) : State :=
  match (s.chan c).run with
  | none => s
  | some q =>
    match q.cmd.ins with
    | .ttinv _ _ _ m =>
      let a := q.cmd.s1.toNat
      let b := q.cmd.s2.toNat
      (s.dropEntries (bits a 25 16) (bits a 15 0) m.toNat (bits b 31 0) (bits b 63 32)).copyEnd c 0 0 1 false false
    | _ => s

/-! GIVE, TAKE, CBCFG (10 R202, R203). -/

/-- The range of a GIVE or TAKE; none where it has no such tiles. -/
def flipRange (t : Task) (r : Rec) : Option (List Nat) :=
  let first := bits r.s1.toNat 9 0
  let count := bits r.s2.toNat 10 0
  if count = 0 ∨ 1024 < count ∨ t.lsSize < first + count then none
  else some ((List.range count).map (fun k => first + k))
/-- GIVE acts when its record enters the copy queue (01 R21). -/
def State.doGive (s : State) (r : Rec) (agent chan : Nat) : State :=
  let t := s.task r.task
  match flipRange t r with
  | none => s.raise r.task Cause.owner r.col
  | some l =>
    if l.all (fun n => !(s.owner (coreOf t.unit) (t.lsBase + n)).getLsbD 7) then
      s.flipTiles t l (ownerByte agent chan (t.unit % 4))
    else s.raise r.task Cause.owner r.col
/-- The entries of a command from a number on. -/
def State.entriesFrom (s : State) (t : Task) (r : Rec) (n : Nat) : List Entry :=
  (List.range (cmdTotal r - n)).map (fun k => s.nextEntry t r (n + k))
/-- The tiles that the LS ends of an entry touch, under some formats; only the ends it writes, if so asked. `shift` is how many
earlier entries advance its ring first (10 R191). -/
def State.entryTiles (s : State) (fmts : Vector Lane 8) (r : Rec) (e : Entry) (shift : Nat) (writes : Bool) : List Nat :=
  let t := s.task r.task
  let fill := fills r.ins
  let oneEnd (w : Nat) (prod : Bool) : List Nat :=
    let ring := if e.cbe then (match s.ringOf t.unit r.col e fill with
      | (some (d, p), _) => if p = prod then some d else none
      | _ => none) else none
    let tiles (k : Nat) : Nat := match ring with
      | some d => cbTile d (cbPtr d prod + shift * cbNum d prod + k)
      | none => bits w 21 12 + k
    let rows := match r.ins with | .kvcommit .. => if prod then bits r.s2.toNat 15 0 + e.e1 else e.e1 | _ => e.e1
    tileSpan fmts t.lsBase tiles e.raw (match ring with | some d => cbNum d prod | none => 1024) 0
      (if ring.isSome then 0 else bits w 11 0 * 8) (rows * e.e0)
  (if !fill && decide (e.dkind = 1) then oneEnd e.w1 true else []) ++
    (if !writes && decide (e.skind = 1) then oneEnd e.w0 false else [])
/-- The tiles of a CPYL's list. -/
def listTiles (r : Rec) : List Nat :=
  match r.ins with
  | .cpyl .. => (List.range ((bits r.s1.toNat 11 0 + 32 * cmdTotal r + 4095) / 4096)).map (fun k => bits r.s1.toNat 21 12 + k)
  | _ => []
/-- Copy commands of one channel, each from an entry on and under its formats, touch a tile: the entries in order, each at the
slots of a ring that the earlier ones leave it. -/
def State.cmdsTouch (s : State) (n : Nat) (writes : Bool) (l : List (Rec × Nat × Vector Lane 8)) : Bool :=
  (!writes && l.any (fun c => (listTiles c.1).elem n)) ||
    ((l.flatMap (fun c => (s.entriesFrom (s.task c.1.task) c.1 c.2.1).map (fun e => (c.1, c.2.2, e)))).foldl
      (fun (m : Bool × FMap Nat) c =>
        let e := c.2.2
        let k := if e.cbe then fget 0 m.2 e.cb else 0
        (m.1 || (s.entryTiles c.2.1 c.1 e k writes).elem n, if e.cbe then fset 0 m.2 e.cb (k + 1) else m.2)) (false, [])).1
/-- A chain word that changes what an LS address of a later one covers: the shapes and the configuration of its strip. -/
def reshapes : Instr → Bool
  | .mcfg .. | .tcfg .. | .treshape .. => true
  | _ => false
/-- The tiles that a chain command's LS address covers on a strip as it stands; only the ones it writes, if so asked. Where an
earlier command that waits may change the strip (`exact` false), as many as any such command covers (log 25). -/
def State.chainTiles (s : State) (c : Nat) (fmts : Vector Lane 8) (r : Rec) (exact writes : Bool) : List Nat :=
  let t := s.task r.task
  let x := s.strip c
  let a := r.s1.toNat
  let first := bits a 21 12
  let bytes (n : Nat) : List Nat := (List.range ((a % 4096 + n + 4095) / 4096)).map (first + ·)
  let elems (n : Nat) : List Nat := tileSpan fmts t.lsBase (first + ·) false 64 0 (bits a 11 0 * 8) n
  let reg (i : BitVec 3) : List Nat :=
    let g := vget TileReg.zero x.treg (tileNo i)
    if g.type = 0xF then bytes (8 * g.rows) else elems (g.rows * g.cols)
  let rows (k : Nat) : List Nat := bytes ((k * shapeCount r.s2 * elemBits x.qfmt + 7) / 8)
  let of (l : List Nat) : List Nat := if exact then l else (List.range 33).map (first + ·)
  match r.ins with
  | .tst _ _ _ i => of (reg i)
  | .tstO .. => of (elems (shapeRows r.s2 * shapeCount r.s2))
  | .stsave .. => of (bytes (256 + 4096 * x.passes))
  | .stld .. | .stldMerge .. => if writes then [] else of (bytes (256 + 4096 * x.passes))
  | .tld _ _ i => if writes then [] else of (reg i)
  | .tldq .. => if writes then [] else of (rows (shapeRows r.s2))
  | .mvb .. => if writes then [] else of (rows (bits r.s2.toNat 2 0 + 1))
  | .chld .. => if writes then [] else bytes (8 * (bits r.s2.toNat 13 8 + 1))
  | _ => []
/-- The records of a task's column of a queue that pass a test: those that have entered it and, if so asked, those in the slip
window. Of a task set aside they wait in its frame (01 R18). -/
def State.colRecs (s : State) (t : Task) (col : Nat) (f : Rec → Bool) (q : Queue) (slip : Bool) : List Rec :=
  let x := s.unit t.unit
  let away := if t.resident || !slip then [] else (fget Frame.zero s.frames t.key).recs
  (x.queue q ++ ((if slip then x.slip else []) ++ away).filter (fun r => decide (queueOf r.ins = some q))).filter (fun r =>
    decide (r.task = t.key) && decide (r.col = col) && f r)
/-- A task's commands on a strip that pass a test touch a tile. -/
def State.stripTouches (s : State) (t : Task) (width col n : Nat) (f : Rec → Bool) (writes slip : Bool) : Bool :=
  let c := physCol t.unit width col
  let x := s.strip c
  let saves := !writes && x.saveTiles.elem n && decide (x.mode ≠ 0)
  let now := (s.core (coreOf t.unit)).fmt
  let l := s.colRecs t col f .chain slip
  (match x.run with
    | some r => decide (r.task = t.key) && f r && ((s.chainTiles c x.fmts r true writes).elem n || saves)
    | none => false) ||
    (List.zip (List.range l.length) l).any (fun p =>
      (s.chainTiles c now p.2 (!(l.take p.1).any (fun r => reshapes r.ins)) writes).elem n || saves)
/-- A task's commands on a channel that pass a test touch a tile. -/
def State.chanTouches (s : State) (t : Task) (width col n : Nat) (f : Rec → Bool) (writes slip : Bool) : Bool :=
  let now := (s.core (coreOf t.unit)).fmt
  let run := match (s.chan (physCol t.unit width col)).run with
    | some q => if q.cmd.task = t.key ∧ f q.cmd then [(q.cmd, q.fin, q.fmts)] else []
    | none => []
  s.cmdsTouch n writes (run ++ (s.colRecs t col f .copy slip).map (fun r => (r, 0, now)))
/-- An agent still has a command of a task that passes a test on a tile (01 R22, 10 R203). -/
def State.agentBusy (s : State) (t : Task) (owner : BitVec 8) (n : Nat) (f : Rec → Bool) (writes slip : Bool) : Bool :=
  let w := widthCols ((s.core (coreOf t.unit)).split.toNat % 8)
  let chan := bits owner.toNat 3 2
  match bits owner.toNat 6 4 with
  | 0 => s.chanTouches t w chan n f writes slip
  | 1 => s.stripTouches t w chan n f writes slip
  | _ => false
/-- A TAKE at the head of its column flips its tiles once the agent has done the writes of records that entered their queue before
the TAKE entered its own (01 R22). -/
def State.doTake (s : State) (r : Rec) (agent chan : Nat) : Option State :=
  let t := s.task r.task
  let o := ownerByte agent chan (t.unit % 4)
  match flipRange t r with
  | none => some (s.raise r.task Cause.owner r.col)
  | some l =>
    if l.any (fun n => s.agentBusy t o n (fun q => decide (q.ent < r.ent)) true false) then none
    else if l.all (fun n => decide (s.owner (coreOf t.unit) (t.lsBase + n) = o)) then
      some (s.flipTiles t l (coreOwner t.unit))
    else some (s.raise r.task Cause.owner r.col)
/-- CBCFG at the head of its column: none while an operation fired on the buffer is not complete. -/
def State.doCbcfg (s : State) (r : Rec) (n : Nat) : Option State :=
  let t := s.task r.task
  let u := t.unit
  let x := s.unit u
  let holder := vget 0 x.cbTask n
  let image := putBits (putBits (putBits r.s1 27 19 0) 36 28 0) 63 55 0
  if (holder ≠ 0 ∧ holder ≠ r.task) ∨ !cbImageOk t image then some (s.raise r.task Cause.owner r.col)
  else if x.cbDue.any (fun d => decide (d.1 = n)) || (vget none x.cbGrant n).isSome || s.sideOpen u n true || s.sideOpen u n false then
    none
  else
    let s := s.mapUnit u (fun x => { x with cb := vset x.cb n image, cbTask := vset x.cbTask n r.task })
    let prod := cbOwner image true u
    let core := coreOf u
    let s := (cbRing image).foldl (fun s k =>
      let o := s.owner core (t.lsBase + k)
      if o = prod then s
      else if !o.getLsbD 7 || !s.agentBusy t o k (fun q => decide (q.id < r.id)) false true then s.flip u (t.lsBase + k) prod
      else s.mapUnit u (fun x => { x with late := x.late ++ [(t.lsBase + k, prod, r.id, t.key)] })) s
    some (s.soon (.cbpopGrant u n))
/-- The flips of a CBCFG that awaited an agent's commands (10 R203), also while its task is set aside. -/
def State.lateFlips (s : State) (u : Nat) : State :=
  (s.unit u).late.foldl (fun s (phys, o, id, k) =>
    let t := s.task k
    let old := s.owner (coreOf u) phys
    if !t.hasLs || s.agentBusy t old (phys - t.lsBase) (fun q => decide (q.id < id)) false true then s
    else (s.flip u phys o).mapUnit u (fun x => { x with late := x.late.filter (fun e => decide (e ≠ (phys, o, id, k))) })) s

/-! Status (10 R206). -/

/-- CPYST's result. -/
def State.channelStatus (s : State) (c : Nat) (r : Rec) : Word :=
  let x := s.chan c
  let t := s.task r.task
  let waiting := ((s.unit t.unit).qCopy.filter (fun q => decide (q.task = r.task) && decide (q.col = r.col))).length
  let (busy, idx, wait) : Bool × Nat × Bool := match x.run with
    | some q => (decide (q.cmd.task = r.task), q.fin, x.page)
    | none => (false, x.index, false)
  BitVec.ofNat 64 (idx % 65536 * 2 ^ 32 + x.cause % 256 * 2 ^ 24 + x.status % 8 * 2 ^ 21 + x.pois.toNat * 2 ^ 19 +
    x.fault.toNat * 2 ^ 18 + wait.toNat * 2 ^ 17 + busy.toNat * 2 ^ 16 + min waiting 15)

/-! The copy queue (01 R16, 10 R187). -/

/-- A record leaves the copy queue. -/
def State.leaveCopy (s : State) (u : Nat) (r : Rec) : State :=
  (s.mapUnit u (fun x => { x with qCopy := x.qCopy.filter (fun q => decide (q.id ≠ r.id)) })).soon (.commandRecordEntry u .copy)
/-- The head record of a column is taken, if its channel is idle and it may go. A command that waits for its first entry to
fire waits here (10 R191, R200). -/
def State.pokeChan (s : State) (u width col : Nat) : State :=
  let c := physCol u width col
  if (s.chan c).run.isSome then s
  else match (s.unit u).qCopy.find? (fun r => decide (r.col = col)) with
    | none => s
    | some r =>
      match r.ins with
      | .take .. => s.soon (.takeFlip c)
      | .cbcfg .. => s.soon (.cbcfgApply c)
      | .ttinv .. => if storesPending (s.task r.task) r.id then s.soon (.commandRecordEntry u .copy) else (s.leaveCopy u r).beginCopy c r
      | _ =>
        if (s.takeFault c r).isSome || s.entryReady c (s.task r.task) r 0 then (s.leaveCopy u r).beginCopy c r
        else s.soon (.commandRecordEntry u .copy)
/-- Every channel of a unit looks at the copy queue, and at the next entry of its command. -/
def State.fireCopies (s : State) (u : Nat) : State :=
  let w := widthCols ((s.core (coreOf u)).split.toNat % 8)
  (List.range w).foldl (fun s k =>
    if s.canStart (physCol u w k) then s.startEntry (physCol u w k) else s.pokeChan u w k) s
/-- The copy engine of a unit looks at everything that waits. -/
def State.pokeCopy (s : State) (u : Nat) : State := ((s.lateFlips u).pokePush u).fireCopies u
/-- The advance of a side; a copy entry that waited for it fires with it (01 R26). -/
def execCbProducerCompletion (s : State) : R :=
  match s.ev with | .cbProducerCompletion u n => .next ((s.cbAdvance u n true).fireCopies u) | _ => .next s
def execCbConsumerCompletion (s : State) : R :=
  match s.ev with | .cbConsumerCompletion u n => .next ((s.cbAdvance u n false).fireCopies u) | _ => .next s
/-- The pop of entries by a pair, a group or a charm; a CPYQ that waited for a free entry fires with it (12 R229). -/
def execChainCommit (s : State) : R :=
  match s.ev with | .chainCommit c => .next ((chainCommit c s).fireCopies (s.unitOfCol c).1) | _ => .next s
def execMvGroupCommit (s : State) : R :=
  match s.ev with | .mvGroupCommit c => .next ((mvGroupCommit c s).fireCopies (s.unitOfCol c).1) | _ => .next s
def execCharmCompletion (s : State) : R :=
  match s.ev with | .charmCompletion c => .next ((charmCompletion c s).fireCopies (s.unitOfCol c).1) | _ => .next s
/-- The head record of a column's channel. -/
def State.copyHead (s : State) (c : Nat) : Option (Nat × Rec) :=
  let (u, col) := s.unitOfCol c
  if (s.chan c).run.isSome then none
  else ((s.unit u).qCopy.find? (fun r => decide (r.col = col))).map (fun r => (u, r))
def takeFlip (c : Nat) (s : State) : State :=
  match s.copyHead c with
  | some (u, r) => match r.ins with
    | .take _ _ _ e h => match s.doTake r e.toNat h.toNat with
      | some s => s.leaveCopy u r
      | none => s.soon (.takeFlip c)
    | _ => s
  | none => s
def cbcfgApply (c : Nat) (s : State) : State :=
  match s.copyHead c with
  | some (u, r) => match r.ins with
    | .cbcfg _ _ n => match s.doCbcfg r n.toNat with
      | some s => s.leaveCopy u r
      | none => s.soon (.cbcfgApply c)
    | _ => s
  | none => s
/-- A record enters the copy queue: GIVE, CBPOP, CBPUSH and CPYST act at once (10 R187). -/
def State.enterCopy (s : State) (u : Nat) (r : Rec) : State :=
  match r.ins with
  | .give _ _ _ e h => s.doGive r e.toNat h.toNat
  | .cbpop _ _ n => s.takePop u r n.toNat
  | .cbpush _ n => s.takePush u r n.toNat
  | .cpyst .. => s.grant r.task r.id (s.channelStatus (physCol u (s.task r.task).width r.col) r)
  | _ => s.mapUnit u (fun x => { x with qCopy := x.qCopy ++ [r] })
/-- The record of the slip window that can enter a queue: its first one for it, while it has a free entry. -/
def canEnter (x : UnitSt) (q : Queue) : Option Rec :=
  if 16 ≤ (x.queue q).length then none else x.slip.find? (fun r => decide (queueOf r.ins = some q))
/-- A record has not entered by the end of the 16th bundle after its own: the unit's issue stops until it has (01 R16). -/
def slipStopped (x : UnitSt) : Bool := x.slip.any (fun r => decide (r.born + 16 < x.count))
/-- A record enters its queue; when none can, the queue's engines look. -/
def commandRecordEntry (u : Nat) (q : Queue) (s : State) : State :=
  match canEnter (s.unit u) q with
  | some r =>
    let (e, s) := s.fresh
    let r := { r with ent := e }
    let s := s.mapUnit u (fun x =>
      let x := { x with slip := x.slip.filter (fun p => decide (p.id ≠ r.id)) }
      { x with stopped := x.stopped && slipStopped x })
    let s := match q with
      | .copy => s.enterCopy u r
      | _ => s.mapUnit u (fun x => x.setQueue q (x.queue q ++ [r]))
    s.soon (.commandRecordEntry u q)
  | none => match q with
    | .copy => s.pokeCopy u
    | .chain => s.pokeChain u
    | .bank => s.drainBank u
    | .fabric => s.soon (.requestInject u)
/-- The stop itself. -/
def slipStop (u : Nat) (s : State) : State := s.mapUnit u (fun x => { x with stopped := slipStopped x })

/-! Delivered results (10 R205). -/

/-- Every pending result of a task that has its value is written (10 R205, 14 R275, 11 R221): the first bundle of the
task that issues after it does so. -/
def Task.deliver (t : Task) : Task :=
  let got (r : PendRes) : Bool := r.val.isSome
  let t' := (t.results.filter got).foldl (fun t r =>
    let b := t.bank r.col
    let v := r.val.getD 0
    t.setBank r.col (b.write (if r.vec then .v r.reg v else iDest r.reg (v.setWidth 64)))) t
  { t' with results := t.results.filter (fun r => !got r) }
/-- A result arrives; a task that issues takes it with its next bundle. -/
def deliveredResult (k : Nat) (s : State) : State :=
  if (s.task k).resident && decide ((s.task k).stop = .run) then s.mapTask k Task.deliver else s

def execTakeFlip (s : State) : R := match s.ev with | .takeFlip c => .next (takeFlip c s) | _ => .next s
def execCbcfgApply (s : State) : R := match s.ev with | .cbcfgApply c => .next (cbcfgApply c s) | _ => .next s
def execCompletionRecord (s : State) : R := match s.ev with | .completionRecord c => .next (completionRecord c s) | _ => .next s
def execTtinvCompletion (s : State) : R := match s.ev with | .ttinvCompletion c => .next (ttinvCompletion c s) | _ => .next s
def execCommandRecordEntry (s : State) : R :=
  match s.ev with | .commandRecordEntry u q => .next (commandRecordEntry u q s) | _ => .next s
def execSlipStop (s : State) : R := match s.ev with | .slipStop u => .next (slipStop u s) | _ => .next s
def execDeliveredResultWrite (s : State) : R :=
  match s.ev with | .deliveredResultWrite k => .next (deliveredResult k s) | _ => .next s

end Sys2Proof.Machine
end

