-- ==== Sys2Proof/Machine/Waits.lean ====
section
/-!
DEFINITION. The wait and scheduler words of the C slot and the clasp table (22 R360 to R387, 16 R290, R293): insertion and
its walk, BAR, WAITV, WAITT, LOCK, UNLOCK, TKWAIT, SSTEP, WOBJ, WDROP, PRIO, GETTIME, DLINFO, VALID, and the events
MONITOR_WAKE, BARRIER_COMPLETION, SUPERSTEP_COMPLETION, WAITT_LIMIT_EXPIRY and FIRMWARE_CYCLE_WALK.
-/
namespace Sys2Proof.Machine

/-- The bundle is held: none of its words issues in this cycle (22 R364). -/
def State.hold (s : State) : State := { s with issue := [], ctl := Ctl.none }
/-- The wait of the foreground task ends at its first step with a code of Table 22.6. -/
def State.status (s : State) (code : Nat) : State :=
  { s with fg := { s.fg with waitStat := putBits s.fg.waitStat 2 0 code, first := false } }
/-- The foreground task falls asleep on an object. -/
def State.sleepOn (s : State) (o : WaitObj) (v : Word) (limit : Option Nat) (cond : Nat) : State :=
  let t := s.fg
  State.decideCtl { s with fg := { t with
    sleep := some ⟨o, v, limit, cond, t.pc, t.follower, t.mrep⟩, first := false } } (fun c => { c with slept := true })

/-! Insertion (22 R362, R366). -/

/-- The outcome of an insertion: the table was full, the edge closed a cycle, or the edge stands. -/
inductive ClaspRes where
  | full (s : State)
  | dead (s : State)
  | ok (s : State)

/-- The objects that a task has a waiter edge to: it sleeps on them, mailboxes included, or is held before its arrival at a
barrier, which closes cycles like a sleep (22 R366, R367). -/
def State.waitsOn (s : State) (vf k : Nat) : List Word :=
  dies.flatMap (fun d => ((s.claspOf d).filter (fun e =>
    decide (e.sort = .wait) && decide (e.task = k) && decide (e.vf = vf))).map (·.obj))
/-- A walk of R366 from an object for an inserting task: hops left, frontier with the pairs that led to it, holders seen.
The answer is the cycle found, if any, and whether the walk ran out of hops or holders. -/
def State.walk (s : State) (t : Task) (x : Word) (most : Nat) : Nat → List (Word × List (Nat × Word)) → Nat →
    State × Option (List (Nat × Word)) × Bool
  | 0, fr, seen => (s, none, !fr.isEmpty || decide (most < seen))
  | n + 1, fr, seen =>
    if fr.isEmpty || decide (most < seen) then (s, none, !fr.isEmpty || decide (most < seen))
    else
      let held (y : Word) : List Nat :=
        (s.holders y t.vf).filter (fun h => !(decide (h = t.key) && decide (y = x) && decide (bits y.toNat 63 60 = 3)))
      let hs := fr.flatMap (fun e => (held e.1).map (fun h => (h, e.2)))
      let s := hs.foldl (fun s e => s.mapTask e.1 (fun h => { h with inherit := max h.inherit t.eclass })) s
      match hs.find? (fun e => decide (e.1 = t.key)) with
      | some e => (s, some e.2, false)
      | none =>
        let nxt := hs.flatMap (fun e => (s.waitsOn t.vf e.1).map (fun z => (z, e.2 ++ [(e.1, z)])))
        let nxt := nxt.foldl (fun l e => if l.any (fun p => decide (p.1 = e.1)) then l else l ++ [e]) []
        s.walk t x most n nxt (seen + hs.length)
/-- CLASP_REC of a cycle (22 R369). -/
def State.claspRecord (s : State) (k : Nat) (cyc : List (Nat × Word)) (fw : Bool) : State :=
  let n := cyc.length
  let ws := (cyc.take 16).flatMap (fun e => [(s.task e.1).taskId, e.2])
  let w0 : Word := BitVec.ofNat 64 (min n 255 + (decide (16 < n)).toNat * 256 + fw.toNat * 512)
  s.mapTask k (fun t => { t with claspRec := Vector.ofFn (fun i => if i.val = 0 then w0 else lget 0 ws (i.val - 1)) })
/-- ClaspInsert of a waiter edge of the foreground task, with a holder edge that must stand with it (22 R362, R366). -/
def State.claspInsert (s : State) (obj : Word) (holder : Option Nat) : ClaspRes :=
  let t := s.fg
  let die := bits obj.toNat 59 56
  let l := s.claspOf die
  let there (x : ClaspSort) (k : Nat) : Bool := l.any (fun e => decide (e = ⟨x, obj, t.vf, k⟩))
  let add : List ClaspE := (if there .obj 0 then [] else [⟨.obj, obj, t.vf, 0⟩]) ++ [⟨.wait, obj, t.vf, t.key⟩] ++
    (match holder with | some h => if there .hold h then [] else [⟨.hold, obj, t.vf, h⟩] | none => [])
  if 1024 < l.length + add.length then
    .full { s with claspFull := fset 0 s.claspFull die (fget 0 s.claspFull die + 1) }
  else
    let s1 := s.setClasp die (l ++ add)
    match s1.walk t obj 64 16 [(obj, [(t.key, obj)])] 0 with
    | (s2, some cyc, _) => .dead ((s2.setClasp die l).claspRecord t.key cyc false).inheritAll
    | (s2, none, long) =>
      let s3 := s2.mapTask t.key (fun t => { t with waitStat := putBits t.waitStat 3 3 long.toNat })
      .ok (if long then s3.soon (.firmwareCycleWalk t.key) else s3)
/-- A trap in a held first step issues no slot: what the word popped from link registers stays there (08 R171). In the cycle of
the deadline's expiry the bundle does not issue, and the task is diverted instead, with the status DIVERTED (22 R385). -/
def State.trapHeld (s s0 : State) (cause slot : Nat) : State :=
  let s : State := { s with fg := { s.fg with banks := s0.fg.banks } }
  if s.agenda.elem (.deadlineExpiry s.fg.launch) && !s.fg.expired then (s.status 4).hold else s.trapNow cause slot
/-- What follows a refused insertion: WFULL, or the trap CLASP_FULL of the VF's policy (22 R362). `s0` is the state before
any operand was taken. -/
def State.claspFullEnd (s s0 : State) : State :=
  if (s.vf s.fg.vf).claspTrap then s.trapHeld s0 Cause.claspFull 0 else s.status 3
/-- Insert, then go on; a full table and a cycle end the wait here. -/
def State.inserting (s s0 : State) (obj : Word) (holder : Option Nat) (f : State → State) : State :=
  match s.claspInsert obj holder with
  | .full s => s.claspFullEnd s0
  | .dead s => s.trapHeld s0 Cause.deadlock 0
  | .ok s => f s

/-- A cycle found by firmware ends the wait; the task traps DEADLOCK at the wait bundle (22 R368). -/
def firmwareCycleWalk (k : Nat) (s : State) : State :=
  let s := s.writeBack k
  let t := s.task k
  match t.sleep, s.sleepWord t with
  | some sl, some x =>
    if !t.waitStat.getLsbD 3 then s
    else if t.resident && (s.frozen (coreOf t.unit) || t.lateLanding || t.divDue) then s.soon (.firmwareCycleWalk k)
    else match s.walk t x (2 ^ 64) (s.tasks.length + 1) [(x, [(k, x)])] 0 with
      | (s2, some cyc, _) =>
        let s := (s2.disarm k).dropEdges (fun e => decide (e.sort = .wait) && decide (e.task = k))
        let s := (s.claspRecord k cyc true).inheritAll
        let front := s.fg.key
        let s := (s.mapTask k (fun t =>
          { t.replay t.work t.dist with work := Snap.empty, sleep := none, pc := sl.pc, follower := sl.follower,
                                        mrep := sl.mrep })).bring k
        ((s.enterTrap (TrapReq.at Cause.deadlock 0 0)).bring front).schedule t.die
      | (s2, none, _) => s2
  | _, _ => s

/-! Barriers and supersteps (22 R370, 16 R293). -/

/-- A home lies within a task's instance of a scope (02 Table 02.1). -/
def Task.homeIn (t : Task) (sc : Nat) (h : Home) : Bool :=
  match h with
  | .ls c => match sc with
    | 0 => false | 1 => decide (c = coreOf t.unit) | 2 => decide (quadOf c = quadOf (coreOf t.unit))
    | 3 => decide (c / 36 = t.die) | _ => true
  | .dm d | .hbm d => if sc ≤ 2 then false else if sc = 3 then decide (d = t.die) else true
  | .far _ => decide (5 ≤ sc)
  | .unmapped => decide (3 ≤ sc)
/-- PUTs of a task that their targets have not acknowledged (16 R293). -/
def State.putsOut (s : State) (t : Task) : Bool :=
  let put (i : Instr) : Bool := match i with | .put .. => true | _ => false
  (s.unit t.unit).recs.any (fun r => decide (r.task = t.key) && put r.ins) ||
    (s.reqs ++ s.heldPuts).any (fun r => decide (r.task = t.key) && decide (r.kind = .put))
/-- The task's count of barriers of a sort and scope (01 R9). -/
def Task.barNo (t : Task) (kind : Nat) : Nat := ((t.barCnt.find? (fun e => decide (e.1 = kind))).map (·.2)).getD 0
/-- The barrier a task meets next. -/
def State.openBar (s : State) (t : Task) (step : Bool) (sc : Nat) : Barr :=
  (s.bars.find? (fun b => decide (b.launch = t.launch) && decide (b.step = step) && decide (b.scope = sc) &&
    decide (b.inst = t.instOf sc))).getD ⟨t.launch, step, sc, t.instOf sc, 0, []⟩
/-- A barrier is on record from the first task that meets it on, before any arrival: its members then hold it. -/
def State.metBar (s : State) (b : Barr) : State :=
  if s.bars.any (fun x => decide (x = b)) then s else { s with bars := s.bars ++ [b] }
/-- Which of its barriers a task's next one is: its own count, or the open one at core and quad. -/
def Barr.seq (b : Barr) (t : Task) : Nat := if b.scope ≤ 2 then b.count else t.barNo (b.scope + 8 * b.step.toNat)
/-- A task arrives (22 R370). The flag says that its arrival completed the step. -/
def State.arriveBar (s : State) (t : Task) (b : Barr) : Bool × State :=
  let k := b.seq t
  let kind := b.scope + 8 * b.step.toNat
  let b' := if b.count ≤ k then { b with arr := b.arr ++ [(k, t.key)] } else b
  let s : State := { s with bars := s.bars.filter (fun x => decide (x ≠ b)) ++ [b'] }
  let s := s.mapTask t.key (fun t =>
    { t with barCnt := t.barCnt.filter (fun e => decide (e.1 ≠ kind)) ++ [(kind, k + 1)] })
  let s := s.evalBars b.launch
  (decide (k < (s.openBar t b.step b.scope).count), s)
/-- BAR and SSTEP after the scope policy: insert once, hold for the release, arrive, sleep (22 R370, R383, 16 R293). -/
def State.barrier (s : State) (step : Bool) (member order : Nat) : State :=
  let t := s.fg
  let b := s.openBar t step member
  let released := !(s.pastAccs.any (fun a => t.homeIn order a.home)) && !(step && s.putsOut t)
  if t.expired then
    if released then
      let (done, s) := s.arriveBar t b
      let s := s.status (if done then 0 else 4)
      if done then { s with fg := s.fg.stepDone step } else s
    else s.hold
  else
    let obj := s.barWord b (b.seq t)
    let go (s : State) : State :=
      if released then
        let (done, s) := s.arriveBar s.fg b
        let d := s.barDie b
        let v := bits obj.toNat 55 0
        if done then
          let s := (s.dropEdges (fun e => decide (e.sort = .wait) && decide (e.task = t.key))).inheritAll
          State.status { s with fg := s.fg.stepDone step } 0
        else s.sleepOn (if step then .super d v else .barrier d v) 0 none 0
      else State.hold { s with fg := { s.fg with first := true } }
    if t.first then go s else (s.metBar b).inserting s obj none go
def execBar (g : Guard) (sc : BitVec 3) (s : State) : R :=
  s.when g fun s =>
    let (ok, x, s') := s.scoped sc.toNat
    if ok then s'.barrier false sc.toNat x else s'
def execSstep (g : Guard) (sc : BitVec 3) (s : State) : R := s.when g fun s => s.barrier true sc.toNat sc.toNat
/-- A completed barrier wakes its sleepers: their arrivals have been used. -/
def barrierCompletion (step : Bool) (die obj : Nat) (s : State) : State :=
  match s.barOf (objWord 3 die obj) with
  | none => s
  | some b =>
    if b.step = step ∧ bits obj 31 0 < b.count then
      s.tasks.foldl (fun s t => match t.sleep with
        | some sl =>
          if sl.obj = (if step then .super die obj else .barrier die obj) then
            (s.mapTask t.key (fun t => t.stepDone step)).endSleep t.key 0
          else s
        | none => s) s
    else s
def execBarrierCompletion (s : State) : R :=
  match s.ev with | .barrierCompletion d o => .next (barrierCompletion false d o s) | _ => .next s
def execSuperstepCompletion (s : State) : R :=
  match s.ev with | .superstepCompletion d o => .next (barrierCompletion true d o s) | _ => .next s

/-! WAITV and WAITT (22 R371, R372). -/

/-- OFFSET of a wait, lock or registration word, aligned down to 8; none when it runs past the allocation. -/
def Task.waitOff (t : Task) (w : Word) : Option Nat :=
  let a := bits w.toNat 27 0 - bits w.toNat 27 0 % 8
  if t.dmSize < a + 8 then none else some a
/-- WAITV and WAITT with operands read; in wrap-up code a test that does not hold ends DIVERTED (22 R383). `s0` is the state
before they were. -/
def State.waitWord (s s0 : State) (w v : Word) (limit : Option Nat) : State :=
  match s.fg.waitOff w with
  | none => s0.trapNow Cause.segmentFault 0
  | some off =>
    let t := s.fg
    let a := s.dmAt t.vf t.die off
    let cond := bits w.toNat 62 60
    if waitTest cond (s.word a) v then s.status 0
    else if t.expired then s.status 4
    else if (match limit with | some n => decide (n ≤ s.now) | none => false) then s.status 1
    else s.inserting s0 (objWord 1 t.die off) none (fun s => (s.arm t.key t.die a).sleepOn (.word t.die a) v limit cond)
def execWaitv (g : Guard) (a b : RegF) (s : State) : R :=
  s.when g fun s =>
    let (x, s1) := s.takeI a
    let (y, s1) := s1.takeI b
    s1.waitWord s x y none
def execWaitt (g : Guard) (d a b : RegF) (s : State) : R :=
  s.when g fun s =>
    let (x, s1) := s.takeI a
    let (y, s1) := s1.takeI b
    let (z, s1) := s1.takeI d
    s1.waitWord s x y (some z.toNat)
/-- A woken wait reads its word again at the bank and re-arms in the same step (16 R286). -/
def monitorWake (k : Nat) (s : State) : State :=
  match (s.task k).sleep with
  | some sl => match sl.obj with
    | .word d a => if waitTest sl.cond (s.word a) sl.val then s.endSleep k 0 else (s.disarm k).arm k d a
    | _ => s
  | none => s
/-- A sleeping WAITT at the end of the cycle of a deadline check: the limit has passed, unless its test holds (22 R372). -/
def waittLimit (k : Nat) (s : State) : State :=
  match (s.task k).sleep with
  | some sl => match sl.obj, sl.limit with
    | .word _ _, some n =>
      if s.now / 8 * 8 < n then s else (s.settleWait k).endSleep k 1
    | _, _ => s
  | none => s
def execMonitorWake (s : State) : R := match s.ev with | .monitorWake k => .next (monitorWake k s) | _ => .next s
def execWaittLimitExpiry (s : State) : R := match s.ev with | .waittLimitExpiry k => .next (waittLimit k s) | _ => .next s
def execFirmwareCycleWalk (s : State) : R :=
  match s.ev with | .firmwareCycleWalk k => .next (firmwareCycleWalk k s) | _ => .next s

/-! Registration, LOCK and UNLOCK (22 R373, R374). -/

/-- Take entries of the task's own slice, all of them or none (22 R362). -/
def State.claspAdd (s s0 : State) (add : List ClaspE) : State :=
  let die := s.fg.die
  let l := s.claspOf die
  let add := add.filter (fun e => !l.elem e)
  if 1024 < l.length + add.length then
    State.claspFullEnd { s with claspFull := fset 0 s.claspFull die (fget 0 s.claspFull die + 1) } s0
  else ((s.setClasp die (l ++ add)).inheritAll).status 0
def execWobj (g : Guard) (a : RegF) (s : State) : R :=
  s.when g fun s =>
    let (x, s1) := s.takeI a
    let t := s.fg
    let kind := bits x.toNat 63 60
    if 1 < kind then s1.status 2
    else match t.waitOff x with
      | none => s.trapNow Cause.segmentFault 0
      | some off =>
        let o := objWord kind t.die off
        s1.claspAdd s (if kind = 0 then [⟨.obj, o, t.vf, 0⟩] else [⟨.obj, o, t.vf, 0⟩, ⟨.hold, o, t.vf, t.key⟩])
/-- A lock object goes: its sleepers end ABORTED, its holder edge and registration are removed (22 Table 22.10). -/
def State.dropLock (s : State) (vf die off : Nat) : State :=
  let o := objWord 0 die off
  let s := (s.lockSleepers vf die (s.dmAt vf die off)).foldl (fun s t => s.endSleep t.key 2) s
  (s.setClasp die ((s.claspOf die).filter (fun e => !(decide (e.obj = o) && decide (e.vf = vf))))).inheritAll
def execWdrop (g : Guard) (a : RegF) (s : State) : R :=
  s.when g fun s =>
    let (x, s1) := s.takeI a
    let t := s.fg
    let kind := bits x.toNat 63 60
    if 1 < kind then s1.status 2
    else match t.waitOff x with
      | none => s.trapNow Cause.segmentFault 0
      | some off =>
        if kind = 0 then
          if s.lockThere t.vf t.die off then (s1.dropLock t.vf t.die off).status 0 else s1.status 2
        else
          let e : ClaspE := ⟨.hold, objWord 1 t.die off, t.vf, t.key⟩
          let l := s.claspOf t.die
          if l.elem e then ((s1.setClasp t.die (l.filter (fun x => decide (x ≠ e)))).inheritAll).status 0 else s1.status 2
def execLock (g : Guard) (a : RegF) (s : State) : R :=
  s.when g fun s =>
    let (x, s1) := s.takeI a
    let t := s.fg
    match t.waitOff x with
    | none => s.trapNow Cause.segmentFault 0
    | some off =>
      let m := s.dmAt t.vf t.die off
      if !s.lockThere t.vf t.die off then s1.status 2
      else if s.word m = 0 then
        let s2 := (s1.setNum m 8 t.taskId.toNat).wakeMonitors t.die m 8
        let o := objWord 0 t.die off
        let l := (s2.claspOf t.die).filter (fun e => !(decide (e.sort = .hold) && decide (e.obj = o) && decide (e.vf = t.vf)))
        if 1024 ≤ l.length then
          State.status { s2.setClasp t.die l with claspFull := fset 0 s2.claspFull t.die (fget 0 s2.claspFull t.die + 1) } 0
        else ((s2.moveLock t.vf t.die o t.key).inheritAll).status 0
      else if s.word m = t.taskId then s1.status 0
      else if t.expired then s1.status 4
      else s1.inserting s (objWord 0 t.die off) none (fun s => s.sleepOn (.lock t.die m) 0 none 0)
def execUnlock (g : Guard) (a : RegF) (s : State) : R :=
  s.when g fun s =>
    let (x, s1) := s.takeI a
    let t := s.fg
    match t.waitOff x with
    | none => s.trapNow Cause.segmentFault 0
    | some off =>
      let m := s.dmAt t.vf t.die off
      if !s.lockThere t.vf t.die off || decide (s.word m ≠ t.taskId) then s1.status 2
      else if !s.pastAccs.isEmpty then s.hold
      else
        let e : ClaspE := ⟨.hold, objWord 0 t.die off, t.vf, t.key⟩
        let s2 := s1.setClasp t.die ((s1.claspOf t.die).filter (fun x => decide (x ≠ e)))
        ((s2.grantLock t.vf t.die m).inheritAll).status 0

/-! TKWAIT (16 R290). -/

def execTkwait (g : Guard) (a b : RegF) (s : State) : R :=
  s.when g fun s =>
    let (x, s1) := s.takeI a
    let (y, s1) := s1.takeI b
    let t := s.fg
    let n := bits x.toNat 10 0
    if (s.vf t.vf).tkCount ≤ n then s.trapNow Cause.segmentFault 0
    else
      let k := (s.vf t.vf).tkBase + n
      let c := s.ticket t.die k
      if c.reached (y.toNat % 4294967296) then s1.status 0
      else if t.expired then s1.status 4
      else
        let h := match c.taker with | some h => if (s.task h).alive then some h else none | none => none
        s1.inserting s (objWord 2 t.die k) h (fun s => s.sleepOn (.ticket t.die k) y none 0)

/-! Class, time, validity (22 R378, R379, R387). -/

def execPrio (g : Guard) (im : BitVec 7) (s : State) : R :=
  s.when g fun s => (s.post 1 (.sr 0 (BitVec.ofNat 64 (min (im.toNat % 4) (s.launchOf s.fg).cls)))).schedule s.fg.die
def execGettime (g : Guard) (d : RegF) (s : State) : R := s.when g fun s => s.putI d 2 (BitVec.ofNat 64 s.now)
/-- DLINFO's value (22 R379). -/
def State.deadlineInfo (s : State) (sel : Nat) : Word :=
  let t := s.fg
  let l := s.launchOf t
  match sel with
  | 0 => match l.deadline with | some d => BitVec.ofNat 64 d | none => BitVec.allOnes 64
  | 1 => wordOf (s.slack t)
  | 2 => BitVec.ofNat 64 (t.wrapLeft.getD (l.budget + 1))
  | _ => BitVec.ofNat 64 (l.estimate - t.used)
def execDlinfo (g : Guard) (d : RegF) (sc : BitVec 2) (s : State) : R :=
  s.when g fun s => s.putI d 2 (s.deadlineInfo sc.toNat)
def execValid (g : Guard) (c : BitVec 2) (a : RegF) (s : State) : R :=
  s.when g fun s =>
    let (x, s1) := s.takeI a
    let l := s.launchOf s.fg
    if (l.xm + 1) * (l.ym + 1) * (l.zm + 1) ≤ x.toNat then s1.trapAtIssue Cause.segmentFault
    else if !s.pastAccs.isEmpty then s.hold
    else match s1.markValid l x.toNat c.toNat with
      | some s2 => s2
      | none => (s1.report s.fg.vf 1 [s.fg.key]).raise s.fg.key Cause.segmentFault s.col

end Sys2Proof.Machine
end

