-- ==== Sys2Proof/Machine/Parcel.lean ====
section
/-!
DEFINITION. Parcels (19 R321 to R333): handles and pages, the accesses PLD, PST, PLDREF and PSTREF, the commands PNEW,
PGROW, PTRIM, POST, PRECV and PFREE, mailboxes and transfers, and the events PORT_ACCESS, MAILBOX_GRANT, PARCEL_ARRIVAL
and PARCEL_DELIVERY_ACK.
-/
namespace Sys2Proof.Machine

/-! Handles and storage (19 R321, R322). -/

/-- The entry a handle names for a VF; a handle that names none is a FREED parcel. -/
def State.parcel (s : State) (vf h : Nat) : Parcel :=
  if h / 4096 < 12 ∧ h % 4096 < (s.vf vf).pclCount ∧ h < 65536 then fget Parcel.zero s.parcels (vf * 65536 + h)
  else Parcel.zero
def State.setParcel (s : State) (vf h : Nat) (p : Parcel) : State :=
  { s with parcels := fset Parcel.zero s.parcels (vf * 65536 + h) p }
/-- The VF address of a byte of a parcel: in its page of the pool. -/
def State.parcelAddr (s : State) (vf h : Nat) (p : Parcel) (off : Nat) : Nat :=
  vget 0 (s.vf vf).pclBase (h / 4096) + lget 0 p.pages (off / 4096) * 4096 + off % 4096
/-- Bytes of a parcel within one page; bytes the comparator refuses read 0. -/
def State.parcelRead (s : State) (vf h : Nat) (p : Parcel) (off n : Nat) : List Byte :=
  (s.vfRead vf (s.parcelAddr vf h p off) n).getD (List.replicate n 0)
/-- Write bytes of a parcel within one page. -/
def State.parcelWrite (s : State) (vf h : Nat) (p : Parcel) (off : Nat) (bs : List Byte) : State :=
  (s.vfWrite vf (s.parcelAddr vf h p off) bs).getD s
/-- Word n of a parcel. -/
def State.parcelWord (s : State) (vf h : Nat) (p : Parcel) (n : Nat) : Nat := ofBytes (s.parcelRead vf h p (8 * n) 8)
/-- Write words from word n upward. -/
def State.parcelWords (s : State) (vf h : Nat) (p : Parcel) : Nat → List Word → State
  | _, [] => s
  | n, w :: r => (s.parcelWrite vf h p (8 * n) (bytesOf 8 w.toNat)).parcelWords vf h p (n + 1) r
/-- The page of a parcel word is poisoned (11 R218). -/
def State.parcelPoison (s : State) (vf h : Nat) (p : Parcel) (off : Nat) : Bool :=
  match s.segment vf (s.parcelAddr vf h p off) with
  | some (d, pa) => s.frameListed d pa
  | none => false
/-- Pages a length needs. -/
def pagesOf (len : Nat) : Nat := (len + 4095) / 4096
/-- The free pages of a VF's pool on a die, lowest first. -/
def State.freePages (s : State) (vf die : Nat) : List Nat :=
  let used := s.parcels.flatMap (fun e => if e.1 / 65536 = vf ∧ e.1 % 65536 / 4096 = die then e.2.pages else [])
  (List.range (vget 0 (s.vf vf).pclSize die)).filter (fun n => !used.elem n)
/-- The lowest free entry of a VF's table on a die. -/
def State.freeHandle (s : State) (vf die : Nat) : Option Nat :=
  ((List.range (s.vf vf).pclCount).find? (fun n => decide ((s.parcel vf (die * 4096 + n)).st = .unused))).map (die * 4096 + ·)
/-- The marks of a parcel after one word's mark is set or cleared, in rising order. -/
def setMark (marks : List Nat) (n : Nat) (on : Bool) : List Nat :=
  let rest := marks.filter (· ≠ n)
  if on then rest.filter (· < n) ++ n :: rest.filter (n < ·) else rest
/-- The result word (19 Table 19.1). -/
def parcelResult (status len h : Nat) : Word := BitVec.ofNat 64 (status * 2 ^ 61 + len * 2 ^ 32 + h % 65536)

/-! Accesses (19 R329). -/

/-- A parcel access of the running word becomes a request. -/
def State.askParcel (s : State) (ins : Instr) (k : ReqKind) (cls size : Nat) (val : List Byte) (a : Ag) (id : Nat) : State :=
  let t := s.fg
  let h := a.tid.toNat
  let s := s.access id cls (decide (k ≠ .pcStore)) (decide (k = .pcStore)) (.hbm (h / 4096))
    (2 ^ 60 + h * 2 ^ 32 + a.off) size val
  s.ask ⟨id, t.key, t.vf, t.die, s.col, k, ins, a.off, size, val, 0, 0, a, 0, none⟩ (.portAccess id)
/-- PLD and PLDREF. -/
def State.parcelLoad (s : State) (ins : Instr) (ref : Bool) (l : BitVec 4) (a : BitVec 3) (o : BitVec 6) (c : BitVec 4)
    (n : BitVec 1) (size : Nat) : State :=
  let ag := s.bank.agr a
  if ag.off % size ≠ 0 then s.trapNow Cause.misaligned 1
  else
    let (id, s) := s.fresh
    ((s.landing id l.toNat o.toNat).incAg a n).askParcel ins (.pcLoad ref) c.toNat size [] ag id
def execPld (g : Guard) (l : BitVec 4) (a : BitVec 3) (o : BitVec 6) (c : BitVec 4) (n : BitVec 1) (sc : BitVec 2)
    (s : State) : R :=
  s.when g fun s => s.parcelLoad (.pld g l a o c n sc) false l a o c n (loadSize sc)
def execPldref (g : Guard) (l : BitVec 4) (a : BitVec 3) (o : BitVec 6) (c : BitVec 4) (n : BitVec 1) (s : State) : R :=
  s.when g fun s => s.parcelLoad (.pldref g l a o c n) true l a o c n 8
def execPst (g : Guard) (r : BitVec 4) (a : BitVec 3) (c : BitVec 4) (n : BitVec 1) (sc : BitVec 2) (s : State) : R :=
  s.when g fun s =>
    let ag := s.bank.agr a
    let size := storeSize sc
    if ag.off % size ≠ 0 then s.trapNow Cause.misaligned 1
    else
      let (id, s) := s.fresh
      (s.incAg a n).askParcel (.pst g r a c n sc) .pcStore c.toNat size (s.srcBytes r size) ag id
/-- PCL_FAULT (19 Table 19.3). -/
def State.pclFault (s : State) (src off h : Nat) : State :=
  { s with fg := { s.fg with pclFault := BitVec.ofNat 64 (src * 2 ^ 62 + off % 2 ^ 24 * 65536 + h % 65536) } }
/-- PSTREF: held for the accesses of earlier bundles that its class and fences order before it, then checked and written as
one step at the home, before its bundle issues (log 7). -/
def execPstref (g : Guard) (r : BitVec 4) (a : BitVec 3) (c : BitVec 4) (n : BitVec 1) (s : State) : R :=
  s.when g fun s =>
    let ag := s.bank.agr a
    let t := s.fg
    let h := ag.tid.toNat
    let v := (s.bank.i r.toNat).toNat
    let p := s.parcel t.vf h
    let fenced := t.fencedBy c.toNat
    if ag.off % 8 ≠ 0 then s.trapNow Cause.misaligned 1
    else if s.pastAccs.any (fun x => decide (x.cls = c.toNat) || fenced.elem x.id) then s.hold
    else if p.st ≠ .localP then (s.raise t.key Cause.parcelState s.col).incAg a n
    else if p.len < ag.off + 8 then (s.raise t.key Cause.segmentFault s.col).incAg a n
    else if p.len ≤ v then (s.pclFault 0 ag.off h).trapNow Cause.escape 1
    else
      let s := s.parcelWrite t.vf h p ag.off (bytesOf 8 v)
      (s.setParcel t.vf h { p with marks := setMark p.marks (ag.off / 8) true }).incAg a n
/-- A parcel that a later POST of the same bundle has sealed: its seal waits for this access (02 R41). -/
def State.sealing (s : State) (r : Req) : Bool :=
  s.xfers.any (fun x => decide (x.id % 2 = 0) && decide (x.vf = r.vf) && decide (x.src = r.ag.tid.toNat) &&
    decide (x.task = r.task) && decide (r.id < x.id / 2))
/-- One parcel access at its home (19 R324, R329). -/
def parcelAccess (r : Req) (s : State) : State :=
  match (s.task r.task).may r.id with
  | .home =>
    let h := r.ag.tid.toNat
    let p := s.parcel r.vf h
    let fail (c : Nat) : State := match r.kind with
      | .pcLoad _ => s.endReq r (some (0, some c))
      | _ => (s.raise r.task c r.col).endReq r none
    if p.st ≠ .localP ∧ !s.sealing r then fail Cause.parcelState
    else if p.len < r.addr + r.size then fail Cause.segmentFault
    else match r.kind with
      | .pcLoad ref =>
        if s.parcelPoison r.vf h p r.addr then fail Cause.poison
        else
          let bs := s.parcelRead r.vf h p r.addr r.size
          let bs := if ref then bs ++ [if p.marks.elem (r.addr / 8) then 1 else 0] else bs
          s.endReq r (some (landVal bs, none))
      | _ =>
        let s := s.parcelWrite r.vf h p r.addr r.val
        (s.setParcel r.vf h { p with marks := setMark p.marks (r.addr / 8) false }).endReq r none
  | _ => s.soon (.portAccess r.id)
/-- The event PORT_ACCESS: a tensor access at its port, or a parcel access at its home. -/
def execPortAccess (s : State) : R :=
  match s.ev with
  | .portAccess n =>
    match s.req n with
    | some r => match r.kind with
      | .pcLoad _ | .pcStore => .next (parcelAccess r s)
      | _ => .next (portAccess n s)
    | none => .next s
  | _ => .next s

/-! Commands (19 R330, R333). -/

/-- A record whose s1 is read and receives the result. -/
def State.recBoth (s : State) (ins : Instr) (x y : Word) (a : RegF) : State :=
  let d := s.bank.physI a
  let id := s.nid
  let s := s.formRec ins .fabric x y 0 0 d
  { s with fg := { s.fg with results := s.fg.results ++ [(⟨id, s.col, false, d, none, none⟩ : PendRes)] } }
def execPnew (g : Guard) (a b : RegF) (s : State) : R :=
  s.when g fun s => let (y, s) := s.takeI b; s.recBoth (.pnew g a b) 0 y a
def execPgrow (g : Guard) (a b : RegF) (s : State) : R :=
  s.when g fun s => let (x, s) := s.takeI a; let (y, s) := s.takeI b; s.recBoth (.pgrow g a b) x y a
def execPtrim (g : Guard) (a b : RegF) (s : State) : R :=
  s.when g fun s => let (x, s) := s.takeI a; let (y, s) := s.takeI b; s.recBoth (.ptrim g a b) x y a
def execPfree (g : Guard) (a : RegF) (s : State) : R := s.rec1 g (.pfree g a) .fabric a
/-- Make an entry of a length with free pages. -/
def State.newParcel (s : State) (vf h n : Nat) (st : PState) : State :=
  let p : Parcel := ⟨st, n, (s.freePages vf (h / 4096)).take (pagesOf n), []⟩
  (s.setParcel vf h p).parcelWords vf h p 0 (List.replicate (n / 8) 0)
/-- A length that R330 takes. -/
def lenOk (n : Nat) : Bool := decide (n % 8 = 0) && decide (8 ≤ n) && decide (n ≤ 16777216)
/-- PNEW, PGROW, PTRIM and PFREE at the home die's table. -/
def State.parcelCmd (s : State) (r : Rec) : State :=
  let t := s.task r.task
  let vf := t.vf
  let n := r.s2.toNat
  let h := r.s1.toNat % 65536
  let p := s.parcel vf h
  match r.ins with
  | .pnew .. =>
    match lenOk n, s.freeHandle vf t.die with
    | false, _ => s.grant r.task r.id (parcelResult 3 0 0)
    | true, none => s.grant r.task r.id (parcelResult 2 0 0)
    | true, some h =>
      if (s.freePages vf t.die).length < pagesOf n then s.grant r.task r.id (parcelResult 1 0 0)
      else (s.newParcel vf h n .localP).grant r.task r.id (parcelResult 0 n h)
  | .pgrow .. =>
    if p.st ≠ .localP then s.dropResult r Cause.parcelState
    else if n < p.len ∨ !lenOk n then s.grant r.task r.id (parcelResult 3 p.len h)
    else
      let more := pagesOf n - pagesOf p.len
      let free := s.freePages vf (h / 4096)
      if free.length < more then s.grant r.task r.id (parcelResult 1 p.len h)
      else
        let q : Parcel := { p with len := n, pages := p.pages ++ free.take more }
        ((s.setParcel vf h q).parcelWords vf h q (p.len / 8) (List.replicate ((n - p.len) / 8) 0)).grant r.task r.id
          (parcelResult 0 n h)
  | .ptrim .. =>
    if p.st ≠ .localP then s.dropResult r Cause.parcelState
    else if p.len < n ∨ !lenOk n then s.grant r.task r.id (parcelResult 3 p.len h)
    else
      let q : Parcel := { p with len := n, pages := p.pages.take (pagesOf n), marks := p.marks.filter (· < n / 8) }
      (s.setParcel vf h q).grant r.task r.id (parcelResult 0 n h)
  | .pfree .. =>
    match p.st with
    | .localP | .freed => s.setParcel vf h Parcel.zero
    | .unused => s
    | _ => s.raise r.task Cause.parcelState r.col
  | _ => s

/-! Mailboxes (19 R327, R328). -/

/-- The key of a mailbox. -/
def mboxKey (vf die n : Nat) : Nat := (vf * 12 + die) * 256 + n
/-- The ARRIVED parcels of a mailbox, oldest first. -/
def State.arrivedAt (s : State) (vf die n : Nat) : List Nat := fget [] s.mailbox (mboxKey vf die n)
def State.setMailbox (s : State) (vf die n : Nat) (l : List Nat) : State :=
  { s with mailbox := fset [] s.mailbox (mboxKey vf die n) l }
/-- Whether a mailbox of this package refuses a length for good (19 R328). -/
def State.mboxRefuses (s : State) (vf die n len : Nat) : Bool :=
  decide (12 ≤ die) || decide ((s.vf vf).mbxCount ≤ n) || decide (vget 0 (s.vf vf).pclSize die = 0) ||
    decide (vget 0 (s.vf vf).pclSize die < pagesOf len)
/-- The end of a POST at the sender: the entry, and the result if it is still wanted (19 R328, R331). -/
def State.postEnd (s : State) (x : Xfer) (status : Nat) : State :=
  let p := s.parcel x.vf x.src
  let q : Parcel := if status = 0 then ⟨.freed, 0, [], []⟩ else { p with st := .localP }
  let s := s.setParcel x.vf x.src q
  State.grant { s with xfers := s.xfers.filter (fun y => decide (y.id ≠ x.id)) } x.task (x.id / 2)
    (parcelResult status x.len x.src)
/-- POST (19 R331): held for the accesses and parcel commands of earlier bundles, then scanned and sealed in one step. The
transfer waits for the accesses of its own bundle that stand before it (02 R41). -/
def execPost (g : Guard) (a b : RegF) (s : State) : R :=
  s.when g fun s =>
    let (x, s1) := s.takeI a
    let (y, s1) := s1.takeI b
    let t := s.fg
    let h := x.toNat % 65536
    let p := s.parcel t.vf h
    let resize (i : Instr) : Bool := match i with | .pnew .. | .pgrow .. | .ptrim .. => true | _ => false
    if !s.pastAccs.isEmpty || (s.unit t.unit).recs.any (fun r => decide (r.task = t.key) && s.earlier r.id && resize r.ins) then
      s.hold
    else if p.st ≠ .localP then s.trapNow Cause.parcelState 4
    else match p.marks.find? (fun n => decide (p.len ≤ s.parcelWord t.vf h p n)) with
      | some n => (s.pclFault 1 (8 * n) h).trapNow Cause.escape 4
      | none =>
        let id := s1.nid
        let s2 := (s1.recBoth (.post g a b) x y a).setParcel t.vf h { p with st := .sealedP }
        let die := bits y.toNat 51 48
        let mb := bits y.toNat 7 0
        let mk (far : Option Nat) : Xfer := ⟨2 * id, far, t.vf, h, t.key, die, mb, p.len, [], [], none⟩
        match s.wordPkg y with
        | none => s2.postEnd (mk none) 2
        | some pkg =>
          if pkg = s.ownPkg then
            if s.mboxRefuses t.vf die mb p.len then s2.postEnd (mk none) 2
            else State.soon { s2 with xfers := s2.xfers ++ [mk none] } (.mailboxGrant (2 * id) none)
          else if 12 ≤ die then s2.postEnd (mk none) 2
          else State.send { s2 with xfers := s2.xfers ++ [mk (some pkg)] } (.offer t.vf pkg die mb p.len id)
/-- The words of a parcel. -/
def State.contents (s : State) (vf h : Nat) (p : Parcel) : List Word :=
  (List.range (p.len / 8)).map (fun n => BitVec.ofNat 64 (s.parcelWord vf h p n))
/-- Grant the first waiting request of a mailbox when a place, an entry and the pages are there; during a
migration of the VF the grant waits (25 R422). -/
def State.tryGrant (s : State) (x : Xfer) : State :=
  if s.leaving x.vf then s
  else
  let first := s.xfers.find? (fun y => decide (y.dst = none) && decide (y.far = none) && decide (y.vf = x.vf) &&
    decide (y.die = x.die) && decide (y.mbox = x.mbox))
  let places := (s.arrivedAt x.vf x.die x.mbox).length +
    (s.xfers.filter (fun y => y.dst.isSome && decide (y.far = none) && decide (y.vf = x.vf) && decide (y.die = x.die) &&
      decide (y.mbox = x.mbox))).length
  match s.freeHandle x.vf x.die with
  | some h =>
    if first = some x ∧ places < 16 ∧ pagesOf x.len ≤ (s.freePages x.vf x.die).length then
      let s := s.newParcel x.vf h x.len .transit
      let s := if x.id % 2 = 0 then s.setParcel x.vf x.src { s.parcel x.vf x.src with st := .transit }
               else s.send (.grant x.src (x.id / 2 % 18446744073709551616) true)
      State.soon { s with xfers := s.xfers.map (fun y => if y.id = x.id then { y with dst := some h } else y) }
        (.parcelArrival x.id)
    else s.soon (.mailboxGrant x.id none)
  | none => s.soon (.mailboxGrant x.id none)
/-- A grant: of a parcel offered from outside, of one that waits here, or by another package for one posted here. -/
def mailboxGrant (n : Nat) (inc : Option ParcelIn) (s : State) : State :=
  match inc with
  | some p =>
    match s.migs.find? (fun m => decide (m.vf = p.vf) && decide (m.round = 3)) with
    | some m => s.send (.offerMoved p.pkg n m.dest)
    | none =>
    let id := 2 * (p.pkg * 18446744073709551616 + n) + 1
    if s.xfers.any (fun x => decide (x.id = id)) then s
    else if s.mboxRefuses p.vf p.die p.mbox p.len || !lenOk p.len then s.send (.grant p.pkg n false)
    else
      let x : Xfer := ⟨id, none, p.vf, p.pkg, 0, p.die, p.mbox, p.len, p.words, p.marks, none⟩
      State.tryGrant { s with xfers := s.xfers ++ [x] } x
  | none =>
    match s.xfers.find? (fun x => decide (x.id = n)) with
    | none => s
    | some x =>
      if x.dst.isSome then s
      else if x.id % 2 = 0 ∧ (s.task x.task).accs.any (fun a => decide (a.id < x.id / 2)) then s.soon (.mailboxGrant n none)
      else match x.far with
        | none => s.tryGrant x
        | some pkg =>
          let p := s.parcel x.vf x.src
          if p.st ≠ .sealedP then s
          else (s.setParcel x.vf x.src { p with st := .transit }).send
            (.parcel pkg (x.id / 2) (s.contents x.vf x.src p) p.marks)
/-- The oldest ARRIVED parcel of a mailbox becomes LOCAL; its result word (19 R332). -/
def State.takeParcel (s : State) (vf die n : Nat) : Option (Word × State) :=
  match s.arrivedAt vf die n with
  | [] => none
  | h :: rest =>
    let p := s.parcel vf h
    some (parcelResult 0 p.len h, (s.setMailbox vf die n rest).setParcel vf h { p with st := .localP })
/-- An earlier transfer of the same sender to the same mailbox has not arrived (19 R327). -/
def State.behind (s : State) (x : Xfer) : Bool :=
  (s.xfers.takeWhile (fun y => decide (y.id ≠ x.id))).any (fun y => y.dst.isSome && decide (y.far = none) && decide (y.vf = x.vf) &&
    decide (y.die = x.die) && decide (y.mbox = x.mbox) && decide (y.id % 2 = x.id % 2) &&
    (if x.id % 2 = 0 then decide (y.task = x.task) else decide (y.src = x.src)))
/-- Every word and mark is in the receiver's pool, after the parcels its sender posted before: the parcel is ARRIVED, and the oldest sleeper takes it. -/
def parcelArrival (n : Nat) (s : State) : State :=
  match s.xfers.find? (fun x => decide (x.id = n)) with
  | none => s
  | some x =>
    match x.dst with
    | none => s
    | some h =>
      if s.behind x then s.soon (.parcelArrival n) else
      let q := s.parcel x.vf x.src
      let (ws, marks) := if x.id % 2 = 0 then (s.contents x.vf x.src q, q.marks) else (x.words.take (x.len / 8), x.marks)
      let p := { s.parcel x.vf h with st := .arrived, marks := marks.filter (· < x.len / 8) }
      let s := (s.parcelWords x.vf h p 0 ws).setParcel x.vf h p
      let s := s.setMailbox x.vf x.die x.mbox (s.arrivedAt x.vf x.die x.mbox ++ [h])
      let s := if x.id % 2 = 0 then State.soon { s with xfers := s.xfers.map (fun y => if y.id = x.id then { y with dst := none, far := some s.ownPkg } else y) } (.parcelDeliveryAck x.id 0)
               else State.send { s with xfers := s.xfers.filter (fun y => decide (y.id ≠ x.id)) } (.ack x.src (x.id / 2 % 18446744073709551616) 0)
      let o := objWord 4 x.die x.mbox
      match (s.claspOf x.die).find? (fun e => decide (e.sort = .wait) && decide (e.obj = o) && decide (e.vf = x.vf)) with
      | none => s
      | some e =>
        match (s.task e.task).recv.find? (fun r => decide (r.box = x.mbox)), s.takeParcel x.vf x.die x.mbox with
        | some r, some (w, s) => s.endRecv e.task r w
        | _, _ => s
/-- The acknowledgement of a parcel posted here: 0 delivered, 2 refused, 3 unreachable; 4,096 and coordinates: the mailbox's VF
has moved there, where the poster retries (25 R422). -/
def parcelAck (n status : Nat) (s : State) : State :=
  match s.xfers.find? (fun x => decide (x.id = n)) with
  | none => s
  | some x =>
    if x.far.isNone ∨ x.id % 2 ≠ 0 then s
    else if 4096 ≤ status then match s.wordPkg (BitVec.ofNat 64 (status % 4096 * 4503599627370496)) with
      | some pkg =>
        let own := decide (pkg = s.ownPkg)
        let y : Xfer := { x with far := if own then none else some pkg }
        let s : State := { s with xfers := s.xfers.map (fun z => if z.id = n then y else z) }
        if own then s.soon (.mailboxGrant n none) else s.send (.offer x.vf pkg x.die x.mbox x.len (n / 2))
      | none => s.postEnd x 3
    else s.postEnd x (if status = 0 ∨ status = 2 then status else 3)
/-- PRECV (19 R332): its first step takes a parcel, is refused, or sleeps at the mailbox. It forms no record, asleep or not: the
held first step decides it at the mailbox, past any record that waits in the fabric queue, though Table 01.4 routes its opcode
there (DESIGN CHOICE, log 58). It writes no WAIT_STATUS (22 R363). -/
def execPrecv (g : Guard) (a b : RegF) (s : State) : R :=
  s.when g fun s =>
    let (y, s1) := s.takeI b
    let t := s.fg
    let d := s.bank.physI a
    let n := bits y.toNat 7 0
    let give (s : State) (w : Word) : State :=
      let (id, s) := s.fresh
      State.soon { s with fg := { s.fg with results := s.fg.results ++ [(⟨id, s.col, false, d, some (w.setWidth 1024), none⟩ : PendRes)] } }
        (.deliveredResultWrite t.key)
    if (s.vf t.vf).mbxCount ≤ n then s.trapNow Cause.segmentFault 4
    else match s1.takeParcel t.vf t.die n with
      | some (w, s2) => give s2 w
      | none =>
        if t.expired then give s1 (parcelResult 4 0 0)
        else match s1.claspInsert (objWord 4 t.die n) none with
          | .full s2 => if (s.vf t.vf).claspTrap then s2.trapHeld s Cause.claspFull 4 else give s2 (parcelResult 3 0 0)
          | .dead s2 => s2.trapHeld s Cause.deadlock 4
          | .ok s2 => State.decideCtl { s2 with fg := { s2.fg with waitStat := t.waitStat, recv := s2.fg.recv ++ [⟨n, s.col, d⟩] } }
              (fun c => { c with slept := true })

def execMailboxGrant (s : State) : R := match s.ev with | .mailboxGrant n i => .next (mailboxGrant n i s) | _ => .next s
def execParcelArrival (s : State) : R := match s.ev with | .parcelArrival n => .next (parcelArrival n s) | _ => .next s
def execParcelDeliveryAck (s : State) : R :=
  match s.ev with | .parcelDeliveryAck n c => .next (parcelAck n c s) | _ => .next s

end Sys2Proof.Machine
end

