-- ==== Sys2Proof/Machine/Fabric.lean ====
section
/-!
DEFINITION. The torus fabric (18 R299 to R320): link FIFO registers and their binding, remote operations, circuits, bead
tables, degraded links, and the events REQUEST_INJECT, REMOTE_REQUEST_RECEIVE, REMOTE_REPLY, RETRANSMIT_TIMEOUT,
CIRCUIT_FLIT_ARRIVAL, ENDPOINT_PACKET_ARRIVAL, SEND_FIFO_PARTIAL_FLUSH, UNSAFE_MAP_UPDATE, LANE_RETIREMENT and
BEAD_TABLE_COMMIT.
-/
namespace Sys2Proof.Machine

/-! Words of the D slot. -/

/-- The home a remote address word names (02 R30). -/
def State.remoteHome (s : State) (w : Word) : Home :=
  let die := bits w.toNat 51 48
  match s.wordPkg w with
  | some p => if p = s.ownPkg then
      (if bits w.toNat 41 40 = 1 then .ls (die * 36 + bits w.toNat 47 42) else .dm die)
    else .far p
  | none => .dm s.fg.die
/-- The memory number at a home that a remote address word names; in another package, die, core and offset. -/
def State.remoteAddr (s : State) (w : Word) (size : Nat) : Nat :=
  let off := bits w.toNat 27 0 - bits w.toNat 27 0 % size
  match s.remoteHome w with
  | .ls c => lsNo c (bits off 21 0)
  | .dm d => s.dmAt s.fg.vf d off
  | _ => bits w.toNat 51 40 * 2 ^ 28 + off
/-- Form a remote-operation record: its access takes its place now; a returning one awaits value and status (18 R314). -/
def State.remoteRec (s : State) (g : Guard) (ins : Instr) (a b : RegF) (pair : Bool) (c : BitVec 4) (size : Nat)
    (ld st ret : Bool) : R :=
  s.when g fun s =>
    let (x, s) := s.takeI a
    let (y, s) := s.takeI b
    let e := if pair then s.bank.i (s.bank.physI (pairField b)) else 0
    let (id, s) := s.fresh
    let val : List Byte := match ins with | .rput .. => bytesOf size y.toNat | _ => []
    let s := s.access id c.toNat ld st (s.remoteHome x) (s.remoteAddr x size) size val
    let rid := s.nid
    let (da, db) := (s.bank.physI a, s.bank.physI b)
    let s := s.formRec ins .fabric x y e id da
    if ret then
      let rs : List PendRes := [⟨rid, s.col, false, da, none, none⟩, ⟨id, s.col, false, db, none, none⟩]
      { s with fg := { s.fg with results := s.fg.results ++ rs } }
    else s
def wSize (w : BitVec 1) : Nat := if w.getLsbD 0 then 4 else 8
def execRadd (g : Guard) (a b : RegF) (c : BitVec 4) (r w : BitVec 1) (s : State) : R :=
  s.remoteRec g (.radd g a b c r w) a b false c (wSize w) (r.getLsbD 0) true (r.getLsbD 0)
def execRcas (g : Guard) (a b : RegF) (c : BitVec 4) (w : BitVec 1) (s : State) : R :=
  s.remoteRec g (.rcas g a b c w) a b true c (wSize w) true true true
def execRswp (g : Guard) (a b : RegF) (c : BitVec 4) (w : BitVec 1) (s : State) : R :=
  s.remoteRec g (.rswp g a b c w) a b false c (wSize w) true true true
def execRget (g : Guard) (a b : RegF) (c : BitVec 4) (z : BitVec 2) (s : State) : R :=
  s.remoteRec g (.rget g a b c z) a b false c (putSize z) true false true
def execRput (g : Guard) (a b : RegF) (c : BitVec 4) (z : BitVec 2) (s : State) : R :=
  s.remoteRec g (.rput g a b c z) a b false c (putSize z) false true false
def execRred (g : Guard) (a b : RegF) (c : BitVec 4) (fl : BitVec 2) (s : State) : R :=
  s.remoteRec g (.rred g a b c fl) a b false c 128 false true false
def execLqbind (g : Guard) (a : RegF) (u m d : BitVec 1) (n : BitVec 3) (s : State) : R :=
  let ins : Instr := .lqbind g a u m d n
  if u.getLsbD 0 || (m.getLsbD 0 && !d.getLsbD 0) then s.rec0 g ins .fabric else s.rec1 g ins .fabric a
def execBeadld (g : Guard) (a b : RegF) (m : BitVec 1) (n : BitVec 2) (s : State) : R :=
  s.privileged 4 (s.rec2 g (.beadld g a b m n) .fabric a b)

/-! Link registers (18 R308 to R310, R317). -/

/-- Link register n of a task's column, and its replacement. -/
def Task.lqAt (t : Task) (col n : Nat) : Lq := vget Lq.none (t.bank col).lq n
def State.mapLq (s : State) (k col n : Nat) (f : Lq → Lq) : State :=
  s.mapTask k (fun t => let b := t.bank col; t.setBank col { b with lq := vset b.lq n (f (vget Lq.none b.lq n)) })
/-- A task's link registers stand at their columns: also of a task stopped urgently to be moved with its VF (18 R310). -/
def Task.lqLive (t : Task) : Bool := t.alive && (t.hasLs || decide (t.state = .evicted))
/-- A task has a bound link register. -/
def Task.bound (t : Task) : Bool := t.banks.any (fun b => b.lq.any (fun q => q.bind.isSome))
/-- Every link register of the living tasks: task, column, number. -/
def State.lqs (s : State) : List (Task × Nat × Nat) :=
  (s.tasks.filter Task.alive).flatMap (fun t =>
    (List.range 4).flatMap (fun c => (List.range 8).map (fun n => (t, c, n))))
/-- The task, column and number of the receive endpoint that a word names for a VF (18 R308). -/
def State.endpoint (s : State) (w : Word) (vf : Nat) : Option (Task × Nat × Nat) :=
  let core := bits w.toNat 51 48 * 36 + bits w.toNat 47 42
  let phys := core * 4 + bits w.toNat 4 3
  s.lqs.find? (fun e => decide (e.1.vf = vf) && e.1.lqLive && decide (e.2.1 < e.1.width) && decide (e.2.2 = bits w.toNat 2 0) &&
    decide (physCol e.1.unit e.1.width e.2.1 = phys) && decide ((e.1.lqAt e.2.1 e.2.2).bind = some .recvEnd))
/-- The endpoint word of a link register (18 Table 18.3). -/
def State.endWord (s : State) (t : Task) (col n : Nat) : Word :=
  let p := s.ownPkg
  let phys := physCol t.unit t.width col
  BitVec.ofNat 64 (p % 16 * 2 ^ 60 + p / 16 % 16 * 2 ^ 56 + p / 256 * 2 ^ 52 + phys / 144 * 2 ^ 48 + phys / 4 % 36 * 2 ^ 42 + 2 ^ 41 +
    phys % 4 * 8 + n)
/-- Words of packets under way to an endpoint. -/
def State.underWay (s : State) (w : Word) (vf : Nat) : Nat :=
  let words (l : List RemoteReq) : Nat := (l.filter (fun r => decide (r.op = .endpoint) && decide (r.addr = w) && decide (r.vf = vf))).foldl
      (fun a r => a + r.vec.length / 8) 0
  (s.fab.pkts.filter (fun p => decide (p.dst = w) && decide (p.vf = vf))).foldl (fun a p => a + p.ws.length) 0 +
    words s.fab.wire + words (s.fab.pend.map (·.req))
/-- A sender has credit for some words (18 R308): a circuit's inject port holds no flit of it; to an endpoint of this package,
what its FIFO still takes; to another package's, what that has granted and returned. A packet leaves like any request (R302,
R303). -/
def State.hasCredit (s : State) (t : Task) (q : Lq) (col n len : Nat) : Bool :=
  match q.bind with
  | some (.sendCirc c) => !q.lost && !s.fab.flits.any (fun f => decide (f.1 = (24 + t.die) * 256 + c))
  | some (.sendEnd dst) =>
    (match s.wordPkg dst with
      | some p =>
        (s.mayInject (Remote.mk' p (packetReq t.die t.vf dst []) t.key col 0 0 n false)).isSome &&
        !s.fab.pend.any (fun o => decide (o.req.srcDie = t.die)) &&
        (if p = s.ownPkg then
          (match s.endpoint dst t.vf with
            | some (r, c, m) => decide ((r.lqAt c m).fifo.length + s.underWay dst t.vf + len ≤ 64)
            | none => false)
        else decide (len ≤ q.credit))
      | none => false)
  | _ => false
/-- A send FIFO sends one flit, if it has credit for it. -/
def State.sendFlit (s : State) (k col n len : Nat) : State :=
  let t := s.task k
  let q := t.lqAt col n
  match q.bind with
  | some b =>
    if 0 < len ∧ len ≤ q.fifo.length ∧ s.hasCredit t q col n len then
      (s.mapLq k col n (fun q => { q with fifo := q.fifo.drop len, credit := q.credit - len })).sendWords t b col n (q.fifo.take len)
    else s
  | none => s
/-- Take n words from the senders of a receive FIFO, oldest first: what each gets back, and what stays. -/
def takeSrc : List (Nat × Nat × Nat) → Nat → List (Nat × Nat × Nat) × List (Nat × Nat × Nat)
  | [], _ => ([], [])
  | (p, d, k) :: r, n =>
    if n = 0 then ([], (p, d, k) :: r)
    else if n < k then ([(p, d, n)], (p, d, k - n) :: r)
    else
      let (a, b) := takeSrc r (n - k)
      ((p, d, k) :: a, b)
/-- The words popped from a receive endpoint return their credit to the packages they came from (18 R308); within the package
the credit is the room in the FIFO. -/
def State.returnCredit (s : State) (k col n : Nat) : State :=
  let q := (s.task k).lqAt col n
  let held := q.src.foldl (fun a e => a + e.2.2) 0
  if held ≤ q.fifo.length then s
  else
    let (back, left) := takeSrc q.src (held - q.fifo.length)
    let w := s.endWord (s.task k) col n
    back.foldl (fun s e => if e.1 = s.ownPkg then s else s.send (.credit (some e.1) w e.2.2))
      (s.mapLq k col n (fun q => { q with src := left }))
/-- One cycle of a task's link registers: full flits leave, and a partial one once 16 cycles pass with no push; a receive
endpoint returns credit. -/
def State.lqCycle (s : State) (k : Nat) : State :=
  (List.range 4).foldl (fun s col => (List.range 8).foldl (fun s n =>
    let q := (s.task k).lqAt col n
    match q.bind with
    | some (.sendCirc _) | some (.sendEnd _) =>
      let s := if 8 ≤ q.fifo.length then s.sendFlit k col n 8 else s
      let q := (s.task k).lqAt col n
      if q.fifo.isEmpty then s
      else if 16 ≤ q.quiet then s.soon (.sendFifoPartialFlush k col n)
      else s.mapLq k col n (fun q => { q with quiet := q.quiet + 1 })
    | some .recvEnd => s.returnCredit k col n
    | _ => s) s) s
def partialFlush (k col n : Nat) (s : State) : State :=
  let q := (s.task k).lqAt col n
  if 16 ≤ q.quiet ∧ q.fifo.length < 8 then s.sendFlit k col n q.fifo.length else s
/-- Words reach a bound receive register; a bound queue takes them (13 R247). -/
def State.pushLq (s : State) (t : Task) (col n : Nat) (ws : List Word) : State :=
  let s := s.mapLq t.key col n (fun q => { q with fifo := q.fifo ++ ws })
  match (t.lqAt col n).queue with
  | some qb => s.soon (.boundQueueWord (physCol t.unit t.width col) qb)
  | none => s
/-- The oldest packet for an endpoint is delivered when its FIFO takes it; without the binding its words are dropped. `src` is
the sender's package · 16 + die. -/
def packetArrival (src : Nat) (dst : Word) (vf : Nat) (ws : List Word) (s : State) : State :=
  let s : State := if ws.isEmpty then s else { s with fab := { s.fab with pkts := s.fab.pkts ++ [⟨dst, vf, ws, (src / 16, src % 16)⟩] } }
  match s.fab.pkts.find? (fun p => decide (p.dst = dst) && decide (p.vf = vf)) with
  | none => s
  | some p =>
    let gone : State := { s with fab := { s.fab with pkts := s.fab.pkts.erase p } }
    match s.endpoint dst vf with
    | none => gone.tally (109 + bits dst.toNat 51 48) p.ws.length
    | some (t, col, n) =>
      let s := if (t.lqAt col n).fifo.length + p.ws.length ≤ 64 then
          (gone.pushLq t col n p.ws).mapLq t.key col n (fun q => { q with src := q.src ++ [(p.src.1, p.src.2, p.ws.length)] })
        else s
      s.soon (.endpointPacketArrival src (bits dst.toNat 51 48) dst vf [])
/-- A circuit flit at an input or an eject port: a link input holds it for a slot (18 R306, key port · 256). At the eject port
of a die, input number 36 + die here, the oldest flit of a circuit goes to the register bound to it; none bound, it is dropped and
counted. -/
def flitArrival (port circ : Nat) (ws : List Word) (s : State) : State :=
  let key := if port < 24 then port * 256 else (port + 12) * 256 + circ
  let s : State := if ws.isEmpty then s else { s with fab := { s.fab with flits := s.fab.flits ++ [(key, ws.take 8)] } }
  if port < 24 then s
  else match s.fab.flits.find? (fun f => decide (f.1 = key)) with
  | none => s
  | some f =>
    let gone : State := { s with fab := { s.fab with flits := s.fab.flits.erase f } }
    match s.lqs.find? (fun e => e.1.lqLive && decide (24 + e.1.die = port) &&
        decide ((e.1.lqAt e.2.1 e.2.2).bind = some (.recvCirc circ))) with
    | none => (gone.tally (73 + port) 1).soon (.circuitFlitArrival port circ [])
    | some (t, col, n) =>
      let s := if (t.lqAt col n).fifo.length + f.2.length ≤ 64 then gone.pushLq t col n f.2 else s
      s.soon (.circuitFlitArrival port circ [])

/-! Frames and slots (18 R305, R306). -/

/-- Lanes usable on a link in one direction. -/
def State.lanesOf (s : State) (link : Nat) (out : Bool) : Nat := 8 - fget 0 s.fab.lost (link * 2 + out.toNat)
/-- The flit time at a moment, counted in 0.32 ns; a frame is 256 of them, and 6,400 fill 2,048 ns. -/
def State.flitTime (s : State) : Nat := (2 * s.tai + s.cycle) * 25 / 16
/-- The key at which a bead entry's circuit flits are held: an inject port holds them by circuit, a link input together. -/
def beadKey (w : Nat) : Nat := if bits w 13 8 < 24 then bits w 13 8 * 256 else bits w 13 8 * 256 + bits w 7 0
/-- Slot n of one output port: the oldest flit that its USED entry names leaves, on a link only in a slot that the usable lanes
carry (18 R319), or for an eject port, one at a time. Packet traffic has every other slot; it takes no time here (log 48). -/
def State.fabPort (s : State) (n port w : Nat) : State :=
  let key := (port + 12) * 256 + bits w 7 0
  let open_ := if port < 24 then decide (n % 8 < s.lanesOf port true) else !s.fab.flits.any (fun f => decide (f.1 = key))
  match s.fab.flits.find? (fun f => decide (f.1 = beadKey w)) with
  | none => s
  | some f =>
    if bits w 15 14 ≠ 1 ∨ !open_ then s
    else
      let gone : State := { s with fab := { s.fab with flits := s.fab.flits.erase f } }
      if port < 24 then gone.send (.circuit port n f.2)
      else State.soon { gone with fab := { gone.fab with flits := gone.fab.flits ++ [(key, f.2)] } }
        (.circuitFlitArrival port (bits w 7 0) [])
/-- The flit times since another one, each of its slot at every output port. -/
def State.fabSlots (s : State) (since : Nat) : State :=
  if s.fab.flits.isEmpty then s
  else (List.range (min 256 (s.flitTime - since))).foldl (fun s i =>
    let n := (since + 1 + i) % 256
    (s.fab.bead.filter (fun e => decide (e.1 % 256 = n))).foldl (fun s e => s.fabPort n (e.1 / 256) e.2) s) s
/-- A queue's binding to a link register ends: complete entries stay, a partial one is discarded (18 R320). -/
def State.unbindQueue (s : State) (t : Task) (col n : Nat) : State :=
  match (t.lqAt col n).queue with
  | none => s
  | some qb =>
    let s := s.mapLq t.key col n (fun q => { q with queue := none })
    s.mapStrip (physCol t.unit t.width col) (fun x =>
      { ((x.setQueue qb ((x.queue qb).filter (·.done))).setBound qb none) with
        partDrop := x.partDrop || (x.queue qb).any (fun e => !e.done) })
/-- Of the tasks that have the column of an endpoint word, if any, one is of the VF (18 R317). -/
def State.endOwner (s : State) (w : Word) (vf : Nat) : Bool :=
  let phys := (bits w.toNat 51 48 * 36 + bits w.toNat 47 42) * 4 + bits w.toNat 4 3
  let there (t : Task) : Bool := t.lqLive && (List.range t.width).any (fun c => decide (physCol t.unit t.width c = phys))
  s.tasks.any (fun t => decide (t.vf = vf) && there t) || !s.tasks.any (fun t => decide (t.vf ≠ vf) && there t)
/-- LQBIND at the fabric engine (18 R317), none while UNBIND waits for its send FIFO to be sent out. The VF of a target in another
package is tested there, at each packet, whose refusal raises OWNER (DEDUCED, log 48). -/
def State.takeLqbind (s : State) (r : Rec) (unbind ep send : Bool) (n : Nat) : Option State :=
  let t := s.task r.task
  let q := t.lqAt r.col n
  let bind (b : LqBind) : Option State := some (s.mapLq t.key r.col n (fun _ => { Lq.none with bind := some b }))
  let bad (c : Nat) : Option State := some (s.raise t.key c r.col)
  let sends : Bool := match q.bind with | some (.sendCirc _) | some (.sendEnd _) => true | _ => false
  if unbind then
    if sends && !q.lost && !q.fifo.isEmpty then none
    else some ((s.unbindQueue t r.col n).mapLq t.key r.col n (fun _ => Lq.none))
  else if q.bind.isSome then bad Cause.owner
  else if !ep then
    let c := bits r.s1.toNat 7 0
    let b : LqBind := if send then .sendCirc c else .recvCirc c
    if fget 0 s.fab.circ (t.die * 256 + c) ≠ (s.vf t.vf).part + 1 ∨
        s.lqs.any (fun e => decide (e.1.die = t.die) && decide ((e.1.lqAt e.2.1 e.2.2).bind = some b)) then bad Cause.owner
    else bind b
  else if !send then (bind .recvEnd).map (fun x => x.send (.credit none (s.endWord t r.col n) 64))
  else
    let w := r.s1
    if bits w.toNat 41 40 ≠ 2 then bad Cause.owner
    else if (s.wordPkg w).isNone ∨ 12 ≤ bits w.toNat 51 48 ∨ 36 ≤ bits w.toNat 47 42 ∨ bits w.toNat 27 5 ≠ 0 then
      bad Cause.segmentFault
    else if s.wordPkg w = some s.ownPkg ∧ !s.endOwner w t.vf then bad Cause.owner
    else bind (.sendEnd w)

/-! Injection (18 R302, R311, R316). -/

/-- A remote operation that is refused at the source performs nothing. -/
def State.remoteRefused (s : State) (r : Rec) (cause : Nat) : State :=
  let s := (s.performed r.task r.acc).raise r.task cause r.col
  (s.grant r.task r.id 0).grant r.task r.acc (BitVec.ofNat 64 (cause * 256 + 2))
/-- The request a remote record becomes; RRED's bytes are read by `injectRemote`. -/
def remoteReq (r : Rec) (die vf : Nat) : Option RemoteReq :=
  let mk (op : RemoteOp) (size : Nat) (fmt : Nat) : Option RemoteReq :=
    some ⟨0, die, 0, false, vf, op, r.s1, size, r.s2, r.pair, fmt, [], none, false⟩
  match r.ins with
  | .radd _ _ _ _ _ w => mk .add (wSize w) 0
  | .rcas _ _ _ _ w => mk .cas (wSize w) 0
  | .rswp _ _ _ _ w => mk .swp (wSize w) 0
  | .rget _ _ _ _ z => mk .get (putSize z) 0
  | .rput _ _ _ _ z => mk .put (putSize z) 0
  | .rred _ _ _ _ fl => mk .red 128 fl.toNat
  | _ => none
/-- The returning operations (18 R314). -/
def returning : Instr → Bool
  | .radd _ _ _ _ r _ => r.getLsbD 0
  | .rcas .. | .rswp .. | .rget .. => true
  | _ => false
/-- A remote record at the head of the queue: refused, sent, or none while it waits (18 R302, R303). An RRED's source BYTE that is
not a multiple of 128 is aligned down to one: Table 18.7 gives no consequence (DESIGN CHOICE, log 48). -/
def State.injectRemote (s : State) (r : Rec) (q : RemoteReq) : Option State :=
  let t := s.task r.task
  let w := r.s1.toNat
  let kind := bits w 41 40
  match s.wordPkg r.s1 with
  | none => some (s.remoteRefused r Cause.segmentFault)
  | some pkg =>
    let o := Remote.mk' pkg q r.task r.col r.acc r.id 0 (returning r.ins)
    if 2 ≤ kind ∨ 12 ≤ bits w 51 48 ∨ (kind = 1 ∧ (36 ≤ bits w 47 42 ∨ bits w 27 22 ≠ 0)) ∨ (q.op = .red ∧ kind ≠ 1) then
      some (s.remoteRefused r Cause.segmentFault)
    else if t.may r.acc ≠ .home then none
    else if (s.mayInject o).isNone ∨ s.fab.pend.any (fun x => decide (x.req.srcDie = t.die)) then none
    else if q.op ≠ .red then some (s.inject o)
    else if s.lsStores (coreOf t.unit) then none
    else
      let v := r.s2.toNat
      let tile := bits v 21 12
      let core := coreOf t.unit
      if t.lsSize ≤ tile ∨ s.owner core (t.lsBase + tile) ≠ ownerByte 2 r.col (t.unit % 4) then
        some (s.remoteRefused r Cause.owner)
      else if s.tilePoisoned core (t.lsBase + tile) then some (s.remoteRefused r Cause.poison)
      else
        let byte := bits v 11 0 / 128 * 128
        let vec := s.bytes (lsNo core ((t.lsBase + tile) * 4096 + byte)) 128
        some (s.inject { o with req := { q with vec := vec, sem := if bits v 50 50 = 1 then some (bits v 49 22) else none } })

/-! Bead tables (18 R305, R318, R319). -/

/-- USED entries of a port's table. -/
def usedBeads (m : FMap Nat) (port : Nat) : List (Nat × Nat) :=
  m.filter (fun e => decide (e.1 / 256 = port) && decide (bits e.2 15 14 = 1))
/-- A port's table leaves its link's buffer the reserve (18 R319). -/
def State.beadFits (s : State) (m : FMap Nat) (port : Nat) : Bool :=
  decide (24 ≤ port) || decide (27 + (usedBeads m port).length ≤ 24 * s.lanesOf port true)
/-- BEADLD at the fabric engine. A table too large for its link's buffer is refused, and so is an entry of another
partition (25 R413). -/
def State.takeBeadld (s : State) (r : Rec) (commit : Bool) (count : Nat) : State :=
  let port := bits r.s1.toNat 5 0
  let first := bits r.s1.toNat 15 8
  let own := (s.vf (s.task r.task).vf).part + 1
  let others := (List.range count).any (fun k =>
    let p := fget 0 s.pmap.beads (port * 256 + (first + k) % 256)
    decide (p ≠ 0) && decide (p ≠ own))
  if 35 < port || others then s
  else
    let m := (List.range count).foldl (fun m k =>
      fset 0 m (port * 256 + (first + k) % 256) (bits r.s2.toNat (16 * k + 15) (16 * k))) s.fab.shadow
    let s : State := if s.beadFits m port then { s with fab := { s.fab with shadow := m } } else s
    if commit then
      State.soon { s with fab := { s.fab with commit := some ((s.now / 2048 + 1) * 2048) } } .beadTableCommit
    else s
/-- The shadow tables become the active ones at their time, but for a table that has become too large for its link's buffer, which
is refused (18 R318, R319; DEDUCED). A circuit flit held for an output whose new table no longer names its input is discarded and
counted. -/
def beadCommit (s : State) : State :=
  match s.fab.commit with
  | none => s
  | some n =>
    if s.now < n then s.soon .beadTableCommit
    else
      let old := s.fab.bead
      let b := s.fab.shadow.filter (fun e => s.beadFits s.fab.shadow (e.1 / 256)) ++
        old.filter (fun e => !s.beadFits s.fab.shadow (e.1 / 256))
      let b := b.foldl (fun m e => fset 0 m e.1 e.2) []
      let outs (m : FMap Nat) (key : Nat) : List Nat :=
        (m.filter (fun e => decide (bits e.2 15 14 = 1) && decide (beadKey e.2 = key))).map (fun e => e.1 / 256)
      let gone (key : Nat) : Bool := !(outs old key).isEmpty && (outs old key).all (fun p => !(outs b key).elem p)
      let lost := s.fab.flits.filter (fun f => gone f.1)
      let s : State := { s with fab := { s.fab with bead := b, commit := none, flits := s.fab.flits.filter (fun f => !gone f.1) } }
      lost.foldl (fun s f => s.tally (73 + (outs old f.1).headD 0) 1) s
/-- The lqs of a die bound to a circuit in a direction lose it (18 R320). -/
def State.loseCircuit (s : State) (die c : Nat) (send : Bool) : State :=
  let b : LqBind := if send then .sendCirc c else .recvCirc c
  s.lqs.foldl (fun s (t, col, n) =>
    if t.die = die ∧ (t.lqAt col n).bind = some b ∧ !(t.lqAt col n).lost then
      ((s.unbindQueue t col n).mapLq t.key col n (fun q => { q with lost := true })).raise t.key Cause.circuitLost col
    else s) s
/-- Revoke the circuit of a bead entry by key: every entry of it here becomes FREE, its held flits are discarded, its lqs lose
it; the packages of its other hops are told (18 R320). On transit an entry's CIRC is ignored, so there an entry is a circuit. -/
def State.revoke (s : State) (key : Nat) : State :=
  let port := key / 256
  let w := fget 0 s.fab.bead key
  let inp := bits w 13 8
  let c := bits w 7 0
  let same (e : Nat × Nat) : Bool := if 24 ≤ inp ∨ 24 ≤ port then
    decide (e.1 / 256 = port) && decide (e.2 = w) else decide (e.1 = key)
  let held (f : Nat × List Word) : Bool := decide (f.1 = beadKey w) || (decide (24 ≤ port) && decide (f.1 = (port + 12) * 256 + c))
  let s : State := { s with fab := { s.fab with
    bead := s.fab.bead.filter (fun e => !same e), shadow := s.fab.shadow.filter (fun e => !same e),
    flits := s.fab.flits.filter (fun f => !held f) } }
  let s := if 24 ≤ inp then s.loseCircuit (inp - 24) c true else s.send (.revoked inp (key % 256))
  if 24 ≤ port then s.loseCircuit (port - 24) c false else s.send (.revoked port (key % 256))
/-- Circuits leave in descending id while the reserve exceeds the buffer. -/
def State.shed (s : State) (link lanes : Nat) : Nat → State
  | 0 => s
  | n + 1 =>
    let l := usedBeads s.fab.bead link
    if 27 + l.length ≤ 24 * lanes then s
    else match l.foldl (fun (a : Option (Nat × Nat)) e => match a with
        | none => some e
        | some b => if bits b.2 7 0 < bits e.2 7 0 then some e else some b) none with
      | some e => (s.revoke e.1).shed link lanes n
      | none => s
/-- A lane is retired (18 R320). An input's circuits are revoked by the neighbour: which ones is free. -/
def laneRetired (link : Nat) (out : Bool) (s : State) : State :=
  if 24 ≤ link ∨ s.lanesOf link out = 0 then s
  else
    let s : State := (s.tally (49 + link) 1)
    let k := link * 2 + out.toNat
    let s : State := { s with fab := { s.fab with lost := fset 0 s.fab.lost k (fget 0 s.fab.lost k + 1) } }
    let l := s.lanesOf link out
    let s := if out then
        (((usedBeads s.fab.bead link).filter (fun e => decide (l ≤ e.1 % 8))).foldl (fun s e => s.revoke e.1) s).shed link l 256
      else
        (s.fab.bead.filter (fun e => decide (bits e.2 15 14 = 1) && decide (bits e.2 13 8 = link))).foldl (fun s e =>
          let (n, s) := s.choose
          if n % 2 = 1 then s.revoke e.1 else s) s
    let id := s.ownPkg * 24 + link
    if 24 * l < 27 ∧ !s.fab.unsafeLinks.elem id then
      State.send { s with fab := { s.fab with unsafeLinks := s.fab.unsafeLinks ++ [id] } } (.host 0 6 [link])
    else s
/-- The broadcast map of UNSAFE links: requests that waited for a way may leave now (18 R303). -/
def unsafeMap (links : List Nat) (s : State) : State :=
  State.drainPend { s with fab := { s.fab with unsafeLinks := links } } (s.fab.pend.length + 1)

/-! The fabric queue (01 R16). -/

/-- Take the head record of a unit's fabric queue, if it may go. -/
def State.takeFabric (s : State) (r : Rec) : Option State :=
  let t := s.task r.task
  match r.ins with
  | .lqbind _ _ u m d n => s.takeLqbind r (u.getLsbD 0) (m.getLsbD 0) (d.getLsbD 0) n.toNat
  | .beadld _ _ _ m n => some (s.takeBeadld r (m.getLsbD 0) (n.toNat + 1))
  | .pnew .. | .pgrow .. | .ptrim .. | .pfree .. => some (s.parcelCmd r)
  | _ => match remoteReq r t.die t.vf with
    | some q => s.injectRemote r q
    | none => some s
def requestInject (u : Nat) (s : State) : State :=
  match (s.unit u).qFabric with
  | [] => s
  | r :: rest =>
    match (s.mapUnit u (fun x => { x with qFabric := rest })).takeFabric r with
    | some s => ((s.soon (.requestInject u)).soon (.commandRecordEntry u .fabric)).settle r.task
    | none => s.soon (.requestInject u)

/-! At the receive side (18 R312, R313, R315, R316). -/

/-- The new value of a remote word operation. -/
def remoteNew (op : RemoteOp) (size old v e : Nat) : Nat :=
  let m := 2 ^ (8 * size)
  match op with
  | .add => (old + v) % m
  | .cas => if old = e % m then v % m else old
  | .swp | .put => v % m
  | .finish => if m / 2 ≤ old then old else v % m
  | _ => old
/-- The reduction of one vector into another. -/
def redVec (fmt : Nat) (dst src : List Byte) : List Byte :=
  let w := if fmt = 2 then 2 else 4
  (List.range (128 / w)).flatMap (fun k =>
    let a := ofBytes ((dst.drop (w * k)).take w)
    let b := ofBytes ((src.drop (w * k)).take w)
    bytesOf w (match fmt with | 0 => bfSum fp32 a b | 1 => (a + b) % 4294967296 | _ => bfSum bf16 a b))
/-- A word operation at DM. -/
def State.remoteDm (s : State) (r : RemoteReq) (die : Nat) : ReplyKind × State :=
  let off := bits r.addr.toNat 27 0 - bits r.addr.toNat 27 0 % r.size
  if vget 0 (s.vf r.vf).dmSize die < off + r.size then (.refused Cause.segmentFault, s)
  else
    let a := s.dmAt r.vf die off
    if s.dmPoisoned a r.size && decide (r.op ≠ .put) then (.refused Cause.poison, s)
    else
      let old := s.num a r.size
      (.done (BitVec.ofNat 64 old), if r.op = .get then s
        else s.dmWrite die a (bytesOf r.size (remoteNew r.op r.size old r.val.toNat r.exp.toNat)))
/-- Increment a semaphore word at its bank. -/
def State.semInc (s : State) (vf die off : Nat) : State :=
  let a := s.dmAt vf die off
  s.dmWrite die a (bytesOf 8 (s.num a 8 + 1))
/-- A word operation or a reduction at LS. RRED's destination OFFSET that is not a multiple of 128 is refused SEGMENT_FAULT here: 18
R316 says must and gives no consequence (DESIGN CHOICE, log 48). -/
def State.remoteLs (s : State) (r : RemoteReq) (die : Nat) : ReplyKind × State :=
  let core := die * 36 + bits r.addr.toNat 47 42
  let tile := bits r.addr.toNat 21 12
  let byte := bits r.addr.toNat 11 0 - bits r.addr.toNat 11 0 % r.size
  let o := s.owner core tile
  let a := lsNo core (tile * 4096 + byte)
  let mine := s.tasks.any (fun t => t.alive && t.hasLs && decide (t.vf = r.vf) && decide (coreOf t.unit = core) &&
    decide (t.lsBase ≤ tile) && decide (tile < t.lsBase + t.lsSize))
  if 36 ≤ bits r.addr.toNat 47 42 || decide (bits r.addr.toNat 27 22 ≠ 0) || !mine then (.refused Cause.segmentFault, s)
  else if !(o.getLsbD 7 && decide (bits o.toNat 6 4 = 2)) then (.refused Cause.owner, s)
  else if r.op = .red then
    let semBad : Bool := match r.sem with
      | some n => decide (n % 8 ≠ 0) || decide (vget 0 (s.vf r.vf).dmSize die < n + 8)
      | none => false
    if bits r.addr.toNat 11 0 % 128 ≠ 0 ∨ semBad then (.refused Cause.segmentFault, s)
    else if s.tilePoisoned core tile ||
        (match r.sem with | some n => s.dmPoisoned (s.dmAt r.vf die n) 8 | none => false) then (.refused Cause.poison, s)
    else
      let s := s.setBytes a (redVec r.fmt (s.bytes a 128) r.vec)
      (.done 0, match r.sem with | some n => s.semInc r.vf die n | none => s)
  else if s.tilePoisoned core tile && decide (r.op ≠ .put) then (.refused Cause.poison, s)
  else
    let old := s.num a r.size
    (.done (BitVec.ofNat 64 old), if r.op = .get then s
      else s.setNum a r.size (remoteNew r.op r.size old r.val.toNat r.exp.toNat))
/-- Carry out a request at its die. -/
def State.carryOut (s : State) (r : RemoteReq) : ReplyKind × State :=
  let die := bits r.addr.toNat 51 48
  if 12 ≤ die then (.refused Cause.segmentFault, s)
  else match r.op with
    | .endpoint =>
      let n := r.vec.length / 8
      let ws := (List.range n).map (fun k => (BitVec.ofNat 64 (ofBytes ((r.vec.drop (8 * k)).take 8)) : Word))
      if !s.endOwner r.addr r.vf then (.refused Cause.owner, s)
      else (.done (BitVec.ofNat 64 n), State.soon { s with fab := { s.fab with
          pkts := s.fab.pkts ++ [⟨r.addr, r.vf, ws, (r.srcPkg, r.srcDie)⟩] } }
        (.endpointPacketArrival (r.srcPkg * 16 + r.srcDie) die r.addr r.vf []))
    | .signal => (.done 0, s.semInc r.vf die (bits r.addr.toNat 27 0 / 8 * 8))
    | _ =>
      if r.size = 0 ∨ 128 < r.size then (.refused Cause.segmentFault, s)
      else if bits r.addr.toNat 41 40 = 1 then s.remoteLs r die
      else if r.op = .red then (.refused Cause.segmentFault, s)
      else s.remoteDm r die
/-- Send a reply to the requester's die (18 R314). -/
def State.answer (s : State) (r : RemoteReq) (k : ReplyKind) : State :=
  if r.srcPkg = s.ownPkg then s.soon (.remoteReply ⟨r.srcDie, r.xid, k⟩) else s.send (.reply r.srcPkg r.srcDie r.xid k)
/-- The replay cache of a die's eject port takes an entry as its most recent of 256 (18 R313). -/
def State.remember (s : State) (die : Nat) (e : Replay) : State :=
  { s with fab := { s.fab with replay := fset [] s.fab.replay die ((e :: (fget [] s.fab.replay die).erase e).take 256) } }
/-- The forwarding stub of a migrating VF passes a request on to the destination, as a request of its own whose answer is the
answer to the first (24 R412). -/
def State.forward (s : State) (r : RemoteReq) (dest : Nat) : State :=
  match s.wordPkg (BitVec.ofNat 64 (dest * 4503599627370496)) with
  | some pkg => s.inject { Remote.mk' pkg { r with srcDie := bits r.addr.toNat 51 48, addr := putBits r.addr 63 52 dest, stub := true } 0 0 0 0 0 true with
      fwd := some (r.srcPkg, r.srcDie, r.xid) }
  | none => s
/-- A request executes, once: its reply goes into the replay cache and out. -/
def State.execute (s : State) (r : RemoteReq) : State :=
  let (k, s) := s.carryOut r
  (s.remember (bits r.addr.toNat 51 48) ⟨r.srcPkg, r.srcDie, r.xid, k⟩).answer r k
/-- A request at its die's eject port: the replay cache answers a known key, a lost first transmission is STALE, else it
executes once (18 R313). For a VF that migrates, the stub forwards what comes from another package and remembers the key, whose
retransmissions wait for the answer; once moved, a key that was neither executed nor forwarded is answered MOVED. What a stub sent
on waits for the activation (24 R412, log 55). -/
def State.receive (s : State) (r : RemoteReq) : State :=
  let die := bits r.addr.toNat 51 48
  match (fget [] s.fab.replay die).find? (fun e =>
    decide (e.pkg = r.srcPkg) && decide (e.die = r.srcDie) && decide (e.xid = r.xid)) with
  | some e =>
    let s := s.remember die e
    if e.kind = .forwarded then s else s.answer r e.kind
  | none =>
    let waits := r.stub && decide ((s.vf r.vf).iface ≠ .run)
    if waits && s.fab.held.any (fun q => decide (q.srcPkg = r.srcPkg) && decide (q.srcDie = r.srcDie) && decide (q.xid = r.xid)) then s
    else if r.retx then s.answer r .stale
    else if waits then { s with fab := { s.fab with held := s.fab.held ++ [r] } }
    else match s.migs.find? (fun m => decide (m.vf = r.vf) && decide (0 < m.round)) with
      | some m =>
        if m.round = 3 then s.answer r (.moved m.dest)
        else if r.srcPkg = s.ownPkg then s.execute r
        else (s.remember die ⟨r.srcPkg, r.srcDie, r.xid, .forwarded⟩).forward r m.dest
      | none => s.execute r
/-- The VF is active here: what its stub sent on before executes, in order (24 R412). -/
def State.releaseStub (s : State) (vf : Nat) : State :=
  (s.fab.held.filter (fun r => decide (r.vf = vf))).foldl State.receive
    { s with fab := { s.fab with held := s.fab.held.filter (fun r => decide (r.vf ≠ vf)) } }
/-- The answer to a forwarded request: the cache keeps it under the first requester's key, and the requester gets it. -/
def State.forwarded (s : State) (r : RemoteReq) (key : Nat × Nat × Nat) (k : ReplyKind) : State :=
  let die := bits r.addr.toNat 51 48
  let l := (fget [] s.fab.replay die).map (fun e =>
    if e.pkg = key.1 ∧ e.die = key.2.1 ∧ e.xid = key.2.2 ∧ e.kind = .forwarded then { e with kind := k } else e)
  State.answer { s with fab := { s.fab with replay := fset [] s.fab.replay die l } }
    { r with srcPkg := key.1, srcDie := key.2.1, xid := key.2.2 } k
/-- The stub of a VF is given up before the activation: what it has passed on executes here, in order (25 R423). -/
def State.unforward (s : State) (vf : Nat) : State :=
  let mine (o : Remote) : Bool := o.fwd.isSome && decide (o.req.vf = vf)
  let cut : State := { s with fab := { s.fab with out := s.fab.out.filter (fun o => !mine o), pend := s.fab.pend.filter (fun o => !mine o) } }
  let s := ((s.fab.out ++ s.fab.pend).filter mine).foldl (fun s o => match o.fwd with
    | some key =>
      let r : RemoteReq := { o.req with srcPkg := key.1, srcDie := key.2.1, xid := key.2.2, stub := false }
      let (k, s) := s.carryOut r
      s.forwarded r key k
    | none => s) cut
  s.drainPend (s.fab.pend.length + 1)
/-- A request arrives: this package's own in the order in which each die injected them. -/
def remoteReceive (r : RemoteReq) (s : State) : State :=
  if bits r.addr.toNat 41 40 = 1 ∧ s.lsStores (bits r.addr.toNat 51 48 * 36 + bits r.addr.toNat 47 42) then
    s.soon (.remoteRequestReceive r)
  else if r.srcPkg = s.ownPkg then
    match s.fab.wire.find? (fun q => decide (q.srcDie = r.srcDie)) with
    | some q =>
      if q = r then State.receive { s with fab := { s.fab with wire := s.fab.wire.erase r } } r
      else if s.fab.wire.elem r then s.soon (.remoteRequestReceive r) else s
    | none => s
  else s.receive r

/-! Replies (18 R313, R314). -/

/-- The reply to a front-end read of a signal (24 R403): the value is noted, and the queue's packets are evaluated again. -/
def State.sigReply (s : State) (who id : Nat) (v : Word) : State :=
  let n := who - queueEdge 0 0
  let x := fget QueueSt.zero s.queues n
  State.soon { s with queues := fset QueueSt.zero s.queues n { x with run := x.run.map (fun k =>
    if k.ty = 2 ∧ k.n = id / 8 then { k with ops := k.ops.set (5 + id % 8) v.toNat } else k) } } (.barrierAndEvaluation (n / 64) (n % 64))
/-- A request ends with a status, and its reply slot is free: its access has performed, its results are delivered, a refusal
traps; a STALE or UNREACH of an operation that returns nothing is counted (18 R314). -/
def State.remoteEnd (s : State) (o : Remote) (status cause : Nat) (val : Word) : State :=
  let s := State.drainPend { s with fab := { s.fab with out := s.fab.out.filter (fun x => decide (x ≠ o)) } } (s.fab.pend.length + 1)
  let s := if o.ret then s else if status = 1 then s.tally 121 1 else if status = 3 then s.tally 122 1 else s
  match o.fwd with
  | some key => if status = 3 then s
      else s.forwarded o.req key (if status = 0 then .done val else if status = 1 then .stale else .refused cause)
  | none =>
    if queueEdge 0 0 ≤ o.task then (if status = 0 ∧ o.req.op = .get then s.sigReply o.task o.id val else s)
    else if o.task = 0 then s
    else
      let s := if status = 2 then s.raise o.task cause o.col else s
      if o.req.op = .endpoint then s
      else ((s.performed o.task o.acc).grant o.task o.id val).grant o.task o.acc (BitVec.ofNat 64 (cause * 256 + status))
/-- Credit for some words reaches the senders of a die to an endpoint (18 R308). -/
def State.credited (s : State) (die : Nat) (w : Word) (n : Nat) : State :=
  s.lqs.foldl (fun s (t, col, m) =>
    if t.die = die ∧ (t.lqAt col m).bind = some (.sendEnd w) then
      s.mapLq t.key col m (fun q => { q with credit := min 64 (q.credit + n) }) else s) s
def remoteReplied (r : RemoteReply) (s : State) : State :=
  match s.fab.out.find? (fun o => decide (o.req.srcDie = r.die) && decide (o.xid = r.xid)), r.kind with
  | _, .credit w n => s.credited r.die w n
  | none, _ => s
  | some o, .done old => s.remoteEnd o 0 0 old
  | some o, .stale => s.remoteEnd o 1 0 0
  | some o, .refused c => s.remoteEnd o 2 (c % 256) 0
  | some _, .forwarded => s
  | some o, .moved coord =>
    let w := putBits o.req.addr 63 52 coord
    match s.wordPkg w with
    | some pkg =>
      State.inject { s with fab := { s.fab with out := s.fab.out.filter (fun x => decide (x ≠ o)) } }
        { o with pkg := pkg, tries := 0, req := { o.req with addr := w } }
    | none => s.remoteEnd o 3 0 0
/-- 20 µs without a reply: up to three retransmissions, then UNREACH. -/
def retransmit (n : Nat) (s : State) : State :=
  match s.fab.out.find? (fun o => decide (o.req.srcDie * 65536 + o.xid = n)) with
  | none => s
  | some o =>
    if s.now < o.sent + 20000 then s
    else if 3 ≤ o.tries then s.remoteEnd o 3 0 0
    else
      let o' : Remote := { o with tries := o.tries + 1, sent := s.now, req := { o.req with retx := true } }
      let s : State := { s with fab := { s.fab with out := s.fab.out.map (fun x => if x = o then o' else x) } }
      s.transmit o.pkg o'.req

def execRequestInject (s : State) : R := match s.ev with | .requestInject u => .next (requestInject u s) | _ => .next s
def execRemoteRequestReceive (s : State) : R :=
  match s.ev with | .remoteRequestReceive r => .next (remoteReceive r s) | _ => .next s
def execRemoteReply (s : State) : R := match s.ev with | .remoteReply r => .next (remoteReplied r s) | _ => .next s
def execRetransmitTimeout (s : State) : R :=
  match s.ev with | .retransmitTimeout n => .next (retransmit n s) | _ => .next s
def execCircuitFlitArrival (s : State) : R :=
  match s.ev with | .circuitFlitArrival d c ws => .next (flitArrival d c ws s) | _ => .next s
def execEndpointPacketArrival (s : State) : R :=
  match s.ev with | .endpointPacketArrival p _ w vf ws => .next (packetArrival p w vf ws s) | _ => .next s
def execSendFifoPartialFlush (s : State) : R :=
  match s.ev with | .sendFifoPartialFlush k c n => .next (partialFlush k c n s) | _ => .next s
def execUnsafeMapUpdate (s : State) : R := match s.ev with | .unsafeMapUpdate l => .next (unsafeMap l s) | _ => .next s
def execLaneRetirement (s : State) : R :=
  match s.ev with | .laneRetirement l o => .next (laneRetired l o s) | _ => .next s
def execBeadTableCommit (s : State) : R := match s.ev with | .beadTableCommit => .next (beadCommit s) | _ => .next s

end Sys2Proof.Machine
end

