-- ==== Sys2Proof/Machine/Frame.lean ====
section
/-!
DEFINITION. The locket as a debugger reads it, and the context frame as bytes of the VF's memory (08 R180, R181).
-/
namespace Sys2Proof.Machine

/-! Locket entries (08 Table 08.7). -/

/-- The locket entries of a column, writes before landings. -/
def Snap.entries (x : Snap) (col : Nat) : List (Sum Pend Landing) :=
  (x.pend.filter (fun p => decide (p.col = col) && decide (p.w.dest.1 < 8))).map Sum.inl ++
    (x.land.filter (fun l => decide (l.col = col))).map Sum.inr
/-- A list without the elements that a test counts, from a number on, and picks by their numbers. -/
def dropNth {α : Type} (f : α → Bool) (bad : Nat → Bool) : Nat → List α → List α
  | _, [] => []
  | n, x :: r =>
    if !f x then x :: dropNth f bad n r
    else if bad n then dropNth f bad (n + 1) r
    else x :: dropNth f bad (n + 1) r
/-- A snapshot without the entries of a column that a mask picks by their numbers (08 R183). -/
def Snap.cancel (x : Snap) (col : Nat) (mask : Word) : Snap :=
  let w (p : Pend) : Bool := decide (p.col = col) && decide (p.w.dest.1 < 8)
  let bad (n : Nat) : Bool := decide (n < 64) && mask.getLsbD n
  ⟨dropNth w bad 0 x.pend, dropNth (fun l : Landing => decide (l.col = col)) bad (x.pend.filter w).length x.land⟩
/-- An address generator as a number (06 Table 06.13). -/
def Ag.num (a : Ag) : Nat :=
  a.tid.toNat + a.linear.toNat * 65536 +
    ((List.range 4).map (fun k => (vget 0 a.c k).toNat * 2 ^ (17 + 16 * k) + (vget 0 a.st k).toNat * 2 ^ (81 + 16 * k))).sum
/-- The value of a register write as a number. -/
def RegWrite.num : RegWrite → Nat
  | .i _ w | .mp _ w | .ce _ w | .lc _ w | .lq _ w | .sr _ w => w.toNat
  | .ln w => w.toNat
  | .v _ w => w.toNat
  | .p _ b => b.toNat
  | .k _ m => m.toNat
  | .ag _ a => a.num
  | .ib _ b => b
  | .rot b => b.toNat
  | .trap c => c
/-- A locket entry's descriptor and value (08 Table 08.7). -/
def entryRead (snap : Bool) : Sum Pend Landing → Nat × Nat
  | .inl x =>
    (2147483648 + x.w.dest.1 * 268435456 + x.w.dest.2 % 64 * 4194304 + x.due % 64 * 65536 + snap.toNat * 8192, x.w.num)
  | .inr x =>
    (2147483648 + 4 * 268435456 + x.reg % 64 * 4194304 + x.due % 64 * 65536 + 32768 + x.data.isSome.toNat * 16384 +
      snap.toNat * 8192, (x.data.getD 0).toNat)

/-! The context frame (08 Table 08.8). -/

/-- Bytes followed by zeros up to a length. -/
def padTo (n : Nat) (l : List Byte) : List Byte := (l ++ List.replicate (n - l.length) 0).take n
/-- A number of bits, lowest first. -/
def bitsNum (l : List Bool) : Nat := l.foldr (fun b a => 2 * a + b.toNat) 0
/-- The register bank of a column: i, v and l registers, p, k, ag, lc and ln, the index bases, mp and ce, each packed after
the one before (R181 gives the order; log 15). -/
def ColBank.frameBytes (b : ColBank) : List Byte :=
  let ws (l : List Word) : List Byte := l.flatMap (fun w => bytesOf 8 w.toNat)
  let vs (l : List VWord) : List Byte := l.flatMap (fun w => bytesOf 128 w.toNat)
  ws b.ireg.toList ++ vs b.vreg.toList ++ vs b.lreg.toList ++ bytesOf 2 (bitsNum b.preg.toList) ++
    b.kreg.toList.flatMap (fun w => bytesOf 4 w.toNat) ++ b.ag.toList.flatMap (fun a => bytesOf 19 a.num) ++
    ws b.lc.toList ++ bytesOf 8 b.ln.toNat ++ [BitVec.ofNat 8 b.ibi, BitVec.ofNat 8 b.ibv, BitVec.ofNat 8 b.ibp] ++
    ws b.mp.toList ++ ws b.ce.toList
/-- One slot of a snapshot: the descriptor, then the value. -/
def entryBytes (snap : Bool) (e : Sum Pend Landing) : List Byte :=
  bytesOf 4 (entryRead snap e).1 ++ bytesOf 128 (entryRead snap e).2
/-- A snapshot of a column: 64 slots of 132 bytes, zero where it has no entry. -/
def Snap.frameBytes (x : Snap) (col : Nat) (snap : Bool) : List Byte :=
  padTo 8448 ((x.entries col).flatMap (entryBytes snap))
/-- The 24 KB of a column (08 R181). -/
def Task.columnBytes (t : Task) (col : Nat) : List Byte :=
  padTo 7168 (t.bank col).frameBytes ++ t.work.frameBytes col false ++ t.snap.frameBytes col true ++ List.replicate 512 0
/-- A tile register's 16 KB. -/
def TileReg.frameBytes (r : TileReg) : List Byte := (List.range 16384).map (fun k => fget 0 r.data k)
/-- The tile registers t0 to t7 of a task, those it holds; the rest 0. Table 08.8 has them here 'with their TILE_CFG', but eight
registers fill the 128 KB: TILE_CFG is in the frame's record only (DESIGN CHOICE, log 15). -/
def tileRegBytes (k : Nat) (strips : List Strip) : List Byte :=
  padTo 131072 (strips.flatMap (fun x => (List.range 2).flatMap (fun i =>
    if vget 0 x.thold i = k then (vget TileReg.zero x.treg i).frameBytes else List.replicate 16384 0)))
/-- Whole 16-byte blocks of HBM written under a key. -/
def State.putBlocks (s : State) (key a : Nat) (bs : List Byte) : State :=
  { s with mem := fsplice Memory.dflt s.mem a bs,
           hbmGen := fsplice 0 s.hbmGen (a / 16) (List.replicate (bs.length / 16) key) }
/-- Write whole blocks of VF memory, if the comparator takes them. -/
def State.vfPut (s : State) (vf a : Nat) (bs : List Byte) : State :=
  match s.segment vf a, s.segment vf (a + bs.length - 1) with
  | some (d, p), some _ => s.putBlocks (s.keyNo vf) (hbmNo d p) bs
  | _, _ => s
/-- A task's context frame is written to its VF's memory: the bytes that Table 08.8 and R181 place, at an address that the
spec does not give, and free bytes where it gives no places (log 15). -/
def State.writeFrame (s : State) (k : Nat) (strips : List Strip) (tiles : List (List Byte)) : State :=
  let t := s.task k
  let a := 4096 * Config.frameAt t.vf k
  let s := (List.range t.width).foldl (fun s c => s.vfPut t.vf (a + 0x6000 * c) (t.columnBytes c)) s
  let s := s.vfPut t.vf (a + 0x18000) (tileRegBytes k strips)
  let free := s.choice
  let s := State.vfPut { s with choice := s.choice + 1 } t.vf (a + 0x38000) ((List.range 32768).map (Config.freeByte free))
  s.vfPut t.vf (a + 0x40000) (tiles.take 192).flatten

end Sys2Proof.Machine
end

