-- ==== Sys2Proof/Machine/Sched.lean ====
section
/-!
DEFINITION. The die scheduler (21 R342 to R359, 22 R380 to R385): placement, restore, set-aside, slice-end eviction, role
swaps, anti-starvation, diversion and the end of a launch, with the events URGENT_STOP, ROLE_SWAP,
SLICE_END_EVICTION, ANTI_STARVATION_RAISE, LAUNCH_END, DEADLINE_EXPIRY and WRAPUP_BUDGET_EXPIRY.
-/
namespace Sys2Proof.Machine

/-! Signals (24 R399, R402). -/

/-- Where a signal reference leads: nowhere, a DM word of this package, HBM of the VF, another package's DM word. -/
inductive SigAt where
  | none
  | dm (die off : Nat)
  | hbm (a : Nat)
  | far (pkg die off : Nat)
  deriving DecidableEq, Repr
/-- Decode a signal reference; a REMOTE one to this package is one of its own words. -/
def State.sigAt (s : State) (ref : Nat) : SigAt :=
  let a := bits ref 43 0
  if ref = 0 then .none
  else
    let die := bits a 43 40
    let off := bits a 27 0
    if bits ref 51 51 = 1 then
      match s.wordPkg (BitVec.ofNat 64 ref) with
      | some p => if p = s.ownPkg then .dm die off else .far p die off
      | Option.none => .none
    else if bits a 39 39 = 1 then .dm die off
    else .hbm a
/-- Read a signal here. -/
def State.sigRead (s : State) (vf ref : Nat) : Option Int :=
  match s.sigAt ref with
  | .dm d o => if o + 8 ≤ vget 0 (s.vf vf).dmSize d ∧ d < 12 then some (sext 64 (s.num (s.dmAt vf d o) 8)) else Option.none
  | .hbm a => (s.vfNum vf a 8).map (sext 64)
  | _ => Option.none
/-- Write a signal word at its home. A REMOTE write is a remote swap, or for a completion or abort write one that the home makes
unless the word is negative (24 R402); `who` is what its reply is awaited under. -/
def State.sigStore (s : State) (vf ref : Nat) (v : Int) (op : RemoteOp := .swp) (who : Nat × Nat := (0, 0)) : State :=
  let w := wordOf v
  match s.sigAt ref with
  | .dm d o => if o + 8 ≤ vget 0 (s.vf vf).dmSize d ∧ d < 12 then s.dmWrite d (s.dmAt vf d o) (bytesOf 8 w.toNat) else s
  | .hbm a => (s.vfWrite vf a (bytesOf 8 w.toNat)).getD s
  | .far p d o =>
    let a : Word := BitVec.ofNat 64 (p % 16 * 2 ^ 60 + p / 16 % 16 * 2 ^ 56 + p / 256 * 2 ^ 52 + d * 2 ^ 48 + o)
    s.inject (Remote.mk' p ⟨0, 0, 0, false, vf, op, a, 8, w, 0, 0, [], Option.none, false⟩ who.1 0 0 who.2 0 false)
  | .none => s
/-- A completion or abort write: a negative signal stays (24 R402). -/
def State.sigEnd (s : State) (vf ref : Nat) (v : Int) (who : Nat × Nat := (0, 0)) : State :=
  match s.sigRead vf ref with
  | some x => if x < 0 then s else s.sigStore vf ref v .swp who
  | Option.none => s.sigStore vf ref v .finish who

/-! Units, text and LS (21 R343, R344). -/

/-- The units of a width of a die whose columns belong to a partition, lowest core first (25 R413). -/
def State.unitsOf (s : State) (die width part : Nat) : List Nat :=
  (List.range 36).flatMap (fun c =>
    let core := die * 36 + c
    if widthCols ((s.core core).split.toNat % 8) = width then
      ((List.range (4 / width)).map (fun n => core * 4 + n)).filter (fun u =>
        (unitCols u width).all (fun p => decide (fget 0 s.pmap.cols p = part + 1)))
    else [])
/-- Two launches run the same code object. -/
def Launch.same (a b : Launch) : Bool := decide (a.vf = b.vf) && decide (a.code = b.code) && decide (a.obj = b.obj)
/-- Bundles of a code object's text. -/
def textLen (o : CodeObj) : Nat := (o.text.headD []).length
/-- A code object that fits one half. -/
def halfFit (o : CodeObj) : Bool := !o.overlay && decide (textLen o ≤ 2048)
/-- The half that a launch's text takes on a unit, if the instruction memory can take it (21 R344). -/
def State.textHalf (s : State) (u : Nat) (l : Launch) : Option Nat :=
  match ((s.unit u).residents.map s.task) with
  | [] => some 0
  | t :: rest =>
    match (t :: rest).find? (fun x => (s.launchOf x).same l) with
    | some x => some x.half
    | none => if rest.isEmpty && halfFit l.obj && halfFit (s.launchOf t).obj then some (1 - t.half) else none
/-- The lowest range of free LS tiles of a core. -/
def State.lsFree (s : State) (core n : Nat) : Option Nat :=
  let used := (s.tasks.filter (fun t => t.hasLs && decide (t.key ≠ 0) && decide (coreOf t.unit = core))).map (fun t => (t.lsBase, t.lsSize))
  (List.range (1025 - n)).find? (fun b => used.all (fun r => decide (b + n ≤ r.1) || decide (r.1 + r.2 ≤ b)))
/-- A unit has a free slot for a task, which is the primary slot when its code object is not interlock-safe. -/
def State.slotFree (s : State) (u : Nat) (l : Launch) : Bool :=
  let n := (s.unit u).residents.length
  decide (n = 0) || (decide (n = 1) && l.obj.interlock)
/-- Whether a saved task's strips, tile registers and buffers find their places on a unit free: a unit whose other
resident has configured one of them cannot take the task (01 R27; log 15). -/
def State.frameFits (s : State) (k u width : Nat) : Bool :=
  let f := fget Frame.zero s.frames k
  let free (h : Nat) : Bool := decide (h = 0) || decide (h = k)
  (List.zip (unitCols u width) f.strips).all (fun e =>
    let x := s.strip e.1
    (decide (e.2.holder ≠ k) || free x.holder) &&
      (List.range 2).all (fun i => decide (vget 0 e.2.thold i ≠ k) || free (vget 0 x.thold i))) &&
    f.cbs.all (fun e => free (vget 0 (s.unit u).cbTask e.1))
/-- The unit, half and first tile of a placement (21 R343): an empty unit first, then the lowest. A task with a bound link register
returns to its own unit only (18 R310). -/
def State.site (s : State) (t : Task) : Option (Nat × Nat × Nat) :=
  let l := s.launchOf t
  let cand := (s.unitsOf t.die l.width (s.vf t.vf).part).filterMap (fun u =>
    if s.slotFree u l && (decide (t.state ≠ .evicted) || ((!t.bound || decide (u = t.unit)) && s.frameFits t.key u l.width)) then
      match s.textHalf u l, s.lsFree (coreOf u) l.lsTiles with
      | some h, some b => some (u, h, b)
      | _, _ => none
    else none)
  match cand.find? (fun c => (s.unit c.1).residents.isEmpty) with
  | some c => some c
  | none => cand.head?
/-- The bytes of a column's bundles. -/
def textBytes (bs : List (List Lane)) : List Byte := bs.flatMap (fun b => b.flatMap (fun w => bytesOf 4 w.toNat))
/-- Copy a text into the columns of a unit from a bundle address. -/
def State.loadText (s : State) (u width at_ : Nat) (cols : List (List (List Lane))) : State :=
  (List.range width).foldl (fun s c =>
    let p := physCol u width c
    s.setBytes (imemNo (p / 4) (p % 4) (24 * at_)) (textBytes (cols.getD c []))) s
/-- Fields of a segment table entry (24 Table 24.8). -/
def segValid (e : Nat × Nat) : Bool := decide (bits e.2 63 63 = 1)
def segNext (e : Nat × Nat) : Nat := bits e.2 23 18
def segHalf (e : Nat × Nat) : Nat := bits e.2 11 11
/-- Read a segment's bundles, one column after another (log 16), and put them into its half. None when refused. -/
def State.loadSeg (s : State) (l : Launch) (u width n : Nat) (e : Nat × Nat) : Option State :=
  let len := bits e.2 10 0 + 1
  match s.vfRead l.vf (bits e.1 43 0) (24 * len * width) with
  | some bs =>
    let s := (List.range width).foldl (fun s c =>
      let p := physCol u width c
      s.setBytes (imemNo (p / 4) (p % 4) (24 * 2048 * segHalf e)) ((bs.drop (24 * len * c)).take (24 * len))) s
    some (s.mapUnit u (fun x => { x with segOf := vset x.segOf (segHalf e) (n + 1) }))
  | none => none
/-- Put a launch's text into a unit when it is not there (21 R344, 24 R407). -/
def State.placeText (s : State) (u : Nat) (l : Launch) (key half : Nat) : State :=
  let have_ := (fget Launch.zero s.launches (vget 0 (s.unit u).text half)).same l && decide (vget 0 (s.unit u).text half ≠ 0)
  if have_ then s
  else
    let both := !halfFit l.obj
    let s := if l.obj.overlay then s else s.loadText u l.width (half * 2048) l.obj.text
    let s := s.mapUnit u (fun x => { x with
      text := Vector.ofFn (fun i => if both ∨ i.val = half then key else x.text[i]),
      segOf := Vector.ofFn (fun i => if both ∨ i.val = half then 0 else x.segOf[i]),
      segBusy := Vector.ofFn (fun i => if both ∨ i.val = half then 0 else x.segBusy[i]) })
    match l.obj.overlay, l.segs with
    | true, e :: _ => if segValid e then (s.loadSeg l u l.width 0 e).getD s else s
    | _, _ => s
/-- Set LS bytes of a task's allocation to 0. -/
def State.clearLs (s : State) (core base n : Nat) : State :=
  let lo := lsNo core (base * 4096)
  { s with mem := s.mem.filter (fun c => decide (c.1 < lo) || decide (lo + n * 4096 ≤ c.1)),
           lsPois := s.lsPois.filter (fun e => decide (e.1 < core * 1024 + base) || decide (core * 1024 + base + n ≤ e.1)) }
/-- Every tile of a range belongs to the core unit. -/
def State.ownTiles (s : State) (u base n : Nat) : State :=
  (List.range n).foldl (fun s k => s.setOwner (coreOf u) (base + k) (coreOwner u)) s

/-! Placement and restore. -/

/-- A task takes a residency slot, the primary one when it is free, and the task bank that the other one does not use. -/
def State.takeSlot (s : State) (k u : Nat) : State :=
  let x := s.unit u
  let bank := match x.residents with | [] => 0 | o :: _ => 1 - (s.task o).tbank
  if x.prim = 0 then
    (s.setUnit u { x with prim := k }).mapTask k (fun t => { t with state := .primary, unit := u, tbank := bank })
  else (s.setUnit u { x with sec := k, secIdle := 0 }).mapTask k (fun t => { t with state := .secondary, unit := u, tbank := bank })
/-- The BANK_FMT registers of banks within an allocation (05 R100, 21 R343). -/
def State.setFmts (s : State) (k : Nat) (f : Nat → Option Lane) : State :=
  let t := s.task k
  let core := coreOf t.unit
  let x := s.core core
  s.setCore core { x with fmt := Vector.ofFn (fun n => if bankInside t n then (f n).getD x.fmt[n] else x.fmt[n]) }
/-- A `.ftable` of the code object: its image in a tile at the top of the allocation, given to the function-stage agent of
local column 0 (14 R263). -/
def State.placeTable (s : State) (u base n : Nat) (e : Nat × List Byte) : State :=
  (s.setBytes (lsNo (coreOf u) ((base + (n - 1 - e.1)) * 4096)) e.2).setOwner (coreOf u) (base + (n - 1 - e.1)) (ownerByte 3 0 u)

/-- A PENDING task is placed (21 R343): text, LS, format registers, start values. -/
def State.placeNew (s : State) (k : Nat) (site : Nat × Nat × Nat) : State :=
  let (u, half, base) := site
  let t := s.task k
  let l := s.launchOf t
  let s := ((s.placeText u l t.launch half).clearLs (coreOf u) base l.lsTiles).ownTiles u base l.lsTiles
  let s := l.obj.lsData.foldl (fun s d => s.setBytes (lsNo (coreOf u) (base * 4096 + d.1)) d.2) s
  let s := l.obj.ftables.foldl (fun s e => s.placeTable u base l.lsTiles e) s
  let fts := l.obj.ftables.map (fun e => (e.1, tableBind l.lsTiles e))
  let s := (s.takeSlot k u).mapTask k (fun t =>
    let t := { t with half := half, lsBase := base, lsSize := l.lsTiles, hasLs := true, width := l.width, pc := 0,
                      chk := if l.obj.check then 1 else 0, dmSize := vget 0 (s.vf t.vf).dmSize t.die,
                      banks := t.banks.map (fun b => { b with ft := fts.foldl (fun f e => vset f e.1 (some e.2)) b.ft }) }
    match l.arg with
    | some w => t.setBank 0 ((t.bank 0).write (.i 1 w))
    | none => t)
  let s := match l.fmt with
    | some w => s.setFmts k (fun n => some (BitVec.ofNat 32 (bits w.toNat (4 * n + 3) (4 * n))))
    | none => s
  (s.releasePuts k).evalBars t.launch
/-- Saved records re-enter ahead of any new record of the task (01 R18). -/
def State.reenter (s : State) (k : Nat) (rs : List Rec) : State :=
  let u := (s.task k).unit
  let s := s.mapUnit u (fun x => { x with slip := x.slip ++ rs.map (fun r => { r with born := x.count }) })
  (((s.soon (.commandRecordEntry u .chain)).soon (.commandRecordEntry u .copy)).soon (.commandRecordEntry u .bank)).soon
    (.commandRecordEntry u .fabric)
/-- A saved task's strips, tile registers and circular buffers return to a unit (08 R176, 12 Table 12.1); BANKSEL names the
task bank that it has now (13 R241). -/
def State.attach (s : State) (k u width : Nat) : State :=
  let f := fget Frame.zero s.frames k
  let bank := (s.task k).tbank % 2
  let sel (r : TileReg) : TileReg := { r with cfg := BitVec.ofNat 32 (r.cfg.toNat - r.cfg.toNat % 2 + bank) }
  let s := (List.zip (unitCols u width) f.strips).foldl (fun s e =>
    let x := s.strip e.1
    let y := e.2
    s.setStrip e.1 { (if y.holder = k then y else x) with
      treg := Vector.ofFn (fun i => if y.thold[i] = k then sel y.treg[i] else x.treg[i]),
      thold := Vector.ofFn (fun i => if y.thold[i] = k then k else x.thold[i]) }) s
  let s := s.mapUnit u (fun x => f.cbs.foldl (fun x e => { x with
    cb := vset x.cb e.1 e.2.1, cbTask := vset x.cbTask e.1 k, cbGrant := vset x.cbGrant e.1 (if e.2.2 then some k else none) })
    { x with pops := x.pops ++ f.pops, pushes := x.pushes ++ f.pushes,
             late := x.late ++ f.late.map (fun e => ((s.task k).lsBase + e.1, e.2.1, e.2.2, k)) })
  (unitCols u width).foldl (fun s c => s.rerun c) s
/-- What a restored task does first: its locket replays, but for a task that is still halted. -/
def Task.reload (t : Task) : Task := { (if t.stop = .run then t.resume else t) with restored := true }
/-- An ASIDE task returns to its unit (21 R354): the locket replays, its engine state and its records re-enter. -/
def State.restoreAside (s : State) (k : Nat) : State :=
  let t := s.task k
  let f := fget Frame.zero s.frames k
  let half := (s.textHalf t.unit (s.launchOf t)).getD t.half
  let s := (s.takeSlot k t.unit).mapTask k (fun t => { t.reload with half := half })
  let s := ((s.placeText t.unit (s.launchOf t) t.launch half).attach k t.unit t.width).reenter k f.recs
  State.evalBars { s.poke t.unit with frames := fdel s.frames k } t.launch
/-- Mask a column's registers by a live-list record (08 Table 08.5); index bases and loop counters are always kept. -/
def ColBank.live (b : ColBank) (w : Word × Word × Word) : ColBank :=
  let (w0, w1, w2) := w
  let on (w : Word) (n : Nat) : Bool := w.getLsbD n
  { b with
    ireg := Vector.ofFn (fun i => if on w0 i then b.ireg[i] else 0),
    ag := Vector.ofFn (fun i => if on w0 (56 + i) then b.ag[i] else Ag.zero),
    vreg := Vector.ofFn (fun i => if on w1 i then b.vreg[i] else 0),
    preg := Vector.ofFn (fun i => on w1 (32 + i) && b.preg[i]),
    kreg := Vector.ofFn (fun i => if on w1 (48 + i) then b.kreg[i] else 0),
    ln := if on w1 60 then b.ln else 0,
    lreg := Vector.ofFn (fun i => if on w2 i then b.lreg[i] else 0),
    mp := Vector.ofFn (fun i => if on w2 (16 + i) then b.mp[i] else 0),
    ce := Vector.ofFn (fun i => if on w2 (24 + i) then b.ce[i] else 0) }
/-- The LS accesses of a restored task that wait for one of its saved records follow its allocation. -/
def State.moveLs (s : State) (k old : Nat) : State :=
  let t := s.task k
  let core := coreOf t.unit
  let at_ (a : Nat) : Nat := a + t.lsBase * 4096 - old * 4096
  let ls (r : Req) : Bool := decide (r.task = k) && (decide (r.kind = .lsLoad) || decide (r.kind = .lsStore))
  let mine := s.reqs.filter ls
  State.mapTask { s with reqs := s.reqs.map (fun r => if ls r then { r with dst := core, addr := at_ r.addr } else r) } k (fun t =>
    { t with accs := t.accs.map (fun a => match mine.find? (fun r => decide (r.id = a.id)) with
        | some r => { a with home := .ls core, addr := lsNo core (at_ r.addr) }
        | none => a) })
/-- An EVICTED task is restored on a unit of its width (21 R355). -/
def State.restoreEvicted (s : State) (k : Nat) (site : Nat × Nat × Nat) : State :=
  let (u, half, base) := site
  let t := s.task k
  let l := s.launchOf t
  let f := fget Frame.zero s.frames k
  let core := coreOf u
  let s := ((s.placeText u l t.launch half).clearLs core base l.lsTiles).ownTiles u base l.lsTiles
  let s := f.tiles.foldl (fun s d => s.setBytes (lsNo core ((base + d.1) * 4096)) d.2) s
  let own (o : BitVec 8) : BitVec 8 := BitVec.ofNat 8 (o.toNat / 4 * 4 + u % 4)
  let s := (List.zip (List.range l.lsTiles) f.owners).foldl (fun s e => s.setOwner core (base + e.1) (own e.2)) s
  let s := (s.takeSlot k u).mapTask k (fun t => { t with half := half, lsBase := base, lsSize := l.lsTiles, hasLs := true })
  let s := ((s.moveLs k f.base).mapTask k Task.reload).setFmts k (fun n =>
    if f.base ≤ 128 * n ∧ 128 * n + 128 ≤ f.base + l.lsTiles then some (vget 0 f.fmts n) else none)
  let s := ((s.attach k u l.width).reenter k f.recs).poke u
  (State.releasePuts { s with frames := fdel s.frames k } k).evalBars t.launch

/-! Leaving a unit. -/

/-- Bytes of element codes packed row-major, MX blocks at their places, for a save-area slot (12 R225, R227). -/
def saveBytes (fmt : Nat) (codes scales : List Nat) : List Byte :=
  let put (x : Nat) (p : Nat × Nat) : Nat := x + p.2 * 2 ^ p.1
  let w := elemBits fmt
  let e := (List.zip (List.range codes.length) codes).map (fun p => (elemBitAt fmt p.1, p.2 % 2 ^ w))
  let c := if isMx fmt then (List.zip (List.range scales.length) scales).map (fun p =>
      (8 * (4096 * (p.1 / mxBlocks fmt) + mxScaleOff fmt + p.1 % mxBlocks fmt), p.2 % 256)) else []
  let n := (codes.length * w + 7) / 8
  bytesOf (if isMx fmt then 8192 else n) ((e ++ c).foldl put 0)
/-- A strip writes its save area (12 R225): queue entries, Q or the MV batch, O, into the tiles of it that it still owns
(12 R238). -/
def State.saveStrip (s : State) (t : Task) (c : Nat) : State :=
  let x := s.strip c
  if x.holder ≠ t.key ∨ x.mode = 0 then s
  else
    let core := coreOf t.unit
    let own := ownerByte 1 (s.unitOfCol c).2 (t.unit % 4)
    let page (s : State) (n : Nat) (bs : List Byte) : State :=
      if bs.isEmpty || decide (s.owner core (t.lsBase + x.save + n) ≠ own) then s
      else s.setBytes (lsNo core ((t.lsBase + x.save + n) * 4096)) bs
    let tile (s : State) (n : Nat) (bs : List Byte) : State :=
      (List.range 4).foldl (fun s k => page s (n + k) ((bs.drop (4096 * k)).take 4096)) s
    let q (s : State) (first : Nat) (l : List QEnt) : State :=
      (List.zip (List.range 4) l).foldl (fun s e => tile s (first + 2 * e.1) (saveBytes e.2.fmt e.2.codes e.2.scales)) s
    let row (m : Nat → Nat) : List Nat := (List.range 16).flatMap (fun i => (List.range (64 * x.passes)).map (fun j => m (i * 256 + j)))
    let s := q (q s 0 x.qa) 8 x.qb
    let s := tile s 16 (saveBytes x.qfmt (row (fun n => fget 0 x.q n)) [])
    tile s 18 ((row (fun n => (fget 0 x.o n).toNat)).flatMap (bytesOf 4))
/-- A strip word that moves bytes between LS and the strip (13 R240). -/
def stripMoves : Instr → Bool
  | .tldq .. | .tld .. | .tst .. | .tstO .. | .stsave .. | .stld .. | .stldMerge .. | .mvb .. => true
  | _ => false
/-- The strips of a task's columns. -/
def State.stripsOf (s : State) (t : Task) : List (Nat × Strip) := (unitCols t.unit t.width).map (fun c => (c, s.strip c))
/-- Whether a strip command of the task must complete before its strips can be saved; a fired pair too, at a safe point. -/
def State.stripBusy (s : State) (t : Task) (pairs : Bool) : Bool :=
  (s.stripsOf t).any (fun e => match e.2.run with
    | some r => decide (r.task = t.key) && (stripMoves r.ins || (pairs && (e.2.fired || e.2.charm.isSome)))
    | none => false)
/-- Pairs, groups and charms in progress are abandoned: they run again from their start (12 R237). -/
def State.abandonPairs (s : State) (t : Task) : State :=
  (s.stripsOf t).foldl (fun s e => match e.2.run with
    | some r => if r.task = t.key then (s.restartCharm e.1).mapStrip e.1 (fun x => { x with fired := false }) else s
    | none => s) s
/-- A held first step leaves its edge behind when its bundle will be presented again. -/
def State.unheld (s : State) (k : Nat) : State :=
  if (s.task k).first then
    ((s.dropEdges (fun e => decide (e.sort = .wait) && decide (e.task = k))).mapTask k (fun t => { t with first := false })).inheritAll
  else s
/-- The contents of LS tiles of a task's allocation. -/
def State.tileBytes (s : State) (t : Task) (n : Nat) : Nat × List Byte :=
  (n, s.bytes (lsNo (coreOf t.unit) ((t.lsBase + n) * 4096)) 4096)
/-- Whether an engine still works for a task: a begun copy, or an advance of one of its buffers that is due. -/
def State.engaged (s : State) (t : Task) : Bool :=
  (fvals s.chans).any (fun c => match c.run with | some q => decide (q.cmd.task = t.key) | none => false) ||
    (s.unit t.unit).cbDue.any (fun d => decide (vget 0 (s.unit t.unit).cbTask d.1 = t.key))
/-- Save a task's engine state into its frame with some live tiles, with its circular buffers or without. -/
def State.saveFrame (s : State) (k : Nat) (live : List Nat) (bufs : Bool) : State :=
  let t := s.task k
  let u := s.unit t.unit
  let mine (r : Rec) : Bool := decide (r.task = k)
  let s := (unitCols t.unit t.width).foldl (fun s c => s.saveStrip t c) s
  let f : Frame :=
    { recs := (u.qChain ++ u.qCopy ++ u.qBank ++ u.qFabric ++ u.slip).filter mine,
      pops := if bufs then u.pops.filter mine else [], pushes := if bufs then u.pushes.filter mine else [],
      strips := (s.stripsOf t).map (fun e => { e.2 with fired := false }),
      cbs := if bufs then ((List.range 8).filter (fun n => decide (vget 0 u.cbTask n = k))).map (fun n =>
        (n, vget 0 u.cb n, (vget none u.cbGrant n).isSome)) else [],
      late := if bufs then (u.late.filter (fun e => decide (e.2.2.2 = k))).map (fun e => (e.1 - t.lsBase, e.2.1, e.2.2.1)) else [],
      tiles := (live.filter (· < t.lsSize)).map (s.tileBytes t),
      owners := (List.range t.lsSize).map (fun n => s.owner (coreOf t.unit) (t.lsBase + n)),
      fmts := (s.core (coreOf t.unit)).fmt, base := t.lsBase }
  State.writeFrame { s.mapUnit t.unit (fun x => x.filterRecs (fun r => !mine r)) with frames := fset Frame.zero s.frames k f }
    k f.strips (f.tiles.map (·.2))
/-- A strip that a task set aside leaves: its tile registers stay the task's (13 R241). -/
def Strip.aside (x : Strip) (k : Nat) : Strip :=
  if x.holder = k then { Strip.zero with treg := x.treg, thold := x.thold } else x
def State.asideStrips (s : State) (k : Nat) : State :=
  { s with strips := s.strips.foldl (fun m e => fset Strip.zero m e.1 (e.2.aside k)) s.strips }
/-- A task is set aside: its strips go, and its circular buffers unless an engine still works on them (21 R353, 10 R197;
log 15). -/
def State.putAside (s : State) (k : Nat) : State :=
  let t := s.task k
  let bufs := !s.engaged t
  let s := s.saveFrame k [] bufs
  let s := (if bufs then s.leaveCbs t.unit k else s).asideStrips k
  (s.leaveUnit t).mapTask k (fun t => { t with state := .aside, evictFor := 0 })
/-- A task that may be restored on another core takes no charm along (14 R273). -/
def State.unloadCharms (s : State) (k : Nat) : State :=
  let f := fget Frame.zero s.frames k
  let strips := f.strips.map (fun x => { x with charm := x.charm.map (fun q => { q with words := [] }) })
  { s with frames := fset Frame.zero s.frames k { f with strips := strips } }
/-- A task leaves its unit without its LS: buffers, strips, tile registers and tiles go too. -/
def State.giveUp (s : State) (k : Nat) : State :=
  let t := s.task k
  ((((s.unloadCharms k).leaveCbs t.unit k |>.leaveStrips k).freeTiles t).leaveUnit t).mapTask k (fun t => { t with hasLs := false, state := .evicted, evictFor := 0 })
/-- The accesses of a task that a page which is not there keeps from performing, their own or that of one before them in
their order: on resume they are issued again (03 R68). -/
def State.stuckAccs (s : State) (t : Task) : List Nat :=
  t.accs.foldl (fun l a =>
    if s.reqs.any (fun r => decide (r.id = a.id) && decide (r.task = t.key) && r.tag.isSome) ||
        (a.blockers (before t.accs a.id)).any (fun b => l.elem b.id) then l ++ [a.id] else l) []
/-- Accesses that a fence of a task waits for have still to perform, and can: an urgent stop lets them (02 R33, R36). -/
def State.fencesOpen (s : State) (t : Task) : Bool :=
  t.fences.any (fun f => (f.loads ++ f.stores ++ f.strict).any (fun n => !(s.stuckAccs t).elem n))
/-- A begun copy that fills an operand queue of a task's strips. -/
def State.filling (s : State) (t : Task) : Bool :=
  (fvals s.chans).any (fun c => match c.run with
    | some q => decide (q.cmd.task = t.key) && (match q.cmd.ins with | .cpyq .. => true | _ => false)
    | none => false)
/-- What an urgent stop to the context frame waits for: the end of a freeze (03 R67), strip transfers and CPYQs in
progress, and the drain, in which the accesses before a fence perform (02 R33); urgent eviction, which gives the LS up,
waits for every begun copy and LS access too. -/
def State.stopWaits (s : State) (t : Task) (evict : Bool) : Bool :=
  s.frozen (coreOf t.unit) || t.divDue || (t.lateLanding && decide (t.stop = .run)) || s.stripBusy t false || s.filling t || s.fencesOpen t ||
    (evict && (s.engaged t || s.lsWaiting t.key || decide (t.stop = .run)))
/-- An urgent stop to the context frame: parking, set-aside, the slot of a halted task, urgent eviction (08 R178, 21 R353). The task
of an eviction issues nothing more while its begun copies complete (10 R197). -/
def urgentStop (k : Nat) (why : StopWhy) (s : State) : State :=
  let s := s.writeBack k
  let t := s.task k
  if !t.resident || (decide (why = .park) && decide (t.stop ≠ .page)) then s
  else if why = .evict ∧ t.stop = .run ∧ !s.frozen (coreOf t.unit) ∧ !t.divDue ∧ !t.lateLanding then
    (((s.unheld k).abandonPairs t).mapTask k (fun t => t.halt StopState.moving)).soon (.urgentStop k why)
  else if s.stopWaits t (decide (why = .evict)) then s.soon (.urgentStop k why)
  else
    let s := (s.unheld k).abandonPairs t
    let s := if t.stop = .run ∨ t.stop = .front then s.mapTask k (fun t => t.halt t.stop) else s
    let s := match why with
      | .evict => (((s.saveFrame k (List.range t.lsSize) true).giveUp k)).mapTask k (fun t =>
          { t with stop := if t.stop = StopState.moving then StopState.run else t.stop })
      | _ => s.putAside k
    (s.evalBars t.launch).schedule t.die
/-- A task with something left to wait for. -/
def Task.waiting (t : Task) : Bool := t.sleep.isSome || !t.recv.isEmpty
/-- A task that R349 lets be evicted: no bound lq, no wrap-up code, not halted by a debugger. -/
def Task.evictable (t : Task) : Bool :=
  !t.expired && decide (t.stop ≠ .debug) && !(t.banks.toList.any (fun b => b.lq.toList.any (fun q => q.bind.isSome)))
/-- The LS ranges that hxld adds to every live list of an object: chain save areas and `.ftable` tiles (12 Table 12.9,
14 R263). -/
def CodeObj.added (o : CodeObj) (lsSize : Nat) : List (Nat × Nat) :=
  o.saves.map (fun n => (n, 22)) ++ o.ftables.map (fun e => (lsSize - 1 - e.1, 1))
/-- The live list of a safe point. -/
def State.liveList (s : State) (t : Task) (n : Nat) : LiveList :=
  let o := (s.launchOf t).obj
  let l := match o.lives.find? (fun e => decide (e.1 = n)) with
    | some e => e.2
    | none => ⟨[], []⟩
  { l with ranges := l.ranges ++ o.added t.lsSize }
/-- The save areas of a task's configured strips. -/
def State.heldSaves (s : State) (t : Task) : List Nat :=
  (s.stripsOf t).flatMap (fun e => if e.2.holder = t.key ∧ e.2.mode ≠ 0 then e.2.saveTiles else [])
/-- Whether the engines are done with a task's records and begun copies (01 R18, 10 R197). -/
def State.quiet (s : State) (t : Task) : Bool :=
  !(s.unit t.unit).recs.any (fun r => decide (r.task = t.key)) && !s.stripBusy t true &&
    !s.engaged t
/-- A slice-end eviction at a safe point (21 R355): exposed writes complete, what is not live is lost; the task's accesses
and fences go on. -/
def sliceEnd (k : Nat) (s : State) : State :=
  let s := s.writeBack k
  let t := s.task k
  match t.safeNow with
  | none => s
  | some n =>
    if !t.evict || !t.resident || decide (t.idle ≠ 0) then s
    else if !t.evictable then s.mapTask k (fun t => { t with evict := false, evictFor := 0 })
    else if t.waiting || !s.quiet t || s.lsWaiting k || s.frozen (coreOf t.unit) || t.divDue || t.lateLanding ||
        decide (t.stop ≠ .run) then s.soon (.sliceEndEviction k)
    else
      let l := s.liveList t n
      let tiles := (l.ranges.flatMap (fun r => (List.range r.2).map (r.1 + ·)) ++ s.heldSaves t).eraseDups
      let s := (s.complete k).mapTask k (fun t =>
        { t with banks := Vector.ofFn (fun c => (t.banks[c]).live (l.cols.getD c (0, 0, 0))), land := [],
                 evict := false, safeNow := none })
      let s := (s.saveFrame k tiles true).giveUp k
      (s.evalBars t.launch).schedule t.die
/-- A role swap at the primary's safe point (21 R352). -/
def roleSwap (u : Nat) (s : State) : State :=
  let x := s.unit u
  let p := s.task x.prim
  if !x.swap || decide (x.prim = 0) || decide (x.sec = 0) || p.safeNow.isNone || decide (p.idle ≠ 0) || p.evict then s
  else
    let s := s.setUnit u { x with prim := x.sec, sec := x.prim, swap := false, secIdle := 0 }
    let s : State := { s with turns := s.turns.filter (fun e => decide (e.1 ≠ u)) }
    (s.mapTask x.sec (fun t => { t with state := .primary })).mapTask x.prim (fun t => { t with state := .secondary })

/-! Scheduling points (21 R342, R349). -/

/-- A task that runs wrap-up code, is to run it when it is restored, or is to end then. -/
def Task.ending (t : Task) : Bool := t.expired || t.divert || t.doom
/-- A ready task that holds no slot. A die's tasks of a launch are known once its record has been applied (24 R393, R399). -/
def State.readyOut (s : State) (t : Task) : Bool :=
  decide (t.key ≠ 0) && !s.leaving t.vf && (match t.state with
    | .pending => !(s.launchOf t).expired && !s.mail.any (fun m => decide (m.die = t.die) && decide (m.what = .record t.launch))
    | .evicted => t.ending || !(s.vf t.vf).dry
    | .aside => !t.waiting && decide (t.stop = .run) && (t.ending || !(s.vf t.vf).dry)
    | _ => false)
/-- A ready resident task (21 R342). -/
def Task.readyIn (t : Task) : Bool := t.resident && !t.waiting && decide (t.stop = .run) && !t.lateLanding
/-- Rank at a scheduling point: a task that yields is below the others of its class (22 R377). -/
def State.ranks (s : State) (a b : Task) : Bool :=
  if a.eclass = b.eclass ∧ a.yielded ≠ b.yielded then b.yielded else s.outranks a b
/-- Insert by rank, highest first. -/
def State.rankIn (s : State) (t : Task) : List Task → List Task
  | [] => [t]
  | x :: r => if s.ranks t x then t :: x :: r else x :: s.rankIn t r
/-- Place or restore a task if it fits. -/
def State.tryPlace (s : State) (k : Nat) : Option State :=
  let t := s.task k
  match t.state with
  | .pending => (s.site t).map (s.placeNew k)
  | .evicted => (s.site t).map (s.restoreEvicted k)
  | .aside =>
    if s.slotFree t.unit (s.launchOf t) && (s.textHalf t.unit (s.launchOf t)).isSome && s.frameFits k t.unit t.width then
      some (s.restoreAside k)
    else none
  | _ => none
/-- The package without a resident task, its LS kept or not. -/
def State.without (s : State) (v : Task) (keepLs : Bool) : State :=
  let s := s.leaveCbs v.unit v.key
  ((if keepLs then s.asideStrips v.key else s.leaveStrips v.key).leaveUnit v).mapTask v.key
    (fun t => { t with hasLs := keepLs && t.hasLs, state := .aside })
/-- A ready task that does not fit asks for the removal of the lowest-ranked resident it outranks, once: not while a removal
that it asked for is to come (21 R349). -/
def State.replace (s : State) (k : Nat) : State :=
  let t := s.task k
  if s.tasks.any (fun v => v.resident && decide (v.evictFor = k)) then s
  else
  let fits (v : Task) (keepLs : Bool) : Bool := ((s.without v keepLs).tryPlace k).isSome
  let set (v : Task) : Bool := (v.waiting || decide (v.stop = .debug)) && fits v true
  let cand := s.tasks.filter (fun v => v.resident && decide (v.die = t.die) && s.ranks t v &&
    (set v || (v.evictable && !v.evict && fits v false)))
  match cand.foldl (fun (a : Option Task) v => match a with
      | none => some v
      | some b => if s.ranks b v then some v else some b) none with
  | none => s
  | some v =>
    let s := s.mapTask v.key (fun t => { t with evictFor := k })
    if set v then s.soon (.urgentStop v.key .setAside) else s.mapTask v.key (fun t => { t with evict := true })
/-- A ready task gains a raise after each 2^20 ready cycles without a bundle (21 R350). -/
def antiStarvation (k : Nat) (s : State) : State :=
  let t := s.task k
  if 1048576 * (t.raises + 1) ≤ t.ready then
    (s.mapTask k (fun t => { t with raises := t.raises + 1 })).inheritAll.schedule t.die
  else s

/-! Deadlines (22 R380 to R384). -/

/-- Sleeping waits of a task end DIVERTED, but for one that is over already (22 R385), and the result of a sleeping PRECV is
discarded (19 R323); a held first step leaves no edge. -/
def State.endWaits (s : State) (k : Nat) : State :=
  let s := ((s.unheld k).settleWait k).endSleep k 4
  (s.task k).recv.foldl (fun s r => s.dropRecv k r) s
/-- A started task without wrap-up code is stopped as for a kill, but counts as RETIRED and keeps its map entry (R384). A
task whose frame holds records with the keep flag ends at its restore. -/
def State.stopExpired (s : State) (k : Nat) : State :=
  let t := s.task k
  if s.keptAway t then
    let s := (s.dropFrame k).dropReqs k true
    (s.mapTask k (fun t => { t with divert := true, stop := .run, pages := [], resumeAt := none, sleep := none, recv := [] })).schedule t.die
  else
    let s := (((s.dropRecs t).cancelCopies k false).abandonChains k).dropReqs k true
    let s := s.mapTask k (fun t => t.ended .retired)
    (s.evalBars t.launch).settle k
/-- The words whose pair, group or entry is a boundary at which a diversion stops them; a begun transfer, charm or CHLD
completes (12 Table 12.9, 13 R240). -/
def stopsBetween : Instr → Bool
  | .chain .. | .chainm .. | .mv .. => true
  | _ => false
/-- The command that a saved strip still had to continue ends at its boundary, cancelled (12 Table 12.9, 13 R259). -/
def Strip.cancelled (x : Strip) : Strip :=
  match x.run with
  | some r => if stopsBetween r.ins then { x with run := none, left := 0, fired := false, lastStatus := 2 } else x
  | none => x
/-- The records that a task's frame holds and that are discarded leave the task's order too. -/
def State.dropSaved (s : State) (k : Nat) : State :=
  s.performedAll k (((fget Frame.zero s.frames k).recs.filter (fun r => !keeps r.ins)).map (·.acc))
/-- What a diversion does beside the task's own registers (22 R381): waits end, engines stop at their boundaries. -/
def State.divertParts (s : State) (k : Nat) : State :=
  let s := ((s.endWaits k).unwait k).dropPuts k
  let s := ((s.dropRecs (s.task k)).dropSaved k).cancelCopies k false
  let t := s.task k
  if t.resident then
    (unitCols t.unit t.width).foldl (fun s c => match (s.strip c).run with
      | some r => if r.task = k ∧ stopsBetween r.ins then (s.mapStrip c (fun x => { x with cancel := true })).soon (.pairFire c) else s
      | none => s) s
  else
    let f := fget Frame.zero s.frames k
    { s with frames := fset Frame.zero s.frames k { f with
        recs := f.recs.filter (fun r => keeps r.ins), pops := [], pushes := [], strips := f.strips.map Strip.cancelled } }
/-- A task is diverted (22 R381): its wrap-up starts at the next bundle boundary, or at its restore. A task halted by a
debugger is diverted too and stays halted before its first wrap-up bundle (DEDUCED, log 24). -/
def State.divertNow (s : State) (k : Nat) : State :=
  let t := s.task k
  let l := s.launchOf t
  match t.state with
  | .pending => s.neverStart k
  | .primary | .secondary | .aside | .evicted =>
    if t.expired || t.exiting || t.divert then s
    else if l.wrapPc = 0 ∧ l.budget = 0 then (s.divertParts k).stopExpired k
    else
      let s := (s.divertParts k).mapTask k (fun t =>
        let t := if !t.resident then { t with stop := .run } else if t.stop = .page then t.resume else t
        { t with divert := true, pages := [], resumeAt := none })
      (s.evalBars t.launch).schedule t.die
  | _ => s
/-- A task of a launch whose deadline has passed: on a core that is frozen all of its diversion waits for the end of the freeze
(03 R67). -/
def State.divertTask (s : State) (k : Nat) : State :=
  let t := s.task k
  if t.resident && s.frozen (coreOf t.unit) && !t.expired && !t.exiting && !t.divert then
    s.mapTask k (fun t => { t with divDue := true })
  else s.divertNow k
/-- The launch's deadline has passed at a deadline check: every task of it is diverted, once (22 R380). -/
def deadlineExpiry (n : Nat) (s : State) : State :=
  let l := fget Launch.zero s.launches n
  match l.deadline with
  | none => s
  | some d =>
    if !l.live || l.expired || decide (s.now / 8 * 8 < d) then s
    else
      let ks := (s.tasks.filter (fun t => decide (t.key ≠ 0) && decide (t.launch = n))).map Task.key
      let left := l.left.filter (fun i => !(s.tasks.any (fun t => decide (t.launch = n) && decide (t.idx = i) && decide (t.state = .pending))))
      let s : State := { s with launches := fins s.launches n { l with expired := true, left := left } }
      let s := ks.foldl (fun s k => s.divertTask k) s
      if left.isEmpty then s.soon (.launchEnd n) else s
/-- The wrap-up budget is used up (22 R382). -/
def budgetExpiry (k : Nat) (s : State) : State :=
  if (s.task k).wrapLeft = some 0 && (s.task k).expired && !(s.task k).exiting then s.kill k else s

/-! The end of a launch (21 R359, 22 R386). -/

/-- Entries of the validity map that are NONE or INVALID read INVALID. -/
def State.closeMap (s : State) (l : Launch) : State :=
  let n := (l.xm + 1) * (l.ym + 1) * (l.zm + 1)
  (List.range ((n + 31) / 32)).foldl (fun s k =>
    match s.vfNum l.vf (l.vmap + 8 * k) 8 with
    | some w =>
      let w' := (List.range (min 32 (n - 32 * k))).foldl (fun w i =>
        if bits w (2 * i + 1) (2 * i) = 0 then w + 3 * 2 ^ (2 * i) else w) w
      (s.vfWrite l.vf (l.vmap + 8 * k) (bytesOf 8 w')).getD s
    | none => s) s
/-- The parser of a queue looks at its next packet again (24 R401). -/
def State.parseSoon (s : State) (vf q : Nat) : State :=
  [Event.nopPacket vf q, .barrierAnd vf q, .signal vf q, .copy vf q, .segtab vf q].foldl (fun s e => s.soon e) s
/-- The die that a queue is homed on: that of its ring (24 R396). -/
def State.qcbDie (s : State) (vf q : Nat) : Nat :=
  ((s.vfNum vf ((s.vf vf).qcbBase + 64 * q) 8).map (fun w => bits w 43 40)).getD 0
/-- Every task has ended: the map is closed, then the signal written, and the packet completes. While the pair of its queue's
die, or of die 0, is stopped it waits (24 R394). -/
def launchEnd (n : Nat) (s : State) : State :=
  let l := fget Launch.zero s.launches n
  if !l.live || !l.left.isEmpty then s
  else if s.fw.down.elem 0 || s.fw.down.elem (s.qcbDie l.vf l.queue) then s.soon (.launchEnd n)
  else
    let s := s.closeMap l
    let v : Int := if l.destroyed then -2 else if l.killed then -1 else 0
    let s := s.sigEnd l.vf l.signal v (queueEdge l.vf l.queue, l.packet * 8 + 6)
    let q := fget QueueSt.zero s.queues (l.vf * 64 + l.queue)
    let s := s.parseSoon l.vf l.queue
    { s with launches := fins s.launches n { l with live := false },
             bars := s.bars.filter (fun b => decide (b.launch ≠ n)),
             queues := fset QueueSt.zero s.queues (l.vf * 64 + l.queue)
               { q with run := q.run.filter (fun p => !(decide (p.ty = 1) && decide (p.launch = n))), since := s.now } }

def execUrgentStop (s : State) : R := match s.ev with | .urgentStop k w => .next (urgentStop k w s) | _ => .next s
def execRoleSwap (s : State) : R := match s.ev with | .roleSwap u => .next (roleSwap u s) | _ => .next s
def execSliceEndEviction (s : State) : R := match s.ev with | .sliceEndEviction k => .next (sliceEnd k s) | _ => .next s
def execAntiStarvationRaise (s : State) : R :=
  match s.ev with | .antiStarvationRaise k => .next (antiStarvation k s) | _ => .next s
def execLaunchEnd (s : State) : R := match s.ev with | .launchEnd n => .next (launchEnd n s) | _ => .next s
def execDeadlineExpiry (s : State) : R := match s.ev with | .deadlineExpiry n => .next (deadlineExpiry n s) | _ => .next s
def execWrapupBudgetExpiry (s : State) : R :=
  match s.ev with | .wrapupBudgetExpiry k => .next (budgetExpiry k s) | _ => .next s

end Sys2Proof.Machine
end

