-- ==== Sys2Proof/Machine/Uses.lean ====
section
/-!
DEFINITION. Which registers a word reads and writes (03 R55 to R63, 04 R79), for the checks at presentation: early reads
(03 R65), the interlock (R70), pending results (10 R205) and link registers (18 R309).
-/
namespace Sys2Proof.Machine

/-- A register as a word names it: an i field, one of another column, an i register directly, a v field, one of another
column, a V4 number, the v register whose number an i field holds, a p field, a compare's p, a k, l, mp, ce, ag register,
a loop counter, the link register. -/
inductive Use where
  | i (f : RegF)
  | iFar (c : Nat) (f : RegF)
  | iAt (n : Nat)
  | v (f : RegF)
  | vFar (c : Nat) (f : RegF)
  | v4 (fl : BitVec 1) (n : BitVec 5)
  | vOf (f : RegF)
  | p (f : RegF)
  | pAt (r : BitVec 1) (n : BitVec 4)
  | k (n : Nat)
  | l (n : Nat)
  | mp (n : Nat)
  | ce (n : Nat)
  | ag (n : Nat)
  | lc (n : Nat)
  | ln
  deriving DecidableEq, Repr
/-- Column, file (numbered as in `RegWrite.dest`, 4 for l) and physical number of a register a word in a column names. -/
def Use.at (t : Task) (col : Nat) : Use → Nat × Nat × Nat
  | .i f => (col, 0, (t.bank col).physI f)
  | .iFar c f => (c, 0, (t.bank c).physI f)
  | .iAt n => (col, 0, n)
  | .v f => (col, 1, (t.bank col).physV f)
  | .vFar c f => (c, 1, (t.bank c).physV f)
  | .v4 fl n => (col, 1, (t.bank col).physV4 fl n)
  | .vOf f => (col, 1, ((t.bank col).i ((t.bank col).physI f)).toNat % 32)
  | .p f => (col, 2, (t.bank col).physP f)
  | .pAt r n => (col, 2, (t.bank col).physPn n.toNat (r.getLsbD 0))
  | .k n => (col, 3, n)
  | .l n => (col, 4, n)
  | .mp n => (col, 5, n)
  | .ce n => (col, 6, n)
  | .ag n => (col, 7, n)
  | .lc n => (col, 7, 8 + n)
  | .ln => (col, 7, 12)
/-- The staging registers ce0 to ce4 that a copy word's record captures (10 Table 10.1). -/
def ceUses (l : List Nat) : List Use := l.map .ce

/-- The registers a word reads, but for its guard. -/
def reads : Instr → List Use
  | .callr _ a | .jmpr _ a | .setln _ a | .lock _ a | .unlock _ a | .valid _ _ a | .wobj _ a | .wdrop _ a => [.i a]
  | .ret _ | .getln _ _ => [.ln]
  | .loop _ n _ | .loopr _ n _ _ => [.lc n.toNat]
  | .pand _ _ a b | .por _ _ a b | .pxor _ _ a b | .pandn _ _ a b => [.p a, .p b]
  | .pnot _ _ a => [.p a]
  | .waitv _ a b | .tkwait _ a b => [.i a, .i b]
  | .waitt _ d a b => [.i d, .i a, .i b]
  | .add _ _ a b | .sub _ _ a b | .mul _ _ a b | .mulh _ _ a b | .mulhu _ _ a b | .div _ _ a b | .divu _ _ a b
  | .rem _ _ a b | .remu _ _ a b | .and _ _ a b | .or _ _ a b | .xor _ _ a b | .shl _ _ a b | .shr _ _ a b
  | .sar _ _ a b | .min _ _ a b | .max _ _ a b | .minu _ _ a b | .maxu _ _ a b | .bfx _ _ a b | .cmp _ _ _ _ a b
  | .agset _ _ a b => [.i a, .i b]
  | .bfi _ d a b | .sel _ d a b => [.i a, .i b, .i d]
  | .addi _ _ a _ | .andi _ _ a _ | .ori _ _ a _ | .xori _ _ a _ | .shli _ _ a _ | .shri _ _ a _ | .sari _ _ a _
  | .clz _ _ a | .popc _ _ a | .cmpi _ _ _ _ a _ | .mov _ _ a | .moviv _ _ a | .movim _ _ a | .movie _ _ a
  | .setib _ _ a _ | .agpos _ _ a => [.i a]
  | .lih _ d _ => [.i d]
  | .getsr _ _ im => if 0x10 ≤ im.toNat ∧ im.toNat < 0x14 then [.lc (im.toNat - 0x10)] else []
  | .setsr _ d _ => [.i d]
  | .aginc _ d _ _ => [.ag d.toNat]
  | .lds _ _ a _ _ _ _ | .ldt _ _ a _ _ _ _ | .ldd _ _ a _ _ _ _ | .pld _ _ a _ _ _ _ | .pldref _ _ a _ _ _ =>
    [.ag a.toNat]
  | .sts _ r a _ _ _ | .stt _ r a _ _ _ | .std _ r a _ _ _ | .pst _ r a _ _ _ | .pstref _ r a _ _ =>
    [.ag a.toNat, .iAt r.toNat]
  | .ldl _ _ a _ _ _ => [.l a.toNat]
  | .tqry _ _ a => [.ag a.toNat]
  | .xmov _ _ a c => [.iFar c.toNat a]
  | .fadd _ _ a b | .fsub _ _ a b | .fmul _ _ a b | .fmin _ _ a b | .fmax _ _ a b | .fcps _ _ a b | .fcmp _ _ _ a b
  | .vadd _ _ a b | .vsub _ _ a b | .vmul _ _ a b | .vmulh _ _ a b | .vand _ _ a b | .vor _ _ a b | .vxor _ _ a b
  | .vshl _ _ a b | .vshr _ _ a b | .vsar _ _ a b | .vmin _ _ a b | .vmax _ _ a b | .vcmp _ _ _ a b | .vperm _ _ a b =>
    [.v a, .v b]
  | .vdot4 _ d a b => [.v a, .v b, .v d]
  | .ffma _ fl _ a b c | .ffms _ fl _ a b c | .fnma _ fl _ a b c => [.v4 fl a, .v4 fl b, .v4 fl c]
  | .vsel _ fl _ a b k => [.v4 fl a, .v4 fl b, .k k.toNat]
  | .fabs _ _ a | .fneg _ _ a | .frnd _ _ a _ | .ftoi _ _ a _ | .itof _ _ a | .vbcast _ _ a _ _ | .vtoi _ _ a _ _ _
  | .fn _ _ a _ | .frcp _ _ a | .frsq _ _ a => [.v a]
  | .fcvt _ d a _ conv _ => if conv.toNat = 5 ∨ conv.toNat = 6 then [.v a] else [.v a, .v d]
  | .fnp _ d a _ | .requant _ d a _ _ => [.v a, .v d]
  | .vred _ _ a _ _ k => [.v a, .k k.toNat]
  | .vmov _ _ a sc => if sc.getLsbD 0 then [.l a.toNat] else [.v a]
  | .kop _ _ a _ b => [.k a.toNat, .k b.toNat]
  | .vxmov _ _ a c => [.vFar c.toNat a]
  | .mcfg _ a | .tcfg _ a _ | .treshape _ a _ | .tld _ a _ | .tst _ a _ _ | .qbind _ a _ | .chain _ a _ | .chainm _ a _ _
  | .stld _ a | .mv _ a _ | .ftld _ a _ | .fmld _ a _ | .rowstat _ a _ _ _ => [.i a]
  | .tldq _ a b | .tstO _ a b _ | .stsave _ a b _ | .stldMerge _ a b | .mvb _ a b | .chld _ a b => [.i a, .i b]
  | .mcall _ a => .i a :: (List.range 8).map .mp
  | .mrep _ a => [.i a, .mp 7]
  | .cpy _ _ => ceUses [0, 1, 2, 3, 4]
  | .cpyl _ a b _ => .i a :: .i b :: ceUses [4]
  | .cpyq _ _ _ => ceUses [0, 2, 3, 4]
  | .kvcommit _ a b _ => .i a :: .i b :: ceUses [0, 1, 2, 3, 4]
  | .ttinv _ a b _ => .i a :: .i b :: ceUses [4]
  | .give _ a b _ _ | .take _ a b _ _ => [.i a, .i b]
  | .cbcfg _ a _ => [.i a]
  | .badd _ a b _ _ | .bfadd _ a b _ _ | .bmin _ a b _ _ _ | .bmax _ a b _ _ _ | .band _ a b _ _ | .bor _ a b _ _
  | .bxor _ a b _ _ | .bswp _ a b _ _ | .bfaa _ a b _ _ | .put _ a b _ _ | .radd _ a b _ _ _ | .rswp _ a b _ _
  | .rred _ a b _ _ | .rget _ a b _ _ | .rput _ a b _ _ | .beadld _ a b _ _ | .pgrow _ a b | .ptrim _ a b
  | .post _ a b => [.i a, .i b]
  | .bcas _ a b _ _ | .rcas _ a b _ _ => [.i a, .i b, .i (b + 1)]
  | .tktake _ a _ | .tknext _ a _ _ | .pfree _ a => [.i a]
  | .lqbind _ a u m d _ => if u.getLsbD 0 || (m.getLsbD 0 && !d.getLsbD 0) then [] else [.i a]
  | .pnew _ _ b | .precv _ _ b => [.i b]
  | _ => []

/-- The registers a word writes, those of its delivered results included; landing registers apart. -/
def writes : Instr → List Use
  | .call _ _ | .callr _ _ | .setln _ _ => [.ln]
  | .loop _ n _ | .loopr _ n _ _ | .lexit _ n _ => [.lc n.toNat]
  | .pset _ d _ | .pand _ d _ _ | .por _ d _ _ | .pxor _ d _ _ | .pnot _ d _ | .pandn _ d _ _ => [.p d]
  | .getln _ d | .gettime _ d | .dlinfo _ d _ => [.i d]
  | .add _ d _ _ | .sub _ d _ _ | .mul _ d _ _ | .mulh _ d _ _ | .mulhu _ d _ _ | .div _ d _ _ | .divu _ d _ _
  | .rem _ d _ _ | .remu _ d _ _ | .and _ d _ _ | .or _ d _ _ | .xor _ d _ _ | .shl _ d _ _ | .shr _ d _ _
  | .sar _ d _ _ | .min _ d _ _ | .max _ d _ _ | .minu _ d _ _ | .maxu _ d _ _ | .bfx _ d _ _ | .bfi _ d _ _
  | .sel _ d _ _ => [.i d]
  | .addi _ d _ _ | .andi _ d _ _ | .ori _ d _ _ | .xori _ d _ _ | .shli _ d _ _ | .shri _ d _ _ | .sari _ d _ _
  | .clz _ d _ | .popc _ d _ | .li _ d _ | .lih _ d _ | .mov _ d _ | .getsr _ d _ | .ldl _ d _ _ _ _ | .tqry _ d _
  | .xmov _ d _ _ | .vtoi _ d _ _ _ _ => [.i d]
  | .cmp _ r _ p _ _ | .cmpi _ r _ p _ _ => [.pAt r p]
  | .moviv _ d _ => [.v d]
  | .movim _ d _ => [.mp d.toNat]
  | .movie _ d _ => [.ce d.toNat]
  | .setsr _ _ im => if 0x10 ≤ im.toNat ∧ im.toNat < 0x14 then [.lc (im.toNat - 0x10)] else []
  | .agset _ d _ _ | .agpos _ d _ | .aginc _ d _ _ => [.ag d.toNat]
  | .fadd _ d _ _ | .fsub _ d _ _ | .fmul _ d _ _ | .fmin _ d _ _ | .fmax _ d _ _ | .fcps _ d _ _
  | .vadd _ d _ _ | .vsub _ d _ _ | .vmul _ d _ _ | .vmulh _ d _ _ | .vand _ d _ _ | .vor _ d _ _ | .vxor _ d _ _
  | .vshl _ d _ _ | .vshr _ d _ _ | .vsar _ d _ _ | .vmin _ d _ _ | .vmax _ d _ _ | .vperm _ d _ _ | .vdot4 _ d _ _ =>
    [.v d]
  | .ffma _ fl d _ _ _ | .ffms _ fl d _ _ _ | .fnma _ fl d _ _ _ | .vsel _ fl d _ _ _ => [.v4 fl d]
  | .fabs _ d _ | .fneg _ d _ | .frnd _ d _ _ | .ftoi _ d _ _ | .itof _ d _ | .vbcast _ d _ _ _ | .fn _ d _ _
  | .fnp _ d _ _ | .frcp _ d _ | .frsq _ d _ | .fcvt _ d _ _ _ _ | .vred _ d _ _ _ _ | .viota _ d _ | .vmov _ d _ _
  | .vxmov _ d _ _ => [.v d]
  | .requant _ d a _ _ => [.v d, .v a]
  | .fcmp _ _ k _ _ | .vcmp _ _ k _ _ => [.k k.toNat]
  | .kop _ d _ _ _ => [.k d.toNat]
  | .mpoll _ a | .cbpop _ a _ | .cpyst _ a | .pnew _ a _ | .pgrow _ a _ | .ptrim _ a _ | .post _ a _ | .precv _ a _ =>
    [.i a]
  | .rowstat _ a _ _ _ => [.vOf a]
  | .radd _ a b _ r _ => if r.getLsbD 0 then [.i a, .i b] else []
  | .rcas _ a b _ _ | .rswp _ a b _ _ | .rget _ a b _ _ => [.i a, .i b]
  | _ => []

/-- The guard of a slot word. -/
def guardOf (w : Lane) : Guard := w.extractLsb' 21 4
/-- The class of a task access, and whether it loads and stores (02 R29). -/
def accessOf : Instr → Option (Nat × Bool × Bool)
  | .lds _ _ _ _ c _ _ | .ldt _ _ _ _ c _ _ | .ldd _ _ _ _ c _ _ | .pld _ _ _ _ c _ _ | .pldref _ _ _ _ c _ =>
    some (c.toNat, true, false)
  | .sts _ _ _ c _ _ | .stt _ _ _ c _ _ | .std _ _ _ c _ _ | .pst _ _ _ c _ _ | .pstref _ _ _ c _ =>
    some (c.toNat, false, true)
  | .badd _ _ _ c _ | .bfadd _ _ _ c _ | .bmin _ _ _ c _ _ | .bmax _ _ _ c _ _ | .band _ _ _ c _ | .bor _ _ _ c _
  | .bxor _ _ _ c _ | .tknext _ _ c _ | .put _ _ _ c _ | .rred _ _ _ c _ | .rput _ _ _ c _ => some (c.toNat, false, true)
  | .bswp _ _ _ c _ | .bcas _ _ _ c _ | .bfaa _ _ _ c _ | .tktake _ _ c | .rcas _ _ _ c _ | .rswp _ _ _ c _ =>
    some (c.toNat, true, true)
  | .radd _ _ _ c r _ => some (c.toNat, r.getLsbD 0, true)
  | .rget _ _ _ c _ => some (c.toNat, true, false)
  | _ => none
/-- A word that takes a landing entry (03 R66, 16 R283). -/
def lands : Instr → Bool
  | .lds .. | .ldt .. | .ldd .. | .pld .. | .pldref .. | .bswp .. | .bcas .. | .bfaa .. | .tktake .. => true
  | _ => false
/-- The NOP and the predicate operations, which any C slot may hold (03 R72). -/
def anyC : Instr → Bool
  | .nop .. | .pset .. | .pand .. | .por .. | .pxor .. | .pnot .. | .pandn .. => true
  | _ => false
/-- The C words of a follower (06 R113). -/
def followerC : Instr → Bool
  | .getln .. | .setln .. => true
  | i => anyC i
/-- The NOP word. -/
def isNop : Instr → Bool
  | .nop .. => true
  | _ => false

end Sys2Proof.Machine
end

