-- ==== Sys2Proof/Machine/Present.lean ====
section
/-!
DEFINITION. The issue of bundles: cycles and turns, freezes, the actions at a bundle boundary, the checks of 04 R83, holds,
what follows a bundle, and the events BUNDLE_PRESENTATION, DEFERRED_TRAP, LATENCY_WRITEBACK, FREEZE_TIMEOUT,
SECONDARY_FORCED_ISSUE, BANK_FMT_WRITE, CORE_SPLIT_WRITE, REGISTER_WRITE and SEGMENT_COPY_COMPLETE.
-/
namespace Sys2Proof.Machine

/-! Bundles in instruction memory (04 R74, R75, 21 R344). -/

/-- The text half and bundle address at which a task fetches. -/
def State.fetchAt (s : State) (t : Task) : Nat :=
  if halfFit (s.launchOf t).obj then t.half * 2048 + t.pc else t.pc
/-- A 32-bit word of memory. -/
def State.lane32 (s : State) (a : Nat) : Lane := BitVec.ofNat 32 (s.num a 4)
/-- The six words of a column's bundle. -/
def State.bundleOf (s : State) (t : Task) (c : Nat) : List Lane :=
  let p := physCol t.unit t.width c
  let a := imemNo (p / 4) (p % 4) (24 * s.fetchAt t)
  (List.range 6).map (fun k => s.lane32 (a + 4 * k))
/-- The unit bundle, column by column. -/
def State.fetch (s : State) (t : Task) : List (List Lane) := (List.range t.width).map (s.bundleOf t)
/-- A pc inside the task's text (21 R345). -/
def State.inWindow (s : State) (t : Task) : Bool :=
  let o := (s.launchOf t).obj
  o.overlay || decide (t.pc < textLen o)
/-- Header fields. -/
def hdrPresent (h : Lane) (n : Nat) : Bool := h.getLsbD n
def hdrStall (h : Lane) : Nat := bits h.toNat 8 5
def hdrSync (h : Lane) : Nat := bits h.toNat 12 9
def hdrSeg (h : Lane) : Bool := h.getLsbD 13
def hdrSafe (h : Lane) : Bool := h.getLsbD 14
def hdrLive (h : Lane) : Nat := bits h.toNat 22 15
/-- The five slots in program order, by number. -/
def slotOf : Nat → Slot
  | 0 => .c | 1 => .i | 2 => .f | 3 => .m | _ => .d
/-- A present word: column, slot number, word. -/
abbrev PWord := Nat × Nat × Lane
/-- The present words, column by column. -/
def presentWords (cols : List (List Lane)) : List PWord :=
  (List.zip (List.range cols.length) cols).flatMap (fun e =>
    ((List.range 5).filter (hdrPresent (lget 0 e.2 0))).map (fun n => (e.1, n, lget 0 e.2 (n + 1))))
/-- A present M word that is no NOP. -/
def mWord (w : PWord) : Bool := decide (w.2.1 = 3) && decide (opcodeOf w.2.2 ≠ 0)
/-- A C word that may stand anywhere, and one that a follower may hold, by opcode (03 R72, 06 R113). -/
def anyOpC (w : Lane) : Bool := decide (opcodeOf w = 0) || (decide (10 ≤ opcodeOf w) && decide (opcodeOf w ≤ 15))
def followerOpC (w : Lane) : Bool := anyOpC w || decide (opcodeOf w = 0x15) || decide (opcodeOf w = 0x16)
/-- A repetition whose body is presented. -/
def Task.inBody (t : Task) : Option Mrep :=
  match t.mrep with
  | some m => if m.susp then none else some m
  | none => none

/-- The segment entry that a segment mark at the presented bundle names (24 R408): its number and entry. -/
def State.segNextOf (s : State) (t : Task) : Option (Nat × (Nat × Nat)) :=
  let l := s.launchOf t
  let h := t.pc / 2048
  match vget 0 (s.unit t.unit).segOf h with
  | 0 => none
  | n + 1 =>
    let e := lget (0, 0) l.segs n
    let x := segNext e
    let y := lget (0, 0) l.segs x
    if l.obj.overlay && segValid e && segValid y then some (x, y) else none
/-- Step 1 of R83: the column of the first bundle whose shape breaks a rule, and the slot of the deciding word (0 for a
header). A front-end core has no F, M and D slot (24 R392). -/
def State.shapeBad (s : State) (t : Task) (cols : List (List Lane)) : Option (Nat × Nat) :=
  let h0 := lget 0 (cols.headD []) 0
  let bad (c : Nat) (ws : List Lane) : Option Nat :=
    let h := lget 0 ws 0
    let cw := lget 0 ws 1
    let cOn := hdrPresent h 0
    let mrepWord := hdrPresent h 3 && decide (opcodeOf (lget 0 ws 4) = 0x10)
    let header := decide (8388608 ≤ h.toNat) || (!hdrSafe h && decide (hdrLive h ≠ 0)) ||
      (decide (c ≠ 0) && (hdrSafe h || hdrSeg h)) ||
      (match t.inBody with
        | some m => decide (c = 0) && (hdrSafe h || hdrSeg h || decide (16 ≤ m.seen))
        | none => false) ||
      (decide (c = 0) && hdrSeg h && (match s.segNextOf t with
        | none => true
        | some (_, e) => (s.unit t.unit).residents.any (fun k => decide ((s.task k).pc / 2048 = segHalf e))))
    let absent := (List.range 5).find? (fun n => !hdrPresent h n && decide (lget 0 ws (n + 1) ≠ 0))
    let cBad := cOn && ((decide (c ≠ 0) && !anyOpC cw) ||
      (decide (c = 0) && ((t.follower.isSome && !followerOpC cw) || (t.inBody.isSome && !anyOpC cw))))
    if header then some 0
    else match absent with
      | some n => some n
      | none =>
        if t.front && (hdrPresent h 2 || hdrPresent h 3 || hdrPresent h 4) then some 2
        else if cBad then some 0
        else if mrepWord && (!hdrSafe h0 || decide (c ≠ 0) || t.mrep.isSome) then some 3
        else none
  (List.zip (List.range cols.length) cols).findSome? (fun e => (bad e.1 e.2).map (fun n => (e.1, n)))
/-- A reserved value that depends on the unit, the index bases or the step phase (04 R83 step 2). -/
def unitBad (t : Task) (col : Nat) : Instr → Bool
  | .xmov _ _ _ c | .vxmov _ _ _ c => decide (t.width ≤ c.toNat)
  | .tcfg _ _ x | .tzero _ x | .treshape _ _ x | .tld _ _ x | .tst _ _ _ x | .mv _ _ x | .rowstat _ _ _ _ x
  | .chainm _ _ x _ => decide (x.toNat / 2 ≠ col)
  | .requant _ d a _ _ => decide ((t.bank col).physV d = (t.bank col).physV a)
  | .give _ _ _ _ h | .take _ _ _ _ h => decide (t.width ≤ h.toNat)
  | .put .. => !t.comm
  | _ => false
/-- A privileged word or special register number (04 R82, 06 R138). -/
def needsPriv : Instr → Bool
  | .halt _ | .ttinv .. | .beadld .. => true
  | .getsr _ _ n | .setsr _ _ n => decide (n.toNat = 0x40)
  | _ => false
/-- A decoded word: column, slot number, instruction. -/
abbrev DWord := Nat × Nat × Instr
/-- The words of a bundle decoded, or the place of the first that is no instruction (step 2). -/
def decodeWords (t : Task) : List PWord → Except (Nat × Nat) (List DWord)
  | [] => .ok []
  | (c, n, w) :: r =>
    match decodeSlot (slotOf n) w with
    | .rejected _ => .error (c, n)
    | .instr i =>
      if unitBad t c i then .error (c, n)
      else match decodeWords t r with
        | .ok l => .ok ((c, n, i) :: l)
        | .error e => .error e

/-- The guard of an instruction. -/
def Instr.guardF (i : Instr) : Guard := guardOf (encode i)
/-- A word is not squashed. -/
def Task.runs (t : Task) (w : DWord) : Bool :=
  let b := t.bank w.1
  b.p (b.physG (Instr.guardF w.2.2)) || (match w.2.2 with | .brn .. => true | _ => false)
/-- A write in flight to a register: column, file, number. p0 and k0 are constant (03 R56). -/
def Task.inFlight (t : Task) (r : Nat × Nat × Nat) : Bool :=
  !((decide (r.2.1 = 2) || decide (r.2.1 = 3)) && decide (r.2.2 = 0)) &&
    (t.pend.any (fun x => decide (x.col = r.1) && decide (x.w.dest = (r.2.1, r.2.2))) ||
      (decide (r.2.1 = 4) && t.land.any (fun x => decide (x.col = r.1) && decide (x.reg = r.2.2))))
/-- A word reads a register, its guard included, before its latest write has taken effect (03 R65, R70); ARITH_FLAGS too, by
GETSR, before an operation on its way sets a flag. -/
def Task.early (t : Task) (w : DWord) : Bool :=
  t.inFlight (w.1, 2, (t.bank w.1).physG (Instr.guardF w.2.2)) ||
    (reads w.2.2).any (fun u => match u with
      | .i f => decide ((t.bank w.1).physI f < 56) && t.inFlight (u.at t w.1)
      | _ => t.inFlight (u.at t w.1)) ||
    (match w.2.2 with
      | .getsr _ _ n => decide (n.toNat = 4) && t.pend.any (fun x => decide (x.flags ≠ 0))
      | _ => false)

/-! Link registers of a bundle (18 R309, R320). -/

/-- The link registers among some uses: column and number. -/
def lqUses (t : Task) (col : Nat) (us : List Use) : List (Nat × Nat) :=
  (us.map (fun u => u.at t col)).filterMap (fun r => if r.2.1 = 0 ∧ 56 ≤ r.2.2 then some (r.1, r.2.2 - 56) else none)
/-- The pops and pushes of a word that runs. -/
def Task.pops (t : Task) (w : DWord) : List (Nat × Nat) := if t.runs w then lqUses t w.1 (reads w.2.2) else []
def Task.pushes (t : Task) (w : DWord) : List (Nat × Nat) := if t.runs w then lqUses t w.1 (writes w.2.2) else []
/-- A pop or a push with a wrong binding. -/
def popBad (q : Lq) : Bool :=
  q.queue.isSome || (match q.bind with | some (.recvCirc _) | some .recvEnd => false | _ => true)
def pushBad (q : Lq) : Bool :=
  q.queue.isSome || (match q.bind with | some (.sendCirc _) | some (.sendEnd _) => false | _ => true)
def Task.lqBad (t : Task) (w : DWord) : Bool :=
  (t.pops w).any (fun e => popBad (t.lqAt e.1 e.2)) || (t.pushes w).any (fun e => pushBad (t.lqAt e.1 e.2))
/-- How often a list of words pops a link register. -/
def Task.popCount (t : Task) (ws : List DWord) (e : Nat × Nat) : Nat := ((ws.flatMap t.pops).filter (fun x => decide (x = e))).length
/-- A word whose lq access traps CIRCUIT_LOST at issue; the words before it in the bundle pop first. -/
def Task.lqLost (t : Task) (before : List DWord) (w : DWord) : Bool :=
  (t.pops w).any (fun e => (t.lqAt e.1 e.2).lost &&
    decide ((t.lqAt e.1 e.2).fifo.length < t.popCount before e + t.popCount [w] e)) ||
    (t.pushes w).any (fun e => (t.lqAt e.1 e.2).lost)
/-- Some lq access of the bundle cannot proceed. -/
def Task.lqWaits (t : Task) (ws : List DWord) : Bool :=
  (ws.flatMap t.pops).any (fun e => !(t.lqAt e.1 e.2).lost && decide ((t.lqAt e.1 e.2).fifo.length < t.popCount ws e)) ||
    (ws.flatMap t.pushes).any (fun e =>
      let q := t.lqAt e.1 e.2
      let under := (t.pend.filter (fun x => decide (x.col = e.1) && decide (x.w.dest = (0, 56 + e.2)))).length
      let mine := ((ws.flatMap t.pushes).filter (fun x => decide (x = e))).length
      !q.lost && decide (64 < q.fifo.length + under + mine))
/-- The bundle names a link register that a pending LQBIND of the task binds. -/
def State.lqbindWaits (s : State) (t : Task) (ws : List DWord) : Bool :=
  let pending := (s.unit t.unit).recs.filterMap (fun r => match r.ins with
    | .lqbind _ _ _ _ _ n => if r.task = t.key then some (r.col, n.toNat) else none
    | _ => none)
  !pending.isEmpty && (ws.flatMap (fun w => lqUses t w.1 (reads w.2.2 ++ writes w.2.2))).any (fun e => pending.elem e)

/-! Step 5 of R83 and the holds. -/

/-- The meaning of a word with a fault at presentation, run to see whether it faults. -/
def memoryWord (i : Instr) (s : State) : R :=
  match i with
  | .lds g l a o c n sc => execLds g l a o c n sc s
  | .sts g r a c n sc => execSts g r a c n sc s
  | .ldd g l a o c n sc => execLdd g l a o c n sc s
  | .std g r a c n sc => execStd g r a c n sc s
  | .pld g l a o c n sc => execPld g l a o c n sc s
  | .pst g r a c n sc => execPst g r a c n sc s
  | .pldref g l a o c n => execPldref g l a o c n s
  | .pstref _ _ a _ _ => .next (if (s.bank.agr a).off % 8 ≠ 0 ∧ s.guard (Instr.guardF i) then s.trapNow Cause.misaligned 1 else s)
  | _ => .next s
/-- An LS word that meets a tile which a pending TAKE or CBPOP of the task will give back stalls (01 R22). -/
def State.tileWaits (s : State) (t : Task) (w : DWord) : Bool :=
  let go (a : BitVec 3) (size : Nat) : Bool :=
    match s.lsCheck t ((t.bank w.1).agr a) size with
    | .owner tile => s.takePending t tile
    | _ => false
  t.runs w && (match w.2.2 with
    | .lds _ _ a _ _ _ sc => go a (loadSize sc)
    | .sts _ _ a _ _ sc => go a (storeSize sc)
    | _ => false)
/-- The state after the first fault of step 5, if a word of the bundle has one; `s.ctl` is on. -/
def State.step5 (s : State) (t : Task) : List DWord → Option State
  | [] => none
  | w :: r =>
    let s' : State := { s with col := w.1 }
    if t.lqBad w then some (s'.trapNow Cause.owner w.2.1)
    else if s.tileWaits t w then s.step5 t r
    else match memoryWord w.2.2 s' with
      | .next x => if x.ctl.on then s.step5 t r else some x
      | _ => s.step5 t r
/-- A fence holds a bundle with some accesses (02 R33, R36). -/
def Fence.holds (f : Fence) (accs : List (Nat × Bool × Bool)) : Bool :=
  (!f.past && accs.any (fun a => f.mask.getLsbD a.1) &&
    (!f.loads.isEmpty || (accs.any (fun a => a.2.2) && !f.stores.isEmpty))) ||
    (!f.pastLd && accs.any (fun a => a.2.1) && !f.strict.isEmpty)
/-- A fence after a bundle with some accesses has issued. -/
def Fence.after (f : Fence) (accs : List (Nat × Bool × Bool)) : Fence :=
  { f with past := f.past || accs.any (fun a => f.mask.getLsbD a.1), pastLd := f.pastLd || accs.any (fun a => a.2.1) }
/-- The accesses of the words that run. -/
def Task.accesses (t : Task) (ws : List DWord) : List (Nat × Bool × Bool) :=
  (ws.filter t.runs).filterMap (fun w => accessOf w.2.2)
/-- Landing entries in use at a column of a unit: both banks, lockets included (03 R66). -/
def State.landUsed (s : State) (u col : Nat) : Nat :=
  ((s.unit u).residents.map (fun k =>
    let t := s.task k
    ((t.land ++ t.work.land ++ t.snap.land).filter (fun x => decide (x.col = col))).length)).sum
/-- A record of the task waits in the slip window for an engine of a sync mask (01 R17). -/
def State.syncWaits (s : State) (t : Task) (mask : Nat) : Bool :=
  (s.unit t.unit).slip.any (fun r => decide (r.task = t.key) && (match queueOf r.ins with
    | some .chain => decide (mask % 2 = 1)
    | some .copy => decide (mask / 2 % 2 = 1)
    | some .bank => decide (mask / 4 % 2 = 1)
    | some .fabric => decide (mask / 8 % 2 = 1)
    | none => false))
/-- An LDD, STD or PUT waits for a bank or remote record of its class in the slip window (16 R284, 18 R304). -/
def State.slipOrder (s : State) (t : Task) (w : DWord) : Bool :=
  t.runs w && (match w.2.2 with
    | .ldd .. | .std .. | .put .. =>
      (s.unit t.unit).slip.any (fun r => decide (r.task = t.key) &&
        (decide (queueOf r.ins = some .bank) || decide (queueOf r.ins = some .fabric)) &&
        decide ((accessOf r.ins).map (·.1) = (accessOf w.2.2).map (·.1)))
    | _ => false)
/-- An FN or FNP waits for an FTLD or FMLD of its column (14 R270). -/
def State.tableWaits (s : State) (t : Task) (w : DWord) : Bool :=
  t.runs w && (match w.2.2 with
    | .fn .. | .fnp .. => (s.unit t.unit).recs.any (fun r => decide (r.task = t.key) && decide (r.col = w.1) &&
        (match r.ins with | .ftld .. | .fmld .. => true | _ => false))
    | _ => false)
/-- A word reads or writes the register of a pending result (10 R205, 11 R221, 14 R275). -/
def Task.resultWaits (t : Task) (w : DWord) : Bool :=
  (reads w.2.2 ++ writes w.2.2).any (fun u =>
    let r := u.at t w.1
    t.results.any (fun x => x.val.isNone && decide ((x.col, x.vec.toNat, x.reg) = r)))
/-- A copy into the half that the bundle's segment mark names is in progress (24 R408). -/
def State.segWaits (s : State) (t : Task) (h0 : Lane) : Bool :=
  hdrSeg h0 && (match s.segNextOf t with
    | some (_, e) => decide (vget 0 (s.unit t.unit).segBusy (segHalf e) ≠ 0)
    | none => false)
/-- A bundle that has passed the checks is held (03 R62). -/
def State.bundleWaits (s : State) (t : Task) (cols : List (List Lane)) (ws : List DWord) : Bool :=
  let u := t.unit
  let mask := (cols.map (fun c => hdrSync (lget 0 c 0))).foldl (fun a b => a ||| b) 0
  let accs := t.accesses ws
  let full (c : Nat) : Bool :=
    let n := (ws.filter (fun w => decide (w.1 = c) && lands w.2.2 && t.runs w)).length
    decide (0 < n) && decide (32 < s.landUsed u c + n)
  s.syncWaits t mask || t.fences.any (fun f => f.holds accs) || (List.range t.width).any full ||
    ws.any t.resultWaits || ws.any (s.slipOrder t) || ws.any (s.tableWaits t) || ws.any (s.tileWaits t) ||
    t.lqWaits ws || s.segWaits t (lget 0 (cols.headD []) 0)

/-! Boundaries. -/

/-- A fence holds the next bundle of the foreground task for accesses that have still to perform; an urgent stop lets them
perform first (02 R33). -/
def State.fenceHeld (s : State) : Bool :=
  s.fencesOpen s.fg && s.inWindow s.fg && (match decodeWords s.fg (presentWords (s.fetch s.fg)) with
    | .ok ws => s.fg.fences.any (fun f => f.holds (s.fg.accesses ws))
    | .error _ => false)
/-- The oldest deferred trap of the foreground task is taken at its bundle boundary (08 R171); while a handler runs they
are held, the first only (R174). COL is the column of the operation that raised it, where the spec fixes only SLOT (DESIGN
CHOICE, log 24). The flag says that a trap was taken. -/
def State.takeDeferred (s : State) : State × Bool :=
  match s.fg.deferred with
  | [] => (s, false)
  | d :: r =>
    if s.fg.active then
      ({ s with fg := { s.fg with deferred := [], held := match s.fg.held with | some x => some x | none => some d } }, false)
    else
      let s : State := (s.unheld s.fg.key)
      (State.enterTrap { s with fg := { s.fg with deferred := r } } ⟨d.cause, 0, d.col, true, true, false, false⟩, true)
/-- XLATE_FAULT of a task whose page request failed (08 R171, 11 R216): it names the I word at fault, by its bundle and
column, and resumes at the bundle the stop came before. -/
def State.xlateFault (s : State) (pc col : Nat) : State :=
  let xfer := s.fg.follower.isSome
  let busy := s.fg.active
  let s := (s.unheld s.fg.key).enterTrap ⟨Cause.xlateFault, 1, col, true, false, false, false⟩
  if busy || !s.fg.active then s
  else { s with fg := { s.fg with trapCause := putBits (putBits s.fg.trapCause 27 16 pc) 13 13 xfer.toNat } }
/-- A parked task stops at its bundle boundary, before its residency slot is free (03 R68). -/
def State.parkNow (s : State) : State :=
  let k := s.fg.key
  let s := (s.unheld k).abandonPairs s.fg
  State.soon { s with fg := s.fg.halt .page } (.urgentStop k .park)
/-- What a task's bundle boundary brings before its next bundle: a kill, a diversion, a trap, a halt, parking, an eviction, a
role swap, in this order (21 R356). None when the bundle is presented. -/
def State.boundary (s : State) (sec : Bool) : Option State :=
  let t := s.fg
  let k := t.key
  let l := s.launchOf t
  let x := s.unit t.unit
  if t.doom && t.safeNow.isSome then some (s.kill k)
  else if t.divert then
    some (if l.wrapPc = 0 ∧ l.budget = 0 then (s.divertParts k).stopExpired k
          else (((s.unheld k).divertParts k).diverted k l.wrapPc (l.budget + 1)).evalBars t.launch)
  else match t.resumeAt with
    | some (pc, col) => some (State.xlateFault { s with fg := { t with resumeAt := none } } pc col)
    | none =>
      if s.fenceHeld then none
      else match s.takeDeferred with
        | (s', true) => some s'
        | (s', false) =>
          if t.dbgReq then
            let s := (s'.unheld k).abandonPairs t
            some { s with fg := { s.fg.halt .debug with dbgReq := false } }
          else if !t.pages.isEmpty then some s'.parkNow
          else if t.evict && t.safeNow.isSome then some (s'.soon (.sliceEndEviction k))
          else if !sec && x.swap && decide (x.sec ≠ 0) && t.safeNow.isSome then some (s'.soon (.roleSwap t.unit))
          else if !t.deferred.isEmpty then some s'
          else none

/-! A turn. -/

/-- The turn passes; a held cycle counts as a bundle (03 R62). -/
def State.pass (s : State) : State := { s with fg := { s.fg with dist := s.fg.dist + 1 } }
/-- A trap at presentation: no slot issues. A bundle that ends a body of MREP ends its repetition all the same. -/
def State.reject (s : State) (cause col slot : Nat) (ends : Bool) : State :=
  (s.unheld s.fg.key).enterTrap { TrapReq.at cause slot col with bodyEnd := ends }
/-- The step of a repetition is made at the first bundle of its body (13 R255). -/
def Task.mrepStep (t : Task) : Task :=
  match t.inBody with
  | some m =>
    if m.due then
      let t := match m.step with
        | some (a, mask, n) =>
          let b := t.bank 0
          t.setBank 0 { b with ag := vset b.ag a ((vget Ag.zero b.ag a).inc mask n) }
        | none => t
      { t with mrep := some { m with due := false } }
    else t
  | none => t
/-- The present slots of each column. -/
def slotMasks (cols : List (List Lane)) : List (Nat × Nat) :=
  (List.zip (List.range cols.length) cols).map (fun e => (e.1, (lget 0 e.2 0).toNat % 32))
/-- A secondary bundle that finds a slot of the primary's occupied (03 R69). -/
def occupied (slots : List (Nat × Nat)) (cols : List (List Lane)) : Bool :=
  (slotMasks cols).any (fun e => slots.any (fun f => decide (f.1 = e.1) && decide (f.2 &&& e.2 ≠ 0)))
/-- A bundle issues: delivered results are written, its words are handed out, and the words that trap CIRCUIT_LOST at
issue are left out. -/
def State.issueWords (s : State) (sec : Bool) (cols : List (List Lane)) (ws : List DWord) (ends : Bool) : State :=
  let t := s.fg
  let h0 := lget 0 (cols.headD []) 0
  let lost := ((List.range ws.length).filter (fun n => match ws[n]? with
    | some w => t.lqLost (ws.take n) w
    | none => false)).filterMap (fun n => ws[n]?)
  let go := ws.filter (fun w => !lost.elem w)
  let c : Ctl := { Ctl.none with
    on := true, stall := (cols.map (fun c => hdrStall (lget 0 c 0))).foldl max 0,
    live := if hdrSafe h0 then some (hdrLive h0) else none, seg := hdrSeg h0, bodyEnd := ends, mark := s.nid,
    trap := lost.head?.map (fun _ => Cause.circuitLost), place := (lost.head?.map (fun w => (w.2.1, w.1))).getD (0, 0) }
  let s := s.mapUnit t.unit (fun x =>
    if sec then { x with secIdle := 0 } else { x with slots := slotMasks cols })
  { s with fg := { t.deliver with safeNow := none }, ctl := c, issue := go.map (fun w => (w.1, w.2.2)) }
/-- A ready secondary whose bundle is not held issues nothing in the cycle: it counts towards the 4,095 of 21 R351. -/
def State.secIdles (s : State) (u : Nat) : State := s.mapUnit u (fun x => { x with secIdle := x.secIdle + 1 })
/-- The next bundle of the foreground task is presented (04 R83). A bundle that names a link register of a pending LQBIND
(18 R309) stalls before the faults of step 5 of its other words are looked at, an order that the spec leaves open (DESIGN
CHOICE, log 56); so does a secondary's bundle that would read early, whose operands are not there yet (03 R70). -/
def State.presentBundle (s : State) (sec : Bool) : State :=
  let t := s.fg
  let ov := (s.launchOf t).obj.overlay
  let u := s.unit t.unit
  if !s.inWindow t then (s.unheld t.key).enterTrap ⟨Cause.illegalBundle, 0, 0, false, false, true, false⟩
  else if ov && (decide (vget 0 u.segOf (t.pc / 2048) = 0) || decide (vget 0 u.segBusy (t.pc / 2048) ≠ 0)) then s.pass
  else
    let s : State := { s with fg := s.fg.mrepStep }
    let t := s.fg
    let cols := s.fetch t
    let ends := t.inBody.isSome && (presentWords cols).any mWord
    match s.shapeBad t cols with
    | some (c, n) => s.reject Cause.illegalBundle c n ends
    | none =>
      match decodeWords t (presentWords cols) with
      | .error (c, n) => s.reject Cause.illegalInstr c n ends
      | .ok ws =>
        match (if t.priv then none else ws.find? (fun w => needsPriv w.2.2)) with
        | some w => s.reject Cause.privileged w.1 w.2.1 ends
        | none =>
          let early := ws.find? t.early
          match (if sec || t.chk.toNat % 2 = 0 then none else early) with
          | some w => s.reject Cause.stallShort w.1 w.2.1 ends
          | none =>
            if s.lqbindWaits t ws || (sec && early.isSome) then s.pass
            else match State.step5 { s with ctl := { Ctl.none with on := true, bodyEnd := ends, mark := s.nid } } t ws with
              | some s' => s'.unheld t.key
              | none =>
                if s.bundleWaits t cols ws then s.pass
                else if sec && occupied u.slots cols then
                  let s := s.secIdles t.unit
                  (if 4095 ≤ (s.unit t.unit).secIdle then s.soon (.secondaryForcedIssue t.unit) else s).pass
                else s.issueWords sec cols ws ends
/-- The foreground task's turn in a cycle of its unit that is not frozen. The cycles that a unit stands halted by HALT do not
count towards distance (DESIGN CHOICE: 06 R123 does not say; log 24), nor do those of a debug halt. -/
def State.turn (s : State) (sec : Bool) : State :=
  let k := s.fg.key
  let s := s.writeBack k
  let t := s.fg
  let x := s.unit t.unit
  if t.exiting then s.settle k
  else if t.divert && decide (t.stop ≠ .run) then ((s.boundary sec).getD s).pass
  else if slipStopped x then (if sec || x.stopped then s else s.soon (.slipStop t.unit)).pass
  else if t.stop ≠ .run ∨ t.lateLanding then s
  else if 0 < t.idle then
    let s := if sec then s.secIdles t.unit else s
    { s with fg := { t with idle := t.idle - 1, used := t.used + 1, dist := t.dist + 1 } }
  else if t.waiting && !t.dbgReq && !t.divert && t.pages.isEmpty then s.pass
  else match s.boundary sec with
    | some s' => s'.pass
    | none =>
      if t.waiting then s.pass
      else if !sec && decide (4096 ≤ x.secIdle) && decide (x.sec ≠ 0) then
        (s.mapUnit t.unit (fun x => { x with secIdle := 0 })).pass
      else s.presentBundle sec
/-- The wrap-up budget runs in every resident cycle from the first wrap-up bundle on, which a debug halt may put off; used up,
the task is killed in the next (22 R382). -/
def State.budgetCycle (s : State) (k : Nat) : Option State :=
  let t := s.task k
  match t.wrapLeft with
  | some 0 => if t.exiting then some s else none
  | some (n + 1) =>
    if t.stop = .debug ∧ n = (s.launchOf t).budget then some s else some (s.mapTask k (fun t => { t with wrapLeft := some n }))
  | none => some s
/-- A stream of a unit has its turn. -/
def State.present (s : State) (u : Nat) (sec : Bool) : State :=
  let x := s.unit u
  let k := if sec then x.sec else x.prim
  if k = 0 then s
  else
    let s := s.bring k
    let s := if s.fg.divDue then State.divertNow { s with fg := { s.fg with divDue := false } } k else s
    match s.budgetCycle k with
    | none => s.soon (.wrapupBudgetExpiry k)
    | some s =>
      if sec then s.turn true
      else (s.mapUnit u (fun x => { x with count := x.count + 1, slots := [] })).turn false

/-! Cycles. -/

/-- The units that hold a task; a pair that has stopped runs no more (24 R394). -/
def State.busyUnits (s : State) : List Nat :=
  ((s.units.filter (fun e => !e.2.residents.isEmpty)).map (·.1)).filter (fun u => !s.fw.down.any (fun d => decide (frontUnit d 0 = u)))
/-- A worker that traps or stops gives its queues to the other workers of its die (24 R394). -/
def State.watchWorkers (s : State) : State :=
  (s.tasks.filter (fun t => t.front && (!t.alive || t.active))).foldl (fun s t =>
    let core := coreOf t.unit - 432 - 5 * t.die
    if core = 0 ∨ s.fw.lostW.elem (t.die, core - 1) then s else s.soon (.workerFailure t.die (core - 1))) s
/-- A frozen core counts the cycle, and so do the wrap-up budgets of its tasks (22 R382) and each landing that holds it
(03 R67). -/
def State.freezeCycle (s : State) : State :=
  let cores := (s.busyUnits.map coreOf).foldl (fun l c => if l.elem c then l else l ++ [c]) []
  (cores.filter s.frozen).foldl (fun s c =>
    let x := s.core c
    let s := s.setCore c { x with freeze := x.freeze + 1 }
    (List.range 4).foldl (fun s n => (s.unit (c * 4 + n)).residents.foldl (fun s k =>
      let s := (s.budgetCycle k).getD (s.soon (.wrapupBudgetExpiry k))
      let t := s.task k
      let late (y : Landing) : Bool := y.late t.dist
      let s := s.mapTask k (fun t => { t with land := t.land.map (fun y => if late y then { y with frozen := y.frozen + 1 } else y) })
      ((s.task k).land.filter (fun y => decide (65536 ≤ y.frozen) && y.data.isNone)).foldl (fun s y => s.soon (.freezeTimeout k y.id)) s) s) s) s
/-- A deadline check (22 R380, R372, 21 R349). A deadline that expires while its VF is in the final round of a migration waits for
the restore (25 R421). -/
def State.deadlineCheck (s : State) : State :=
  let s := s.launches.foldl (fun s e => match e.2.deadline with
    | some d => if e.2.live && !e.2.expired && decide (d ≤ s.now) && !s.leaving e.2.vf then s.soon (.deadlineExpiry e.1) else s
    | none => s) s
  let s := s.tasks.foldl (fun s t => match t.sleep with
    | some sl => match sl.limit with
      | some n => if n ≤ s.now then s.soon (.waittLimitExpiry t.key) else s
      | none => s
    | none => s) s
  ((s.tasks.filter (fun t => t.alive || t.exiting)).map (·.die)).foldl (fun s d => s.soon (.schedulingPoint d)) s
/-- The timebase advances by a cycle; each 10 µs a correction of up to 1 ns is slewed in, so Now() never steps and never
decreases (26 R426). -/
def State.clock (s : State) : State :=
  let s : State := { s with cycle := s.cycle + 1 }
  if s.cycle % 20000 ≠ 0 ∨ s.fw.slew = 0 ∨ s.tai = 0 then s
  else if 0 < s.fw.slew then { s with tai := s.tai + 1, fw := { s.fw with slew := s.fw.slew - 1 } }
  else { s with tai := s.tai - 1, fw := { s.fw with slew := s.fw.slew + 1 } }
/-- A new cycle: the timebase, the checks that fall on it, and the turns of every unit whose core is not frozen
(26 R426, 03 R67). -/
def State.tick (s : State) : State :=
  let us := s.busyUnits.filter (fun u => !s.frozen (coreOf u))
  let s := s.freezeCycle
  let was := s.now
  let slot := s.flitTime
  let s := s.clock
  let ks := (s.tasks.filter (fun t => t.alive && (s.readyOut t || (t.readyIn && !s.frozen (coreOf t.unit))))).map Task.key
  let s := ks.foldl (fun s k =>
    let s := s.mapTask k (fun t => { t with ready := t.ready + 1 })
    let t := s.task k
    if 1048576 * (t.raises + 1) ≤ t.ready then s.soon (.antiStarvationRaise k) else s) s
  let s := ((s.tasks.filter Task.lqLive).foldl (fun s t => s.lqCycle t.key) s).fabSlots slot
  let s := if was / 8 < s.now / 8 then s.deadlineCheck.watchWorkers else s
  let s := if was / 1024 < s.now / 1024 then s.soon .frontEndTick else s
  let s := s.fab.out.foldl (fun s o =>
    if o.sent + 20000 ≤ s.now then s.soon (.retransmitTimeout (o.req.srcDie * 65536 + o.xid)) else s) s
  let s := s.queues.foldl (fun s e =>
    if e.2.mapped && e.2.run.isEmpty && decide (e.2.since + 10000 ≤ s.now) then s.soon (.queueIdleUnmap (e.1 / 64) (e.1 % 64)) else s) s
  { s with turns := us.flatMap (fun u => if (s.unit u).sec = 0 then [(u, false)] else [(u, false), (u, true)]) }
/-- BUNDLE_PRESENTATION: the next turn of the cycle, of a unit's stream; with no turn left, a new cycle begins. -/
def bundlePresentation (u : Nat) (s : State) : State :=
  match s.turns.find? (fun e => decide (e.1 = u)) with
  | some e => State.present { s with turns := s.turns.erase e } u e.2
  | none => s.tick

/-! What follows a bundle. -/

/-- A fence takes its place (02 R33, R36): the earlier accesses it orders, those of its bundle included. -/
def Task.fenced (t : Task) (m : BitVec 16) (scope : Option Nat) : Task :=
  let earlier := t.accs.filter (fun a => m.getLsbD a.cls)
  let loads := (earlier.filter (·.ld)).map (·.id)
  let stores := (earlier.filter (·.st)).map (·.id)
  let strict := match scope with
    | some sc => (t.accs.filter (fun a => a.st && t.homeIn sc a.home)).map (·.id)
    | none => []
  if loads.isEmpty && stores.isEmpty && strict.isEmpty then t
  else { t with fences := t.fences ++ [⟨m, false, false, loads, stores, strict⟩] }
/-- Where the task goes after a bundle that issued (06 R109, R113, 13 R255). -/
def Task.goOn (t : Task) (c : Ctl) : Task :=
  match c.jump, c.indir, t.follower with
  | some a, _, _ => { t with pc := a, follower := none }
  | none, some a, _ => { t with pc := (t.pc + 1) % 4096, follower := some a }
  | none, none, some a => { t with pc := a, follower := none }
  | none, none, none => t.advance c.bodyEnd
/-- One more bundle of a body has issued. -/
def Task.bodySeen (t : Task) : Task :=
  match t.inBody with
  | some m => if m.body = (t.pc + 1) % 4096 then t else { t with mrep := some { m with seen := m.seen + 1 } }
  | none => t
/-- A trap decided at issue is taken after the bundle (08 R171): the writes that the next bundle would see are made, the
stall count is not carried out. A transfer of the bundle is where the handler returns to: of a CALLR or JMPR the follower,
with the target still pending, so that XFER and RESTART are 1 and RPC is the next bundle (DESIGN CHOICE: Table 08.3 gives
RESTART = 1 with RPC = PC only; log 24). -/
def State.trapAfter (s : State) (cause : Nat) (c : Ctl) : State :=
  let s := (s.pass).writeBack s.fg.key
  let t := s.fg
  let busy := t.active
  let s := s.enterTrap ⟨cause, c.place.1, c.place.2, false, false, false, c.bodyEnd⟩
  if busy || !s.fg.active then s
  else match c.jump, c.indir with
    | some a, _ => { s with fg := { s.fg with trapCause := putBits s.fg.trapCause 39 28 a } }
    | none, some a => { s with fg := { s.fg with
        trapCause := putBits (putBits (putBits s.fg.trapCause 51 40 a) 14 13 3) 39 28 (t.pc + 1) } }
    | none, none => s
/-- The segment mark of a bundle starts its copy (24 R408). -/
def State.startSeg (s : State) (t : Task) : State :=
  match s.segNextOf t with
  | some (n, e) =>
    let h := segHalf e
    (s.mapUnit t.unit (fun x => { x with segOf := vset x.segOf h 0, segBusy := vset x.segBusy h (t.key * 64 + n + 1) })).soon
      (.segmentCopyComplete t.unit (decide (h = 1)))
  | none => s
/-- A rotation takes its place among the writes in flight: behind those due earlier and the `old` ones due with it, before
those of its own bundle (03 R64: LOOPR stands in the C slot of column 0). -/
def insRot (x : Pend) (old : List Pend) (l : List Pend) : List Pend :=
  let m := (old.filter (fun y => decide (y.due = x.due))).length
  let same := l.filter (fun y => decide (y.due = x.due))
  l.filter (fun y => decide (y.due < x.due)) ++ same.take m ++ x :: same.drop m ++ l.filter (fun y => decide (x.due < y.due))
/-- The rotation of a LOOPR that loops back, in every column, at the first bundle of the next iteration (03 R61); `old` are the
writes in flight before the bundle. -/
def Task.rotates (t : Task) (old : List Pend) (p8 : Bool) (after : Nat) : Task :=
  let rot (c : Nat) : Pend := ⟨t.dist + 1 + after, c, .rot p8, 0⟩
  (List.range t.width).foldl (fun t c => { t with pend := insRot (rot c) (old ++ (List.range c).map rot) t.pend }) t
/-- What follows the bundle whose words have been carried out: `ctl` off means that a held step held or trapped it. `old`
are the writes in flight before it. A BKPT's stall count is carried out before the debug halt (DESIGN CHOICE, log 24: the spec drops it
only for a trap at issue and does not speak of this). -/
def finishBundle (accs : List (Nat × Bool × Bool)) (old : List Pend) (s : State) : State :=
  let c := s.ctl
  let s : State := { s with ctl := Ctl.none, issue := [] }
  if !c.on then
    (s.mapUnit s.fg.unit (fun x => if x.prim = s.fg.key then { x with slots := [] } else x)).pass
  else
    let t0 := s.fg
    let k := t0.key
    let s := if c.seg then s.startSeg t0 else s
    let f (t : Task) : Task :=
      let t : Task := { t with used := t.used + 1, raises := 0, ready := 0, first := false, fences := t.fences.map (fun x => Fence.after x accs) }
      let t := match c.fence with | some m => t.fenced m c.fscope | none => t
      let t := match c.rot with | some p8 => t.rotates old p8 (if c.trap.isSome then 0 else c.stall) | none => t
      t.bodySeen
    let s : State := { s with fg := f s.fg }
    let s := if 0 < t0.raises then s.inheritAll.schedule t0.die else s
    if c.kill then s.kill k
    else if c.exit then State.settle { s with fg := { s.fg with exiting := true, dist := s.fg.dist + 1 } } k
    else match c.trap with
      | some cause => State.trapAfter { s with fg := { s.fg with dbgReq := s.fg.dbgReq || c.brk } } cause c
      | none =>
        let resumed := s.fg.dist + 1 + c.stall
        let sp := match c.live, c.bodyEnd, t0.inBody with
          | some n, _, _ => some n
          | none, true, some m => some m.live
          | none, _, _ => none
        let t := if c.eret then s.fg.eret resumed else s.fg.goOn c
        let t : Task := { t with
          dist := t.dist + 1, idle := c.stall, safeNow := sp, stop := (if c.halt then .front else t.stop),
          dbgReq := t.dbgReq || t.dbgStep || c.brk, yielded := t.yielded || c.yield }
        let s : State := { s with fg := t }
        if c.yield then s.schedule t.die else s

/-! The events. -/

def execBundlePresentation (s : State) : R :=
  match s.ev with | .bundlePresentation u => .next (bundlePresentation u s) | _ => .next s
/-- DEFERRED_TRAP: at its bundle boundary a task takes its oldest deferred trap; a presentation does so too. -/
def deferredTrap (k : Nat) (s : State) : State :=
  let t := s.task k
  if t.resident && decide (t.stop = .run) && decide (t.idle = 0) && !t.waiting && !t.exiting && !t.divert && t.resumeAt.isNone &&
      !t.lateLanding && !s.frozen (coreOf t.unit) then
    let front := s.fg.key
    let s := (s.writeBack k).bring k
    (if s.fenceHeld then s else s.takeDeferred.1).bring front
  else s
def execDeferredTrap (s : State) : R := match s.ev with | .deferredTrap k => .next (deferredTrap k s) | _ => .next s
/-- LATENCY_WRITEBACK: the writes of a task whose bundle has come take effect; a presentation does so too. -/
def execLatencyWriteback (s : State) : R := match s.ev with | .latencyWriteback k => .next (s.writeBack k) | _ => .next s
/-- FREEZE_TIMEOUT: the landing ends with zeros and a deferred POISON (03 R67). -/
def freezeTimeout (k n : Nat) (s : State) : State :=
  let t := s.task k
  if t.land.any (fun x => decide (x.id = n) && x.data.isNone && decide (65536 ≤ x.frozen)) then
    s.mapTask k (fun t => t.arrive n 0 (some Cause.poison))
  else s
def execFreezeTimeout (s : State) : R := match s.ev with | .freezeTimeout k n => .next (freezeTimeout k n s) | _ => .next s
/-- SECONDARY_FORCED_ISSUE: the primary's next bundle is held for a cycle (21 R351). -/
def forcedIssue (u : Nat) (s : State) : State :=
  s.mapUnit u (fun x => if 4095 ≤ x.secIdle then { x with secIdle := 4096 } else x)
def execSecondaryForcedIssue (s : State) : R :=
  match s.ev with | .secondaryForcedIssue u => .next (forcedIssue u s) | _ => .next s
/-- SEGMENT_COPY_COMPLETE (24 R408). -/
def segmentCopyComplete (u : Nat) (half : Bool) (s : State) : State :=
  let x := s.unit u
  let h := half.toNat
  match vget 0 x.segBusy h with
  | 0 => s
  | n + 1 =>
    let k := n / 64
    let l := s.launchOf (s.task k)
    let s := s.mapUnit u (fun x => { x with segBusy := vset x.segBusy h 0 })
    match s.loadSeg l u l.width (n % 64) (lget (0, 0) l.segs (n % 64)) with
    | some s => s
    | none => (s.raise k Cause.segmentFault 0).report l.vf 1 [k]
def execSegmentCopyComplete (s : State) : R :=
  match s.ev with | .segmentCopyComplete u h => .next (segmentCopyComplete u h s) | _ => .next s
def execCoreSplitWrite (s : State) : R := match s.ev with | .coreSplitWrite c w => .next (s.writeSplit c w) | _ => .next s
/-- BANK_FMT_WRITE: `alloc` is the writing task's LS_ALLOC. -/
def execBankFmtWrite (s : State) : R :=
  match s.ev with
  | .bankFmtWrite c n w alloc =>
    let base := bits alloc.toNat 9 0
    .next (s.writeFmt c n w (decide (base ≤ 128 * n) && decide (128 * n + 128 ≤ base + bits alloc.toNat 26 16)))
  | _ => .next s
/-- REGISTER_WRITE: a special register of a task's column without a row of its own takes the value (06 R138). -/
def registerWrite (k col num : Nat) (w : Word) (s : State) : State :=
  match srWrite num w with
  | some x => s.mapTask k (fun t => (t.setBank col ((t.bank col).write x)) |> (fun t => match x with | .sr n w => t.setSr n w | _ => t))
  | none => s
def execRegisterWrite (s : State) : R :=
  match s.ev with | .registerWrite k col n w => .next (registerWrite k col n w s) | _ => .next s

end Sys2Proof.Machine
end

