-- ==== Sys2Proof/Machine/Hxld.lean ====
section
/-!
DEFINITION. What hxld checks of a code object before it loads it (04 R90): live lists (R76), branch targets (R79), safe-point
windows (03 R71), MREP shapes (13 R255), the 1,024-bundle distance (08 R177) and the interlock flag. The points that the
rules leave to the reader are in log 53.
-/
namespace Sys2Proof.Machine

/-- The fixed latency of a word's writes (Tables 03.3 and 03.4, 07); none for a result that its engine delivers. -/
def latency : Instr → Option Nat
  | .mpoll .. | .cbpop .. | .cpyst .. | .pnew .. | .pgrow .. | .ptrim .. | .post .. | .precv .. | .rowstat .. | .tqry ..
  | .radd .. | .rcas .. | .rswp .. | .rget .. => none
  | .cmp .. | .cmpi .. | .moviv .. | .movim .. | .movie .. | .ldl .. | .xmov .. | .vtoi .. | .vxmov .. | .getln .. | .setln ..
  | .gettime .. | .dlinfo .. | .vperm .. => some 2
  | .mul .. | .mulh .. | .mulhu .. | .vmul .. | .vmulh .. | .vdot4 .. => some 3
  | .fadd .. | .fsub .. | .fmin .. | .fmax .. | .frnd .. | .ftoi .. | .itof .. | .fcvt .. | .fcmp .. | .vcmp .. => some 4
  | .fmul .. | .ffma .. | .ffms .. | .fnma .. | .requant .. => some 5
  | .vred .. => some 6
  | .fn .. | .fnp .. => some 8
  | .frcp .. | .frsq .. => some 10
  | .div .. | .divu .. | .rem .. | .remu .. => some 18
  | _ => some 1
/-- The address generator that a memory word steps after use (06 R143). -/
def steps : Instr → List Use
  | .lds _ _ a _ _ n _ | .ldt _ _ a _ _ n _ | .ldd _ _ a _ _ n _ | .pld _ _ a _ _ n _ | .sts _ _ a _ n _ | .stt _ _ a _ n _
  | .std _ _ a _ n _ | .pst _ _ a _ n _ | .pldref _ _ a _ _ n | .pstref _ _ a _ n =>
    if n.getLsbD 0 then [.ag a.toNat] else []
  | _ => []
/-- The landing of a load that names its arrival offset (03 R66). -/
def landingOf : Instr → List (Use × Nat)
  | .lds _ l _ o _ _ _ | .ldt _ l _ o _ _ _ | .ldd _ l _ o _ _ _ | .pld _ l _ o _ _ _ | .pldref _ l _ o _ _ =>
    [(.l l.toNat, o.toNat)]
  | _ => []
/-- The exposed writes of a word with the distances at which they take effect. -/
def exposed (i : Instr) : List (Use × Nat) :=
  (match latency i with
    | some n => (writes i).map (fun u => (u, n))
    | none => []) ++ (steps i).map (fun u => (u, 1)) ++ landingOf i
/-- The guard as a register read. -/
def guardUse (i : Instr) : Use :=
  let g := Instr.guardF i
  .pAt (if 8 ≤ g.toNat then 1 else 0) g
/-- A register named through an index base (03 R59). -/
def Use.rotates : Use → Bool
  | .i f | .iFar _ f | .v f | .vFar _ f | .p f => f.getLsbD 6
  | .v4 fl n => fl.getLsbD 0 && decide (16 ≤ n.toNat)
  | .pAt r _ => r.getLsbD 0
  | _ => false

/-! The text. -/

/-- Places of the text: an address, or, of an overlay object, 4,096 times the segment's place in the list plus the address. -/
def CodeObj.segAt (o : CodeObj) (q : Nat) : SegText := lget ⟨0, 0, []⟩ o.segText (q / 4096)
def SegText.len (x : SegText) : Nat := (x.text.headD []).length
/-- The places of an address, seen from a place: the other half may hold any segment made for it. -/
def CodeObj.places (o : CodeObj) (q : Option Nat) (a : Nat) : List Nat :=
  if !o.overlay then (if a < textLen o then [a] else [])
  else ((List.range o.segText.length).filter (fun k =>
    let x := o.segAt (k * 4096)
    decide (x.half = a / 2048) && decide (a % 2048 < x.len) &&
      (match q with | some p => decide (p % 4096 / 2048 ≠ a / 2048) || decide (p / 4096 = k) | none => true))).map (fun k => k * 4096 + a)
/-- The bundle at a place, column by column, and its words. -/
def CodeObj.bundle (o : CodeObj) (q : Nat) : List (List Lane) :=
  if o.overlay then (o.segAt q).text.map (fun c => lget [] c (q % 2048)) else o.text.map (fun c => lget [] c q)
def CodeObj.words (o : CodeObj) (pc : Nat) : List DWord :=
  (presentWords (o.bundle pc)).filterMap (fun w =>
    match decodeSlot (slotOf w.2.1) w.2.2 with
    | .instr i => some (w.1, w.2.1, i)
    | .rejected _ => none)
/-- What a bundle counts: itself and its stall count (08 R177). -/
def CodeObj.cost (o : CodeObj) (pc : Nat) : Nat :=
  1 + ((o.bundle pc).map (fun ws => hdrStall (lget 0 ws 0))).foldl max 0
/-- The header that carries SAFE and LIVE. -/
def CodeObj.head (o : CodeObj) (pc : Nat) : Lane := lget 0 ((o.bundle pc).headD []) 0
def CodeObj.live (o : CodeObj) (n : Nat) : Option LiveList := (o.lives.find? (fun e => decide (e.1 = n))).map (·.2)
/-- The C word of column 0. -/
def CodeObj.cWord (o : CodeObj) (pc : Nat) : Option Instr :=
  ((o.words pc).find? (fun w => decide (w.1 = 0) && decide (w.2.1 = 0))).map (·.2.2)
/-- A present M word that is no NOP. -/
def CodeObj.hasM (o : CodeObj) (pc : Nat) : Bool := (presentWords (o.bundle pc)).any mWord
/-- The places of the text. -/
def CodeObj.addrs (o : CodeObj) : List Nat :=
  if o.overlay then (List.range o.segText.length).flatMap (fun k =>
    (List.range (o.segAt (k * 4096)).len).map (fun a => k * 4096 + (o.segAt (k * 4096)).half * 2048 + a))
  else List.range (textLen o)
/-- The words of the whole text that a test picks. -/
def CodeObj.someWord (o : CodeObj) (f : Instr → Bool) : Bool := o.addrs.any (fun a => (o.words a).any (fun w => f w.2.2))
def isSetib : Instr → Bool
  | .setib .. => true
  | _ => false
/-- The displacement of a transfer of B format. -/
def dispOf : Instr → Option Int
  | .br _ d | .brn _ d | .call _ d => some d.toInt
  | .loop _ _ d | .lexit _ _ d => some d.toInt
  | .loopr _ _ _ d => some d.toInt
  | _ => none
/-- The targets of the calls, and where calls return. -/
def CodeObj.callTargets (o : CodeObj) : List Nat :=
  o.addrs.filterMap (fun a => match o.cWord a with | some (.call _ d) => some (target (a % 4096) d.toInt) | _ => none)
def CodeObj.returns (o : CodeObj) : List Nat :=
  o.addrs.filterMap (fun a => match o.cWord a with
    | some (.call ..) => some ((a + 1) % 4096)
    | some (.callr ..) => some ((a + 2) % 4096)
    | _ => none)
/-- The entries of the trap handlers (08 R172). -/
def CodeObj.handlers (o : CodeObj) : List Nat := o.traps.map (·.2) ++ o.trapDef.toList

/-! The control-flow graph. -/

/-- A place on a path: where in the text, whether the bundle is a follower (06 R113), the body address of a pending repetition,
rotations so far, and what is known of the index bases: none where they began at 0, else a number for the unknown values that they have had
since a SETIB (four times its place, plus 1 and 2 for the bundles to which its value does not yet apply, 03 R60, and 3 from then on) or
since a handler's entry. -/
structure HNode where
  pc   : Nat
  fol  : Bool
  body : Option Nat
  rot  : Nat
  base : Option Nat
  deriving DecidableEq, Repr
/-- The transfers of a bundle: address, follower, rotations. -/
def CodeObj.flow (o : CodeObj) (wrap : Nat) (n : HNode) : List (Nat × Bool × Nat) :=
  let pc := n.pc % 4096
  let next : List (Nat × Bool × Nat) := [((pc + 1) % 4096, false, n.rot)]
  let goes (l : List Nat) : List (Nat × Bool × Nat) := l.map (fun a => (a, false, n.rot))
  let orNext (g : Guard) (l : List (Nat × Bool × Nat)) : List (Nat × Bool × Nat) := if g = 0 then l else l ++ next
  if n.fol then goes ([0, wrap] ++ o.callTargets)
  else match o.cWord n.pc with
    | some (.br g d) | some (.call g d) | some (.lexit g _ d) => orNext g (goes [target pc d.toInt])
    | some (.brn g d) => if g = 0 then next else goes [target pc d.toInt] ++ next
    | some (.loop _ _ d) => goes [target pc d.toInt] ++ next
    | some (.loopr _ _ _ d) => (target pc d.toInt, false, (n.rot + 1) % 48) :: next
    | some (.callr g _) | some (.jmpr g _) => orNext g [((pc + 1) % 4096, true, n.rot)]
    | some (.ret g) => orNext g (goes o.returns)
    | some (.exit g) | some (.eret g) => orNext g []
    | _ => next
/-- The end of a repetition's body. -/
def CodeObj.bodyEnd (o : CodeObj) (n : HNode) : Bool := n.body.isSome && o.hasM n.pc
/-- The guard of a bundle's MREP. -/
def CodeObj.mrepAt (o : CodeObj) (pc : Nat) : Option Guard :=
  (o.words pc).findSome? (fun w => match w.2.2 with | .mrep g _ => some g | _ => none)
/-- What is known of the index bases at the bundle after a place. -/
def CodeObj.baseAfter (o : CodeObj) (n : HNode) : Option Nat :=
  if (o.words n.pc).any (fun w => isSetib w.2.2) then some (4 * n.pc + 1)
  else n.base.map (fun b => if b % 4 = 3 then b else b + 1)
/-- The places that follow a place, within the text. -/
def CodeObj.succ (o : CodeObj) (wrap : Nat) (n : HNode) : List HNode :=
  let bodies : List (Option Nat) :=
    match n.body with
    | some b => if o.hasM n.pc then [none] else [some b]
    | none => match o.mrepAt n.pc with
      | some g => if g = 0 then [some ((n.pc + 1) % 4096)] else [some ((n.pc + 1) % 4096), none]
      | none => [none]
  let again : List (Nat × Bool × Nat × Option Nat) := match n.body with
    | some b => if o.hasM n.pc then [(b, false, n.rot, some b)] else []
    | none => []
  (again ++ (o.flow wrap n).flatMap (fun x => bodies.map (fun b => (x.1, x.2.1, x.2.2, b)))).flatMap (fun x =>
    (o.places (some n.pc) x.1).map (fun q => ⟨q, x.2.1, x.2.2.2, x.2.2.1, o.baseAfter n⟩))
/-- A place where a task may stop at a safe point, with the live list: SAFE, and the end of a repetition (13 R256). -/
def CodeObj.stopAt (o : CodeObj) (n : HNode) : Option LiveList :=
  let list (a : Nat) : LiveList := (o.live (hdrLive (o.head a))).getD ⟨[], []⟩
  if hdrSafe (o.head n.pc) then some (list n.pc)
  else if o.bodyEnd n then some (list ((o.places (some n.pc) ((n.body.getD 1 + 4095) % 4096)).headD 0))
  else none
/-- The places reached from a frontier. -/
def reachFrom (f : HNode → List HNode) : Nat → List HNode → List HNode → List HNode
  | 0, _, seen => seen
  | _ + 1, [], seen => seen
  | k + 1, fr, seen =>
    let new := ((fr.flatMap f).filter (fun n => !seen.elem n)).eraseDups
    reachFrom f k new (seen ++ new)
/-- The places of the graph: from the entry and the wrap-up entry with index bases 0, from the handlers with bases
unknown where the object changes one (08 R176). An overlay object starts in its segment 0 (24 R407). -/
def CodeObj.nodes (o : CodeObj) (wrap : Nat) : List HNode :=
  let moves := o.someWord (fun i => match i with | .loopr .. | .setib .. => true | _ => false)
  let at0 := (o.places none 0).filter (fun q => !o.overlay || decide ((o.segAt q).num = 0))
  let start := (at0 ++ o.places none wrap).map (fun q => HNode.mk q false none 0 none) ++
    (o.handlers.flatMap (o.places none)).map (fun q => HNode.mk q false none 0 (if moves then some 4194303 else none))
  reachFrom (o.succ wrap) 400000 start.eraseDups start.eraseDups
/-- The places that no path from an entry reaches. -/
def CodeObj.deadNodes (o : CodeObj) (wrap : Nat) (nodes : List HNode) : List HNode :=
  let start := (o.addrs.filter (fun q => !nodes.any (fun n => decide (n.pc = q)))).map (fun q => HNode.mk q false none 0 none)
  reachFrom (fun n => (o.succ wrap n).filter (fun m => !nodes.any (fun x => decide (x.pc = m.pc)))) 400000 start start

/-! The checks. -/

/-- LIVE names a defined list, and no list's ranges, with those that hxld adds, pass 192 tiles (04 R76, 08 R176). -/
def CodeObj.livesOk (o : CodeObj) : Bool :=
  o.addrs.all (fun a => !hdrSafe (o.head a) || (o.live (hdrLive (o.head a))).isSome) &&
    o.lives.all (fun e => decide (((e.2.ranges ++ o.added 0).map (·.2)).sum ≤ 192))
/-- Branch targets lie inside the text, which of an overlay object is the whole address space (04 R79, 21 R345). -/
def CodeObj.targetsOk (o : CodeObj) : Bool :=
  o.addrs.all (fun a => (o.words a).all (fun w => match dispOf w.2.2 with
    | some d => o.overlay || decide (target a d < textLen o)
    | none => true))
/-- The shapes that MREP forbids (13 R255). -/
def CodeObj.mrepOk (o : CodeObj) (n : HNode) : Bool :=
  (o.words n.pc).all (fun w => match w.2.2 with
    | .mrep .. => hdrSafe (o.head n.pc) && decide (w.1 = 0) && n.body.isNone
    | i => decide (w.2.1 ≠ 0) || n.body.isNone || anyC i) &&
  (match n.body with
    | some b => !hdrSafe (o.head n.pc) && !hdrSeg (o.head n.pc) && decide ((n.pc % 4096 + 4096 - b) % 4096 < 16)
    | none => true)
/-- A round of the longest paths: each place's own count, and beyond it where no safe point ends the path. -/
def pathRound (edges : List (Nat × List Nat)) (v : List Nat) : List Nat :=
  edges.map (fun e => e.1 + (e.2.map (lget 0 v)).foldl max 0)
/-- Whether no path passes a limit, by paths of up to so many places. -/
def pathsWithin (lim : Nat) (edges : List (Nat × List Nat)) : Nat → List Nat → Bool
  | 0, v => v.all (fun x => decide (x ≤ lim))
  | k + 1, v =>
    let w := pathRound edges v
    if w.any (fun x => decide (lim < x)) then false else if w = v then true else pathsWithin lim edges k w
/-- The edges between places that no safe point ends, each place with a count of its own. -/
def CodeObj.edges (o : CodeObj) (wrap : Nat) (cost : Nat → Nat) (nodes : List HNode) : List (Nat × List Nat) :=
  nodes.map (fun n => (cost n.pc,
    if (o.stopAt n).isSome then [] else ((o.succ wrap n).map (fun m => nodes.idxOf m)).filter (· < nodes.length)))
/-- The distance rule (08 R177): a path is a chain of places that no safe point but its last ends; a cycle without a safe
point has paths of every length, and of the places that no entry reaches there may be none either. -/
def CodeObj.distanceOk (o : CodeObj) (wrap : Nat) (nodes : List HNode) : Bool :=
  let dead := o.deadNodes wrap nodes
  pathsWithin 1024 (o.edges wrap o.cost nodes) 1025 (nodes.map (fun _ => 0)) &&
    pathsWithin dead.length (o.edges wrap (fun _ => 1) dead) (dead.length + 1) (dead.map (fun _ => 0))
/-- The places at a distance below a limit from a frontier of places with their distances. -/
def placesWithin (f : HNode → List HNode) (cost : Nat → Nat) (lim : Nat) : Nat → List (Nat × HNode) → List (Nat × HNode)
  | 0, _ => []
  | k + 1, fr =>
    let new := ((fr.flatMap (fun x => (f x.2).map (fun m => (x.1 + cost x.2.pc, m)))).filter
      (fun x => decide (x.1 < lim))).eraseDups
    if new.isEmpty then [] else new ++ placesWithin f cost lim k new
/-- Column, file and number of a register that a word of a column names at a place. Where the bases are unknown a rotating name
keeps files of its own (16 up, apart for every number of HNode), counted from those bases. -/
def hplace (n : HNode) (col : Nat) (u : Use) : Option (Nat × Nat × Nat) :=
  let b : ColBank := { ColBank.zero with ibi := n.rot % 24, ibv := n.rot % 16, ibp := n.rot % 8 }
  let r := u.at { Task.zero with banks := Vector.replicate 4 b } col
  match u with
  | .vOf _ => none
  | _ =>
    if (decide (r.2.1 = 0) && decide (56 ≤ r.2.2)) || ((decide (r.2.1 = 2) || decide (r.2.1 = 3)) && decide (r.2.2 = 0)) then none
    else match u.rotates, n.base with
      | true, some k => some (r.1, 16 + r.2.1 + 32 * k, r.2.2)
      | _, _ => some r
/-- A live list names a register (08 Table 08.5), one of unknown number where it names its whole rotating region. -/
def LiveList.names (l : LiveList) (r : Nat × Nat × Nat) : Bool :=
  let w := lget (0, 0, 0) l.cols r.1
  let on (x : Word) (k : Nat) : Bool := x.getLsbD k
  match (if r.2.1 < 16 then r.2.1 else 16 + r.2.1 % 16) with
  | 0 => on w.1 r.2.2
  | 1 => on w.2.1 r.2.2
  | 2 => on w.2.1 (32 + r.2.2)
  | 3 => on w.2.1 (48 + r.2.2)
  | 4 => on w.2.2 r.2.2
  | 5 => on w.2.2 (16 + r.2.2)
  | 6 => on w.2.2 (24 + r.2.2)
  | 7 => if r.2.2 < 8 then on w.1 (56 + r.2.2) else if r.2.2 < 12 then on w.2.1 (56 + (r.2.2 - 8)) else on w.2.1 60
  | 16 => (List.range 24).all (fun k => on w.1 (32 + k))
  | 17 => (List.range 16).all (fun k => on w.2.1 (16 + k))
  | 18 => (List.range 8).all (fun k => on w.2.1 (40 + k))
  | _ => false
/-- No safe point lies in the window of an exposed write of a place to a register of its live list (03 R71): at a distance
below the latency, and, for a safe point in the write's own bundle, when the write lacks more than the next bundle. -/
def CodeObj.windowsOk (o : CodeObj) (wrap : Nat) (n : HNode) : Bool :=
  (o.words n.pc).all (fun w => (exposed w.2.2).all (fun e => match hplace n w.1 e.1 with
    | none => true
    | some r =>
      let hit (m : HNode) : Bool := match o.stopAt m with | some l => l.names r | none => false
      !(hit n && decide (o.cost n.pc < e.2)) &&
        (placesWithin (o.succ wrap) o.cost e.2 e.2 [(0, n)]).all (fun x => !hit x.2)))
/-- No word reads a register at a distance below the latency of an exposed write of a place to it (04 R90). -/
def CodeObj.readsOk (o : CodeObj) (wrap : Nat) (n : HNode) : Bool :=
  (o.words n.pc).all (fun w => (exposed w.2.2).all (fun e => match hplace n w.1 e.1 with
    | none => true
    | some r => (placesWithin (o.succ wrap) o.cost e.2 e.2 [(0, n)]).all (fun x =>
        !(o.words x.2.pc).any (fun v => (guardUse v.2.2 :: reads v.2.2).any (fun u => decide (hplace x.2 v.1 u = some r))))))
/-- hxld loads the object for a descriptor's wrap-up entry (04 R90); `hxldOk` is its verdict on what the object does not show:
values that only a run gives (log 53). -/
def CodeObj.loads (o : CodeObj) (wrap : Nat) : Bool :=
  let nodes := o.nodes wrap
  o.hxldOk && o.livesOk && o.targetsOk && nodes.all o.mrepOk && o.distanceOk wrap nodes && nodes.all (o.windowsOk wrap) &&
    (!o.interlock || nodes.all (o.readsOk wrap))

end Sys2Proof.Machine
end

