-- ==== Sys2Proof/Machine/FrontEnd.lean ====
section
/-!
DEFINITION. The command front end (24 R392 to R412): queues, doorbells and packets, launches (21 R338 to R341), token
buckets, queue reset and destruction, table updates, the loss of a pair or a worker.
-/
namespace Sys2Proof.Machine

/-! Sessions (25 R418). -/

/-- Bring-up has come so far that the package takes more than SPDM and recovery messages (26 R425). -/
def FwSt.brought (f : FwSt) : Bool := decide (f.phase ≠ .off) && decide (f.phase ≠ .recovery)
/-- A session is open and bound to a VF, or package-wide; before the package is READY no message of a VF is accepted. -/
def State.authorised (s : State) (sess vf : Nat) : Bool :=
  s.fw.brought && s.fw.sess.any (fun x => decide (x.num = sess) && (decide (x.bind = none) || decide (x.bind = some vf)))
/-- A package-wide session. -/
def State.packageWide (s : State) (sess : Nat) : Bool :=
  s.fw.brought && s.fw.sess.any (fun x => decide (x.num = sess) && decide (x.bind = none))

/-! Queues (24 R396 to R398). -/

/-- The fields of a queue control block (24 Table 24.1). -/
structure Qcb where
  en    : Bool
  ring  : Nat
  log2n : Nat
  read  : Nat
  write : Nat
  st    : Nat
  err   : Nat
  deriving DecidableEq, Repr
/-- The address of a queue's control block in its VF's memory. -/
def State.qcbAt (s : State) (vf q : Nat) : Nat := (s.vf vf).qcbBase + 64 * q
/-- Doubleword k of some bytes. -/
def dword (bs : List Byte) (k : Nat) : Nat := ofBytes ((bs.drop (8 * k)).take 8)
/-- Read a queue control block; none when translation refuses it. -/
def State.qcb (s : State) (vf q : Nat) : Option Qcb :=
  (s.vfRead vf (s.qcbAt vf q) 64).map (fun bs =>
    ⟨decide (bits (dword bs 0) 63 63 = 1), bits (dword bs 0) 43 0, bits (dword bs 0) 47 44, bits (dword bs 1) 31 0,
     bits (dword bs 2) 31 0, bits (dword bs 3) 10 8, bits (dword bs 3) 7 0⟩)
/-- Write doubleword k of a queue control block. -/
def State.putQcb (s : State) (vf q k x : Nat) : State := (s.vfWrite vf (s.qcbAt vf q + 8 * k) (bytesOf 8 x)).getD s
/-- The hardware side of a queue. -/
def State.queue (s : State) (vf q : Nat) : QueueSt := fget QueueSt.zero s.queues (vf * 64 + q)
/-- Replace it. -/
def State.setQueue (s : State) (vf q : Nat) (x : QueueSt) : State :=
  { s with queues := fset QueueSt.zero s.queues (vf * 64 + q) x }
/-- The queues of a VF that the hardware knows. -/
def State.queuesOf (s : State) (vf : Nat) : List Nat := ((s.queues.map (·.1)).filter (fun n => decide (n / 64 = vf))).map (· % 64)
/-- The package's front end works: die 0's pair runs (24 R394). -/
def State.feUp (s : State) : Bool := decide (s.fw.phase = .ready) && !s.fw.down.elem 0
/-- A die parses packets: its pair runs and a worker is left (24 R394). -/
def State.dieParses (s : State) (die : Nat) : Bool :=
  s.feUp && !s.fw.down.elem die && (List.range 4).any (fun w => !s.fw.lostW.elem (die, w))
/-- Queues that hold a slot. -/
def State.slotsUsed (s : State) : Nat := (s.queues.filter (fun e => e.2.mapped)).length
/-- The slots that queues of a partition hold, and those reserved for it (25 Table 25.1). -/
def State.slotsOf (s : State) (part : Nat) : Nat :=
  (s.queues.filter (fun e => e.2.mapped && decide ((s.vf (e.1 / 64)).part = part))).length
def PMap.share (p : PMap) (part : Nat) : Nat := ((p.slots.filter (fun e => decide (e.1 = part))).map (·.2)).sum
/-- A slot is free for a partition: one of its reserved ones, or one that no other partition's reserve needs. -/
def State.slotFor (s : State) (part : Nat) : Bool :=
  decide (s.slotsUsed < 256) && (decide (s.slotsOf part < s.pmap.share part) ||
    decide (s.slotsUsed + ((dies.filter (· ≠ part)).map (fun p => s.pmap.share p - s.slotsOf p)).sum < 256))
/-- A front-end message is written into the mailbox of the receiving die, where its bytes are free, and wakes that die's pair
(24 R393). It applies at the die's next scheduling point, those of a sender in the order sent. -/
def State.feSend (s : State) (m : FeMsg) : State :=
  let bs := (List.range 8).map (Config.freeByte s.choice)
  let s : State := { s with choice := s.choice + 1, mail := s.mail ++ [m] }
  let s := if s.fw.mbox.2 = 0 then s else s.dmWrite m.die (dmNo m.die (s.fw.mbox.1 * 32768 + 8 * m.src)) bs
  (s.wakeFront m.die).schedule m.die
/-- Map waiting queues into free slots, in the order in which their doorbells arrived (24 R398); the pair of a queue's home die is
told (R392). -/
def State.mapNext (s : State) : Nat → State
  | 0 => s
  | n + 1 =>
    if !s.feUp then s
    else
      let cand := s.queues.filter (fun e => e.2.want && !(s.vf (e.1 / 64)).dry && s.slotFor (s.vf (e.1 / 64)).part)
      match cand.foldl (fun (a : Option (Nat × QueueSt)) e => match a with
          | none => some e
          | some b => if e.2.bell < b.2.bell then some e else some b) none with
      | none => s
      | some e =>
        let s := (s.setQueue (e.1 / 64) (e.1 % 64) { e.2 with want := false, mapped := true, since := s.now }).putQcb
          (e.1 / 64) (e.1 % 64) 3 256
        let home := s.qcbDie (e.1 / 64) (e.1 % 64)
        (if home = 0 then s.parseSoon (e.1 / 64) (e.1 % 64) else s.feSend ⟨0, home, .slot (e.1 / 64) (e.1 % 64)⟩).mapNext n
/-- The leader takes a queue's wish for a slot. -/
def State.giveSlot (s : State) (vf q : Nat) : State :=
  let x := s.queue vf q
  if x.mapped || x.want then s else (s.setQueue vf q { x with want := true }).mapNext (s.queues.length + 2)
/-- A queue asks for a slot, in the place of its doorbell: the pair of its home die asks the leader (24 R392, R398). -/
def State.wantSlot (s : State) (vf q : Nat) : State :=
  let x := s.queue vf q
  if x.mapped || x.want || s.mail.any (fun m => decide (m.what = .askSlot vf q)) then s
  else
    let (n, s) := s.fresh
    let s := s.setQueue vf q { x with bell := n }
    let home := s.qcbDie vf q
    if home = 0 then s.giveSlot vf q else s.feSend ⟨home, 0, .askSlot vf q⟩
/-- A queue leaves its slot; it waits for another one, in the place of its doorbell, when it has something to do. -/
def State.unmap (s : State) (vf q : Nat) (again : Bool) : State :=
  let x := s.queue vf q
  if !x.mapped && !x.want then s
  else s.setQueue vf q { x with mapped := false, want := again }

/-! Packets (24 R399 to R401). -/

/-- The doublewords of packet n of a queue's ring; none when translation refuses the read. -/
def State.packet (s : State) (vf : Nat) (c : Qcb) (n : Nat) : Option (List Nat) :=
  (s.vfRead vf (c.ring + 64 * (n % 2 ^ c.log2n)) 64).map (fun bs => (List.range 8).map (dword bs))
/-- A signal reference with reserved bits 0, and in DM where it is REMOTE (24 Table 24.3). -/
def refOk (ref : Nat) : Bool :=
  decide (bits ref 50 44 = 0) && decide (ref % 8 = 0) && (decide (bits ref 51 51 = 0) || decide (bits ref 39 39 = 1))
/-- The signal that a packet completes with: SIGNAL, or that of a LAUNCH's descriptor when it can be read (24 R404). -/
def State.packetSignal (s : State) (vf : Nat) (p : List Nat) : Nat :=
  if lget 0 p 0 % 256 = 1 then ((s.vfNum vf (bits (lget 0 p 2) 43 0 + 48) 8).map (fun x => bits x 43 0)).getD 0
  else if refOk (lget 0 p 1) then lget 0 p 1 else 0
/-- The first and the last byte of a range pass the comparator on one die (11 R213). -/
def State.rangeOk (s : State) (vf a n : Nat) : Bool :=
  match s.segment vf a, s.segment vf (a + n - 1) with
  | some x, some y => decide (x.1 = y.1)
  | _, _ => false
/-- A packet that is refused for its own fields and addresses (24 R401). -/
def State.packetBad (s : State) (vf : Nat) (p : List Nat) : Bool :=
  let w (k : Nat) : Nat := lget 0 p k
  let zero (l : List Nat) : Bool := l.all (fun k => decide (w k = 0))
  let va (k m : Nat) : Bool := decide (bits (w k) 63 44 = 0) && decide (w k % m = 0)
  !(decide (bits (w 0) 63 9 = 0) && (match w 0 % 256 with
    | 0 => refOk (w 1) && zero [2, 3, 4, 5, 6, 7]
    | 1 => zero [1, 3, 4, 5, 6, 7] && va 2 128
    | 2 => (List.range 6).all (fun k => refOk (w (k + 1))) && zero [7]
    | 3 => refOk (w 1) && refOk (w 2) && zero [4, 5, 6, 7]
    | 4 => refOk (w 1) && zero [5, 6, 7] && va 2 1 && va 3 1 && decide (0 < w 4) && decide (w 4 % 64 = 0) &&
        decide (w 4 < 4294967296) && s.rangeOk vf (w 2) (w 4) && s.rangeOk vf (w 3) (w 4)
    | 5 => refOk (w 1) && zero [5, 6, 7] && va 2 1 && va 3 16 && decide (1 ≤ w 4) && decide (w 4 ≤ 64) &&
        s.rangeOk vf (w 2) 1 && s.rangeOk vf (w 3) (16 * w 4)
    | _ => false))
/-- A packet that does not complete normally. -/
def State.packetEnd (s : State) (vf : Nat) (p : List Nat) (v : Int) : State := s.sigEnd vf (s.packetSignal vf p) v
/-- A queue enters ERROR (24 R404): its slot is free, and each packet behind the cause completes with −1. -/
def State.queueError (s : State) (vf q code : Nat) : State :=
  match s.qcb vf q with
  | none => s
  | some c =>
    if c.st = 3 then s
    else
      let n := if c.st = 2 then 0 else min ((c.write + 4294967296 - c.read) % 4294967296) (2 ^ c.log2n)
      let s := (List.range n).foldl (fun s k =>
        match s.packet vf c ((c.read + k) % 4294967296) with
        | some p => s.packetEnd vf p (-1)
        | none => s) s
      let s := (s.unmap vf q false).putQcb vf q 3 (512 + code)
      s.mapNext (s.queues.length + 1)
/-- The queue whose next packet may start now, but for BARRIER. -/
def State.startable (s : State) (vf q : Nat) : Option Qcb :=
  match s.qcb vf q with
  | none => none
  | some c =>
    let x := s.queue vf q
    let v := s.vf vf
    if v.valid && decide (v.iface ≠ .error) && !v.dry && !s.leaving vf && c.en && decide (4 ≤ c.log2n) && x.mapped &&
        decide (c.st = 1) && decide (c.read ≠ c.write) && decide (x.run.length < 16) && s.dieParses (bits c.ring 43 40) &&
        !s.mail.any (fun m => decide (m.what = .slot vf q)) then some c
    else none
/-- The next packet of a queue, and whether it may start (24 R401). -/
inductive Head where
  | held
  | fault
  | packet (c : Qcb) (p : List Nat)
  deriving DecidableEq, Repr
/-- What the parser finds at the head of a queue. -/
def State.head (s : State) (vf q : Nat) : Head :=
  match s.startable vf q with
  | none => .held
  | some c =>
    match s.packet vf c c.read with
    | none => .fault
    | some p => if bits (lget 0 p 0) 8 8 = 1 ∧ (s.queue vf q).run ≠ [] then .held else .packet c p
/-- A refused packet: its signal receives −1, and the queue enters ERROR with ERR 1 (24 R401). -/
def State.refuse (s : State) (vf q : Nat) (p : List Nat) : State := (s.packetEnd vf p (-1)).queueError vf q 1
/-- The next packet of a queue starts when its type is the event's: READ advances, it is refused or runs. -/
def State.startPacket (s : State) (vf q : Nat) (mine : Nat → Bool) (run : List Nat → Nat → State → State) : State :=
  match s.head vf q with
  | .held => s
  | .fault => if mine 0 then s.queueError vf q 3 else s
  | .packet c p =>
    if !mine (lget 0 p 0 % 256) then s
    else
      let s := (s.putQcb vf q 1 ((c.read + 1) % 4294967296)).setQueue vf q { s.queue vf q with since := s.now }
      (if s.packetBad vf p then s.refuse vf q p else run p c.read s).parseSoon vf q
/-- A started packet joins its queue's list. -/
def State.addPkt (s : State) (vf q : Nat) (k : Pkt) : State :=
  s.setQueue vf q { s.queue vf q with run := (s.queue vf q).run ++ [k] }
/-- A started packet completes with a signal value. -/
def State.endPkt (s : State) (vf q : Nat) (k : Pkt) (v : Int) : State :=
  let x := s.queue vf q
  let s := s.setQueue vf q { x with run := x.run.erase k, since := s.now }
  (s.sigEnd vf k.sig v (queueEdge vf q, k.n * 8 + 6)).parseSoon vf q
/-- NOP_PACKET: a NOP, or a packet of a reserved type, starts. -/
def nopPacket (vf q : Nat) (s : State) : State :=
  s.startPacket vf q (fun t => decide (t = 0) || decide (5 < t)) (fun p _ s => s.sigEnd vf (lget 0 p 1) 0)

/-! BARRIER_AND (24 R403). -/

/-- The value of a signal that an evaluation sees: DM now, HBM and another package's DM as last read. -/
def State.sigSeen (s : State) (vf : Nat) (e : Nat × Nat) : Option Int :=
  if e.1 = 0 then some 0
  else match s.sigAt e.1 with
    | .hbm _ | .far .. => some (sext 64 e.2)
    | _ => s.sigRead vf e.1
/-- References with the values last read, HBM read again; a value of another package stays until a reply brings the next. -/
def State.sigRefresh (s : State) (vf : Nat) (refs old : List Nat) : List Nat :=
  (List.zip refs old).map (fun e => match s.sigAt e.1 with
    | .far .. => e.2
    | _ => ((s.sigRead vf e.1).map (fun v => (wordOf v).toNat)).getD 1)
/-- A waiting BARRIER_AND reads its signals in other packages by remote gets, one at a time each: at its start and at every
front-end tick (24 R403; DESIGN CHOICE, log 36). -/
def State.askFar (s : State) (vf q : Nat) (k : Pkt) : State :=
  (List.zip (List.range 5) k.ops).foldl (fun s e => match s.sigAt e.2 with
    | .far p d o =>
      if (s.fab.out ++ s.fab.pend).any (fun x => decide (x.task = queueEdge vf q) && decide (x.id = k.n * 8 + e.1)) then s
      else
        let a : Word := BitVec.ofNat 64 (p % 16 * 2 ^ 60 + p / 16 % 16 * 2 ^ 56 + p / 256 * 2 ^ 52 + d * 2 ^ 48 + o)
        s.inject (Remote.mk' p ⟨0, 0, 0, false, vf, .get, a, 8, 0, 0, 0, [], none, false⟩ (queueEdge vf q) 0 0 (k.n * 8 + e.1) 0 true)
    | _ => s) s
/-- The bank monitors of a queue's waiting BARRIER_ANDs: clasp entries with the queue as their waiter. A signal for which the
clasp table of its die has no room is read at the front-end ticks alone (DESIGN CHOICE, log 32). -/
def State.rewatch (s : State) (vf q : Nat) : State :=
  let s := (s.dropEdges (fun e => decide (e.task = queueEdge vf q))).disarm (queueEdge vf q)
  let refs := ((s.queue vf q).run.filter (fun k => decide (k.ty = 2))).flatMap (fun k => k.ops.take 5)
  refs.foldl (fun s r => match s.sigAt r with
    | .dm d o =>
      let l := s.claspOf d
      let obj := objWord 1 d o
      let there (k : ClaspSort) : Bool := l.any (fun e => decide (e.sort = k) && decide (e.obj = obj) && decide (e.vf = vf) &&
        (decide (k = .obj) || decide (e.task = queueEdge vf q)))
      let more := if there .obj then 1 else 2
      if there .wait then s
      else if 1024 < l.length + more then { s with claspFull := fset 0 s.claspFull d (fget 0 s.claspFull d + 1) }
      else (s.setClasp d (l ++ (if there .obj then [] else [⟨.obj, obj, vf, 0⟩]) ++ [⟨.wait, obj, vf, queueEdge vf q⟩])).arm
        (queueEdge vf q) d (s.dmAt vf d o)
    | _ => s) s
/-- Evaluate a waiting BARRIER_AND; with `fresh`, its HBM signals are read again. -/
def State.evalAnd (s : State) (vf q : Nat) (fresh : Bool) (k : Pkt) : State :=
  let refs := k.ops.take 5
  let vals := if fresh then s.sigRefresh vf refs (k.ops.drop 5) else k.ops.drop 5
  let seen := (List.zip refs vals).map (s.sigSeen vf)
  if seen.any (fun v => match v with | some x => decide (x < 0) | none => false) then
    ((s.endPkt vf q k (-1)).rewatch vf q).queueError vf q 2
  else if seen.all (fun v => decide (v = some 0)) then (s.endPkt vf q k 0).rewatch vf q
  else
    let x := s.queue vf q
    s.setQueue vf q { x with run := x.run.map (fun y => if y = k then { k with ops := refs ++ vals } else y) }
/-- BARRIER_AND_EVALUATION: every waiting BARRIER_AND of a queue. -/
def barrierAndEvaluation (vf q : Nat) (fresh : Bool) (s : State) : State :=
  if s.copied vf then s else
  let s := ((s.queue vf q).run.filter (fun k => decide (k.ty = 2))).foldl (fun s k => s.evalAnd vf q fresh k) s
  if fresh then ((s.queue vf q).run.filter (fun k => decide (k.ty = 2))).foldl (fun s k => s.askFar vf q k) s else s
/-- BARRIER_AND: it starts, watches its signals and evaluates them. -/
def barrierAnd (vf q : Nat) (s : State) : State :=
  s.startPacket vf q (fun t => decide (t = 2)) (fun p n s =>
    let refs := (p.drop 2).take 5
    let k : Pkt := ⟨n, 2, lget 0 p 1, refs ++ s.sigRefresh vf refs (refs.map (fun _ => 1)), 0, 0⟩
    (((s.addPkt vf q k).rewatch vf q).askFar vf q k).evalAnd vf q false k)

/-! SIGNAL, COPY, SEGTAB. -/

/-- SIGNAL: the value is written unconditionally (24 R402); on another package the packet waits for the reply. -/
def signalPacket (vf q : Nat) (s : State) : State :=
  let s := ((s.queue vf q).run.filter (fun k => decide (k.ty = 3) &&
      !(s.fab.out ++ s.fab.pend).any (fun o => decide (o.task = queueEdge vf q) && decide (o.id = k.n * 8 + 7)))).foldl (fun s k => s.endPkt vf q k 0) s
  let s := s.startPacket vf q (fun t => decide (t = 3)) (fun p n s =>
    let far := match s.sigAt (lget 0 p 2) with | .far .. => true | _ => false
    let s := s.sigStore vf (lget 0 p 2) (sext 64 (lget 0 p 3)) .swp (queueEdge vf q, n * 8 + 7)
    if far then s.addPkt vf q ⟨n, 3, lget 0 p 1, [], 0, 0⟩ else s.sigEnd vf (lget 0 p 1) 0)
  if (s.queue vf q).run.any (fun k => decide (k.ty = 3)) then s.soon (.signal vf q) else s
/-- A COPY in progress moves its next 64 bytes. -/
def State.copyStep (s : State) (vf q : Nat) (k : Pkt) : State :=
  let (src, dst, len) := (lget 0 k.ops 0, lget 0 k.ops 1, lget 0 k.ops 2)
  let s := match s.vfRead vf (src + k.done) 64 with
    | some bs => (s.vfWrite vf (dst + k.done) bs).getD s
    | none => s
  let k' : Pkt := { k with done := k.done + 64 }
  if len ≤ k'.done then s.endPkt vf q k 0
  else
    let x := s.queue vf q
    s.setQueue vf q { x with run := x.run.map (fun y => if y = k then k' else y) }
/-- COPY: one starts, and those in progress move on. -/
def copyPacket (vf q : Nat) (s : State) : State :=
  let s := ((s.queue vf q).run.filter (fun k => decide (k.ty = 4))).foldl (fun s k => s.copyStep vf q k) s
  let s := s.startPacket vf q (fun t => decide (t = 4)) (fun p n s =>
    s.addPkt vf q ⟨n, 4, lget 0 p 1, [lget 0 p 2, lget 0 p 3, lget 0 p 4], 0, 0⟩)
  if (s.queue vf q).run.any (fun k => decide (k.ty = 4)) then s.soon (.copy vf q) else s
/-- SEGTAB: the table is installed for later launches of its code object (24 R407). -/
def segtab (vf q : Nat) (s : State) : State :=
  s.startPacket vf q (fun t => decide (t = 5)) (fun p _ s =>
    let code := lget 0 p 2
    let s : State := match s.vfRead vf (lget 0 p 3) (16 * lget 0 p 4) with
      | some bs =>
        let tab : SegTab := ⟨vf, code, (List.range (lget 0 p 4)).map (fun k => (dword bs (2 * k), dword bs (2 * k + 1)))⟩
        { s with segs := s.segs.filter (fun x => !(decide (x.vf = vf) && decide (x.code = code))) ++ [tab] }
      | none => s
    s.sigEnd vf (lget 0 p 1) 0)

/-! LAUNCH (21 R338 to R341, R343). -/

/-- A descriptor that R339 lets pass, by its doublewords. -/
def State.launchOk (s : State) (vf : Nat) (d : List Nat) (o : CodeObj) : Bool :=
  let w (k : Nat) : Nat := lget 0 d k
  let width := widthCols (bits (w 2) 63 61)
  let tiles := bits (w 2) 44 34
  let ds := (List.range 12).filter (fun k => decide (bits (w 2) 57 46 / 2 ^ k % 2 = 1))
  decide (bits (w 0) 63 44 = 0) && decide (w 0 % 64 = 0) && decide (bits (w 1) 63 48 = 0) && decide (bits (w 2) 60 60 = 0) &&
    decide (bits (w 2) 33 28 = 0) && decide (bits (w 4) 35 0 = 0) && decide (bits (w 5) 63 48 = 0) &&
    decide (bits (w 6) 63 44 = 0) && decide (w 6 % 8 = 0) && decide (bits (w 7) 63 44 = 0) && decide (w 7 % 8 = 0) &&
    decide (bits (w 9) 63 33 = 0) && (List.range 6).all (fun k => decide (w (10 + k) = 0)) &&
    [1, 2, 4].elem (bits (w 2) 63 61) && decide (1 ≤ tiles) && decide (tiles ≤ 1024) && !ds.isEmpty &&
    ds.all (fun k => !(s.unitsOf k width (s.vf vf).part).isEmpty && decide (bits (w 2) 27 0 ≤ vget 0 (s.vf vf).dmSize k)) &&
    (List.range 8).all (fun n => fmtCodeOk (bits (w 9) (4 * n + 3) (4 * n))) &&
    decide (bits (w 4) 47 36 < (if o.overlay then 4096 else textLen o)) && decide (o.width = width) && o.loads (bits (w 4) 47 36)
/-- The next launch number: in turn, skipping those of launches that have not ended and those given and not yet used (22 R361). -/
def State.nextLnum (s : State) : Option Nat :=
  let held := ((fvals s.launches).filter (·.live)).map (·.lnum) ++ s.fw.grants.map (·.2)
  ((List.range 4095).map (fun k => (s.fw.lnum + k) % 4095 + 1)).find? (fun n => !held.elem n)
/-- Replace n bits at a bit of a byte range of HBM. -/
def State.putHbmBits (s : State) (key a bit n x : Nat) : State :=
  let a := a + bit / 8
  let lo := bit % 8
  let len := (lo + n + 7) / 8
  let old := ofBytes (s.hbmBytes key a len)
  s.setHbmBytes key a (bytesOf len (old - bits old (lo + n - 1) lo * 2 ^ lo + x % 2 ^ n * 2 ^ lo))
/-- Write element n of a tensor's initial contents, in row-major order, through its tile table (21 R343). -/
def State.putElem (s : State) (vf tid : Nat) (d : DescE) (n x : Nat) : State :=
  let c (k : Nat) : Nat := match k with
    | 0 => n / (d.ext 1 * d.ext 2 * d.ext 3)
    | 1 => n / (d.ext 2 * d.ext 3) % d.ext 1
    | 2 => n / d.ext 3 % d.ext 2
    | _ => n % d.ext 3
  let tile := d.tileNo c
  match s.vfNum vf (d.base + 8 * tile) 8 with
  | none => s
  | some e =>
    if !tePresent e then s
    else match s.segment vf (teAddr d e 0) with
      | none => s
      | some (hd, pa) =>
        (s.dirty (portOf hd tile) vf tid tile d e).putHbmBits (s.keyNo vf) (hbmNo hd pa) (elemBitAt d.fmt (d.elemNo c)) (elemBits d.fmt) x
/-- The `.data` contents of a launch's DM regions and tensors are written once (21 R343). -/
def State.launchData (s : State) (vf : Nat) (ds : List Nat) (o : CodeObj) : State :=
  let s := ds.foldl (fun s d => o.dmData.foldl (fun s e =>
    if e.1 + e.2.length ≤ vget 0 (s.vf vf).dmSize d ∧ e.2 ≠ [] then s.dmWrite d (s.dmAt vf d e.1) e.2 else s) s) s
  o.tnData.foldl (fun s e => match s.readDesc vf e.1 with
    | .ok d =>
      let w := elemBits d.fmt
      let x := ofBytes e.2
      (List.range (d.ext 0 * d.ext 1 * d.ext 2 * d.ext 3)).foldl (fun s n => s.putElem vf e.1 d n (x / 2 ^ (w * n) % 2 ^ w)) s
    | _ => s) s
/-- A launch's task n before its placement (21 R341). -/
def newTask (key vf launch n : Nat) (l : Launch) : Task :=
  let (x, y) := (l.xm + 1, l.ym + 1)
  let die := lget 0 l.dies (n % l.dies.length)
  { Task.zero with
    key := key, vf := vf, die := die, launch := launch, idx := n,
    coord := BitVec.ofNat 64 (n % x + n / x % y * 65536 + n / (x * y) * 4294967296),
    width := l.width, cls := l.cls, taskId := BitVec.ofNat 64 (l.lnum * 4503599627370496 + die * 281474976710656 + n) }
/-- An accepted launch: its number, its times, its map cleared, its data written, its tasks PENDING. -/
def State.acceptLaunch (s : State) (vf q n : Nat) (d : List Nat) (o : CodeObj) (lnum : Nat) : State :=
  let w (k : Nat) : Nat := lget 0 d k
  let code := bits (w 0) 43 0
  let home := s.qcbDie vf q
  let (key, s) := s.fresh
  let (xm, ym, zm) := (bits (w 1) 15 0, bits (w 1) 31 16, bits (w 1) 47 32)
  let count := (xm + 1) * (ym + 1) * (zm + 1)
  let l : Launch :=
    { live := true, vf := vf, queue := q, packet := n, code := code, obj := o,
      segs := ((s.segs.find? (fun x => decide (x.vf = vf) && decide (x.code = code))).map (·.ents)).getD [],
      width := widthCols (bits (w 2) 63 61), xm := xm, ym := ym, zm := zm,
      dies := (List.range 12).filter (fun k => decide (bits (w 2) 57 46 / 2 ^ k % 2 = 1)), cls := bits (w 2) 59 58,
      arg := if bits (w 2) 45 45 = 1 then some (BitVec.ofNat 64 (w 8)) else none, lsTiles := bits (w 2) 44 34,
      deadline := if w 3 = 0 then none else some (s.now + w 3), budget := bits (w 4) 63 48, wrapPc := bits (w 4) 47 36,
      estimate := bits (w 5) 47 0, signal := bits (w 6) 43 0, vmap := bits (w 7) 43 0,
      fmt := if bits (w 9) 32 32 = 1 then some (BitVec.ofNat 32 (w 9)) else none, tacc := s.now, lnum := lnum,
      left := List.range count, killed := false, destroyed := false, expired := false }
  let s : State := { s with launches := fins s.launches key l, fw := { s.fw with
    lnum := if home = 0 then lnum else s.fw.lnum, grants := s.fw.grants.filter (fun e => decide (e.1 ≠ vf * 64 + q)) } }
  let s := (List.range ((count + 31) / 32)).foldl (fun s k => (s.vfWrite vf (l.vmap + 8 * k) (bytesOf 8 0)).getD s) s
  let s := s.launchData vf l.dies o
  let s := (List.range count).foldl (fun s k =>
    let (t, s) := s.fresh
    { s with bg := fins s.bg t (newTask t vf key k l) }) s
  let s := l.dies.foldl (fun s d => if d = home then s.schedule d else s.feSend ⟨home, d, .record key⟩) s
  s.addPkt vf q ⟨n, 1, 0, [], key, 0⟩
/-- The launch number of a queue's next launch, if there is one: die 0's pair gives it in turn, to another die by a message
(24 R392). -/
def State.lnumFor (s : State) (vf q : Nat) : Option Nat :=
  if s.qcbDie vf q = 0 then s.nextLnum
  else match s.fw.grants.find? (fun e => decide (e.1 = vf * 64 + q)) with
    | some e => if s.mail.any (fun m => decide (m.what = .lnum vf q e.2)) then none else some e.2
    | none => none
/-- A queue of another die than the leader's asks for a launch number, once. -/
def State.askLnum (s : State) (vf q : Nat) : State :=
  if s.qcbDie vf q = 0 || s.fw.grants.any (fun e => decide (e.1 = vf * 64 + q)) ||
      s.mail.any (fun m => decide (m.what = .askLnum vf q)) then s
  else s.feSend ⟨s.qcbDie vf q, 0, .askLnum vf q⟩
/-- LAUNCH: the packet starts with the code object that hxld has read at its CODE address. It waits while 4,095 launches
have not ended, and for the leader's number. -/
def launchPacket (vf q : Nat) (o : CodeObj) (s : State) : State :=
  match s.head vf q, s.lnumFor vf q with
  | .packet _ p, none => if lget 0 p 0 % 256 = 1 then (s.askLnum vf q).soon (.launch vf q o) else s
  | .held, _ =>
    match s.qcb vf q with
    | some c => if c.en && decide (c.read ≠ c.write) && decide (c.st < 2) then s.soon (.launch vf q o) else s
    | none => s
  | _, lnum =>
    s.startPacket vf q (fun t => decide (t = 1)) (fun p n s =>
      match s.vfRead vf (bits (lget 0 p 2) 43 0) 128 with
      | none => s.refuse vf q p
      | some bs =>
        let d := (List.range 16).map (dword bs)
        if s.launchOk vf d o then s.acceptLaunch vf q n d o (lnum.getD 1) else s.refuse vf q p)

/-! Doorbells (24 R397) and slots (R398). -/

/-- FRONT_END_WAKE: a halted front-end task goes on; what an urgent stop had drained replays. -/
def frontEndWake (k : Nat) (s : State) : State :=
  let t := s.task k
  if t.stop ≠ .front then s
  else (if t.resident then s.mapTask k Task.resume else s.mapTask k (fun t => { t with stop := .run })).schedule t.die
/-- DOORBELL. -/
def doorbell (vf q : Nat) (w : Lane) (s : State) : State :=
  if s.fw.phase ≠ .ready ∨ (s.vf vf).iface = .error ∨ (s.vf vf).rst ≠ 0 then s
  else if s.fw.down.elem 0 then s.soon (.doorbell vf q w)
  else
    match s.qcb vf q with
    | none => s.tally 123 1
    | some c =>
      if !(s.vf vf).valid || decide (64 ≤ q) || !c.en || decide (c.log2n < 4) then s.tally 123 1
      else
        let s := s.wakeFront (bits c.ring 43 40)
        let d (a b : Nat) : Nat := (a + 4294967296 - b) % 4294967296
        if c.st = 3 ∨ 2147483648 ≤ d w.toNat c.write then s
        else if 2 ^ c.log2n < d w.toNat c.read then s.queueError vf q 3
        else
          let s := s.putQcb vf q 2 w.toNat
          if c.st = 2 then
            (List.range (d w.toNat c.write)).foldl (fun s k => match s.packet vf c ((c.write + k) % 4294967296) with
              | some p => s.packetEnd vf p (-1)
              | none => s) s
          else if w.toNat = c.read then s
          else (s.wantSlot vf q).parseSoon vf q
/-- QUEUE_IDLE_UNMAP: nothing to parse and nothing in progress for 10 µs. -/
def queueIdleUnmap (vf q : Nat) (s : State) : State :=
  let x := s.queue vf q
  match s.qcb vf q with
  | some c =>
    if x.mapped && x.run.isEmpty && decide (c.read = c.write) && decide (x.since + 10000 ≤ s.now) then
      let s := (s.unmap vf q false).putQcb vf q 3 0
      s.mapNext (s.queues.length + 1)
    else s
  | none => s

/-! The end of queues (24 R404, R410). -/

/-- A resident task that issues nothing: it waits, or it is halted or parked. -/
def Task.idleNow (t : Task) : Bool := t.waiting || decide (t.stop ≠ .run)
/-- A launch is killed (21 R358): the kill is an urgent stop (08), but the started tasks of a destroyed queue stop at their
next safe point (24 R410), those that issue nothing at once; the others never start. -/
def State.killLaunch (s : State) (n : Nat) (destroyed : Bool) : State :=
  let l := fget Launch.zero s.launches n
  if !l.live then s
  else
    let mine := s.tasks.filter (fun t => decide (t.key ≠ 0) && decide (t.launch = n))
    let gone := (mine.filter (fun t => decide (t.state = .pending))).map (·.idx)
    let l : Launch := { l with destroyed := l.destroyed || destroyed, left := l.left.filter (fun i => !gone.elem i) }
    let s : State := { s with launches := fins s.launches n l }
    let s := mine.foldl (fun s t => match t.state with
      | .pending => s.neverStart t.key
      | .primary | .secondary => if !destroyed || t.idleNow then s.kill t.key else s.mapTask t.key (fun t => { t with doom := true })
      | .aside | .evicted => s.kill t.key
      | _ => s) s
    s.soon (.launchEnd n)
/-- A destroyed queue is released once every signal is written, those of other packages by an answered request: EN becomes 0
(24 R410). -/
def State.releaseQueue (s : State) (vf q : Nat) : State :=
  match s.qcb vf q with
  | some c =>
    if c.st = 3 ∧ c.en ∧ (s.queue vf q).run = [] ∧ !(s.fab.out ++ s.fab.pend).any (fun o => decide (o.task = queueEdge vf q)) then
      let s := match s.vfNum vf (s.qcbAt vf q) 8 with
        | some x => s.putQcb vf q 0 (x % 9223372036854775808)
        | none => s
      State.setQueue { s with fw := { s.fw with grants := s.fw.grants.filter (fun e => decide (e.1 ≠ vf * 64 + q)) } } vf q QueueSt.zero
    else s
  | none => s
/-- A queue is destroyed. -/
def State.destroyQueue (s : State) (vf q : Nat) : State :=
  match s.qcb vf q with
  | none => s
  | some c =>
    if !c.en || decide (c.st = 3) then s
    else
      let s := (s.putQcb vf q 3 (768 + c.err)).unmap vf q false
      let s := (s.queue vf q).run.foldl (fun s k =>
        if k.ty = 1 then s.killLaunch k.launch true else s.endPkt vf q k (-2)) s
      let s := (s.rewatch vf q).releaseQueue vf q
      s.mapNext (s.queues.length + 1)
/-- QUEUE_DESTROY. -/
def queueDestroy (vf q sess : Nat) (s : State) : State :=
  if !s.authorised sess vf then s.cfgStatus vf 0 5
  else if (s.vf vf).iface = .error then s
  else if s.fw.down.elem 0 then s.soon (.queueDestroy vf q sess)
  else s.destroyQueue vf q
/-- QUEUE_RESET: a queue in ERROR becomes IDLE, with READ := WRITE. -/
def queueReset (vf q sess : Nat) (s : State) : State :=
  if !s.authorised sess vf then s.cfgStatus vf 0 5
  else if (s.vf vf).iface = .error then s
  else if s.fw.down.elem 0 then s.soon (.queueReset vf q sess)
  else match s.qcb vf q with
    | some c =>
      if c.st = 2 then
        let s := (s.putQcb vf q 1 c.write).putQcb vf q 3 0
        if (s.queue vf q).run.isEmpty then s else s.wantSlot vf q
      else s
    | none => s

/-! Token buckets (24 R405, R406) and the tick (R395). -/

/-- What the resident tasks of a VF cost: 1, 2 or 4 for each unit that holds one. -/
def State.unitCost (s : State) (vf : Nat) : Nat :=
  (s.busyUnits.map (fun u => match ((s.unit u).residents.map s.task).find? (fun t => decide (t.vf = vf)) with
    | some t => t.width
    | none => 0)).sum
/-- Settle a VF's bucket for some ns. -/
def State.settleBucket (s : State) (vf dt : Nat) : State :=
  let v := s.vf vf
  if !v.valid then s
  else
    let top : Int := v.depth * 1000000
    let l : Int := max (-top) (min top (v.level + dt * v.rate - (dt * 1000 * s.unitCost vf : Nat)))
    let s := s.setVf vf { v with level := l }
    if l ≤ 0 && !v.dry then s.soon (.tokenBucketEmpty vf)
    else if v.dry && decide ((v.thresh * 1000000 : Int) ≤ l) then
      let s := s.setVf vf { v with level := l, dry := false }
      let s := dies.foldl (fun s d => s.schedule d) s
      s.mapNext (s.queues.length + 1)
    else s
/-- A die's residents of a VF whose bucket is empty are evicted at safe points, waiting ones set aside (24 R406). -/
def State.bucketStop (s : State) (vf die : Nat) : State :=
  if !(s.vf vf).dry then s
  else (s.tasks.filter (fun t => t.resident && decide (t.vf = vf) && decide (t.die = die))).foldl (fun s t =>
    if t.waiting then s.soon (.urgentStop t.key .setAside)
    else if t.evictable then s.mapTask t.key (fun t => { t with evict := true }) else s) s
/-- TOKEN_BUCKET_EMPTY, at the leader: queues leave their slots, and the dies with residents of the VF stop them. -/
def tokenBucketEmpty (vf : Nat) (s : State) : State :=
  let v := s.vf vf
  if v.level > 0 || v.dry then s
  else
    let s := s.setVf vf { v with dry := true }
    let s := (s.queuesOf vf).foldl (fun s q =>
      let x := s.queue vf q
      match s.qcb vf q with
      | some c => if x.mapped then (s.unmap vf q (decide (c.read ≠ c.write) || !x.run.isEmpty)).putQcb vf q 3 0 else s
      | none => s) s
    let s := (dies.filter (fun d => s.tasks.any (fun t => t.resident && decide (t.vf = vf) && decide (t.die = d)))).foldl
      (fun s d => if d = 0 then s.bucketStop vf d else s.feSend ⟨0, d, .bucket vf⟩) s
    s.mapNext (s.queues.length + 1)
/-- FRONT_END_TICK. -/
def frontEndTick (s : State) : State :=
  if !s.feUp then s
  else
    let dt := s.now - s.fw.tick
    let s : State := { s with fw := { s.fw with tick := s.now } }
    let s := (s.vfs.map (·.1)).foldl (fun s n => s.settleBucket n dt) s
    let s := (s.queues.map (·.1)).foldl (fun s n =>
      ((barrierAndEvaluation (n / 64) (n % 64) true s).releaseQueue (n / 64) (n % 64)).parseSoon (n / 64) (n % 64)) s
    let s := ((s.tasks.filter (fun t => t.doom && t.alive && (!t.resident || t.idleNow))).map Task.key).foldl (fun s k => s.kill k) s
    let s := if s.fw.locked ∧ s.fw.synced + 1000000000 ≤ s.now then s.soon .timeUnlocked else s
    dies.foldl (fun s d => (if s.mail.any (fun m => decide (m.die = d)) then s.schedule d else s).wakeFront d) s

/-! Messages between the pairs (24 R392, R393), and the scheduling point at which they apply. -/

/-- What a message makes its receiver do. -/
def State.apply (s : State) (m : FeMsg) : State :=
  match m.what with
  | .askLnum vf q => match s.nextLnum with
    | some n => State.feSend { s with fw := { s.fw with lnum := n, grants := s.fw.grants ++ [(vf * 64 + q, n)] } }
        ⟨0, m.src, .lnum vf q n⟩
    | none => { s with mail := s.mail ++ [m] }
  | .askSlot vf q => s.giveSlot vf q
  | .slot vf q => s.parseSoon vf q
  | .bucket vf => s.bucketStop vf m.die
  | .record _ | .lnum .. => s
/-- A die's mailbox is applied, message after message. -/
def State.applyMail (s : State) (die : Nat) : State :=
  (s.mail.filter (fun m => decide (m.die = die))).foldl State.apply { s with mail := s.mail.filter (fun m => decide (m.die ≠ die)) }
/-- A scheduling point of a die (21 R349): tasks whose last operations have performed end (21 R357), its mailbox is applied
(24 R393), then placements, replacements, roles. -/
def schedulingPoint (die : Nat) (s : State) : State :=
  let s := ((s.tasks.filter (fun t => t.exiting && decide (t.die = die))).map Task.key).foldl (fun s k => s.settle k) s
  if s.fw.down.elem die || s.fw.down.elem 0 || decide (s.fw.phase ≠ .ready) then s
  else
    let s := s.applyMail die
    let order := (s.tasks.filter (fun t => decide (t.die = die) && s.readyOut t)).foldl (fun l t => s.rankIn t l) []
    let s := order.foldl (fun s t => match s.tryPlace t.key with | some s => s | none => s) s
    let s := order.foldl (fun s t => if s.readyOut (s.task t.key) then s.replace t.key else s) s
    let us := (s.tasks.filter (fun t => decide (t.die = die) && decide (t.state = .secondary))).map (·.unit)
    let s := us.foldl (fun s u =>
      let x := s.unit u
      let (p, q) := (s.task x.prim, s.task x.sec)
      if (s.launchOf p).obj.interlock && (s.launchOf q).obj.interlock && s.ranks q p then s.setUnit u { x with swap := true } else s) s
    let ks := (s.tasks.filter (fun t => t.yielded && decide (t.die = die))).map Task.key
    ks.foldl (fun s k => s.mapTask k (fun t => { t with yielded := false })) s
/-! Host services (24 R409) and losses (R394). -/

/-- TABLE_UPDATE: the entry is written, the tile's cached entries are dropped, and the host is told. -/
def tableUpdate (vf tid tile : Nat) (entry : Word) (s : State) : State :=
  if s.fw.phase ≠ .ready ∨ (s.vf vf).iface = .error then s
  else if s.fw.down.elem 0 then s.soon (.tableUpdate vf tid tile entry)
  else match s.readDesc vf tid with
  | .ok d =>
    let s := (s.vfWrite vf (d.base + 8 * tile) (bytesOf 8 entry.toNat)).getD s
    (s.dropEntries vf tid 0 tile 1).send (.host vf 8 [tid, tile])
  | _ => s
/-- LOCKSTEP_MISMATCH: the pair stops, which is a fatal event. -/
def lockstepMismatch (die : Nat) (s : State) : State :=
  State.soon { s with fw := { s.fw with down := if s.fw.down.elem die then s.fw.down else s.fw.down ++ [die] } }
    (.fatalEvent die .lockstep)
/-- WORKER_FAILURE: the remaining workers of the die take its queues. -/
def workerFailure (die w : Nat) (s : State) : State :=
  { s with fw := { s.fw with lostW := if s.fw.lostW.elem (die, w) then s.fw.lostW else s.fw.lostW ++ [(die, w)] } }

/-! The steps. -/

def execSchedulingPoint (s : State) : R := match s.ev with | .schedulingPoint d => .next (schedulingPoint d s) | _ => .next s
def execDoorbell (s : State) : R := match s.ev with | .doorbell v q w => .next (doorbell v q w s) | _ => .next s
def execQueueIdleUnmap (s : State) : R := match s.ev with | .queueIdleUnmap v q => .next (queueIdleUnmap v q s) | _ => .next s
def execNopPacket (s : State) : R := match s.ev with | .nopPacket v q => .next (nopPacket v q s) | _ => .next s
def execLaunch (s : State) : R := match s.ev with | .launch v q o => .next (launchPacket v q o s) | _ => .next s
def execBarrierAnd (s : State) : R := match s.ev with | .barrierAnd v q => .next (barrierAnd v q s) | _ => .next s
def execBarrierAndEvaluation (s : State) : R :=
  match s.ev with | .barrierAndEvaluation v q => .next (barrierAndEvaluation v q false s) | _ => .next s
def execSignal (s : State) : R := match s.ev with | .signal v q => .next (signalPacket v q s) | _ => .next s
def execCopy (s : State) : R := match s.ev with | .copy v q => .next (copyPacket v q s) | _ => .next s
def execSegtab (s : State) : R := match s.ev with | .segtab v q => .next (segtab v q s) | _ => .next s
def execFrontEndTick (s : State) : R := match s.ev with | .frontEndTick => .next (frontEndTick s) | _ => .next s
def execTokenBucketEmpty (s : State) : R := match s.ev with | .tokenBucketEmpty v => .next (tokenBucketEmpty v s) | _ => .next s
def execFrontEndWake (s : State) : R := match s.ev with | .frontEndWake k => .next (frontEndWake k s) | _ => .next s
def execQueueReset (s : State) : R := match s.ev with | .queueReset v q n => .next (queueReset v q n s) | _ => .next s
def execQueueDestroy (s : State) : R := match s.ev with | .queueDestroy v q n => .next (queueDestroy v q n s) | _ => .next s
def execTableUpdate (s : State) : R := match s.ev with | .tableUpdate v t n e => .next (tableUpdate v t n e s) | _ => .next s
def execLockstepMismatch (s : State) : R := match s.ev with | .lockstepMismatch d => .next (lockstepMismatch d s) | _ => .next s
def execWorkerFailure (s : State) : R := match s.ev with | .workerFailure d w => .next (workerFailure d w s) | _ => .next s

end Sys2Proof.Machine
end

