-- ==== Sys2Proof/Machine/Security.lean ====
section
/-!
DEFINITION. Partitions, tenants and migration (25 R413 to R423): VF records, resets, the interface lock machine, sessions,
tile moves and live migration; the debug messages (08 R182, R183).
-/
namespace Sys2Proof.Machine

/-! The interface (25 R419). -/

/-- The launches of a VF that have not ended. -/
def State.liveOf (s : State) (vf : Nat) : List Nat := (s.launches.filter (fun e => e.2.live && decide (e.2.vf = vf))).map (·.1)
/-- A fault: the interface enters ERROR, its launches are killed, its queues enter ERROR with ERR 1. -/
def State.faultVf (s : State) (vf : Nat) : State :=
  let s := s.setVf vf { s.vf vf with iface := .error, lockBy := none }
  let s := (s.liveOf vf).foldl (fun s n => s.killLaunch n false) s
  (List.range 64).foldl (fun s q => match s.qcb vf q with
    | some c => if c.en then s.queueError vf q 1 else s
    | none => s) s
/-- LOCKED or RUN. -/
def VfSt.lockedOrRun (v : VfSt) : Bool := decide (v.iface = .locked) || decide (v.iface = .run)
/-- INTERFACE_LOCK: the record is frozen. -/
def interfaceLock (vf sess : Nat) (s : State) : State :=
  if !s.authorised sess vf then s.cfgStatus vf 0 5
  else if (s.vf vf).iface = .unlocked ∧ (s.vf vf).rst = 0 then s.setVf vf { s.vf vf with iface := .locked, lockBy := some sess }
  else s
/-- INTERFACE_START. -/
def interfaceStart (vf sess : Nat) (s : State) : State :=
  if !s.authorised sess vf then s.cfgStatus vf 0 5
  else if (s.vf vf).iface = .locked ∧ (s.vf vf).rst = 0 then s.setVf vf { s.vf vf with iface := .run } else s

/-! The VF record (25 R415). -/

/-- A range of granules lies inside a partition's ranges. -/
def granted (l : List (Nat × Nat × Nat)) (part first count : Nat) : Bool :=
  (List.range count).all (fun k => l.any (fun r => decide (r.1 = part) && decide (r.2.1 ≤ first + k) && decide (first + k < r.2.1 + r.2.2)))
/-- Two ranges meet. -/
def meets (a n b m : Nat) : Bool := decide (0 < n) && decide (0 < m) && decide (a < b + m) && decide (b < a + n)
/-- The values of a VF record, with the key's generation and the interface's state of the VF it replaces. -/
def recordVf (v : VfSt) (w : Nat → Nat) : VfSt :=
  { v with
    valid := decide (bits (w 0) 63 63 = 1), part := bits (w 0) 62 59, scopeCap := bits (w 0) 58 56,
    scopeTrap := decide (bits (w 0) 55 55 = 1), claspTrap := decide (bits (w 0) 54 54 = 1), dbgOk := decide (bits (w 0) 53 53 = 1),
    qcbBase := bits (w 0) 43 0, tdtCount := bits (w 1) 60 44, tdtBase := bits (w 1) 43 0, depth := bits (w 2) 63 32,
    rate := bits (w 2) 31 0, tkBase := bits (w 3) 63 53, tkCount := bits (w 3) 52 41, mbxCount := bits (w 3) 40 32,
    thresh := bits (w 3) 31 0, pclCount := bits (w 4) 12 0,
    pclSize := Vector.ofFn (fun d => bits (w (8 + d.val)) 63 32), pclBase := Vector.ofFn (fun d => bits (w (8 + d.val)) 31 0 * 4096),
    segBound := Vector.ofFn (fun d => bits (w (20 + d.val)) 48 32), segBase := Vector.ofFn (fun d => bits (w (20 + d.val)) 16 0),
    dmSize := Vector.ofFn (fun d => bits (w (32 + d.val)) 59 32), dmBase := Vector.ofFn (fun d => bits (w (32 + d.val)) 11 0),
    level := (bits (w 2) 63 32 * 1000000 : Nat), dry := false }
/-- The failing fields of a VF record, lowest offset first, as record offset and code of 25 Table 25.2. -/
def State.recordBad (s : State) (vf : Nat) (w : Nat → Nat) : List (Nat × Nat) :=
  let x := recordVf (s.vf vf) w
  let others := (s.vfs.filter (fun e => decide (e.1 ≠ vf))).map (·.2)
  let dm (v : VfSt) (d : Nat) : Nat := (vget 0 v.dmSize d + 32767) / 32768
  let chk (off code : Nat) (bad : Bool) : List (Nat × Nat) := if bad then [(off, code)] else []
  let d0 := chk 0 1 (decide (11 < x.part) || decide (x.scopeCap < 5) || decide (bits (w 0) 52 44 ≠ 0) || decide (w 0 % 64 ≠ 0))
  let d1 := chk 8 1 (decide (bits (w 1) 63 61 ≠ 0) || decide (65536 < x.tdtCount) || decide (w 1 % 32 ≠ 0))
  let d3 := chk 24 1 (decide (256 < x.mbxCount) || decide (x.depth < x.thresh)) ++
    chk 24 2 (decide (2048 < x.tkBase + x.tkCount) || dies.any (fun d => !granted s.pmap.ticks x.part (d * 2048 + x.tkBase) x.tkCount)) ++
    chk 24 3 (others.any (fun v => meets x.tkBase x.tkCount v.tkBase v.tkCount))
  let d4 := chk 32 1 (decide (bits (w 4) 63 13 ≠ 0) || decide (4096 < x.pclCount))
  let d5 := [5, 6, 7].flatMap (fun k => chk (8 * k) 1 (decide (w k ≠ 0)))
  let e := dies.flatMap (fun d =>
    let a := vget 0 x.pclBase d
    let n := vget 0 x.pclSize d * 4096
    chk (64 + 8 * d) 2 (decide (0 < n) && !(decide (a / 1099511627776 = d) && decide (a % 1099511627776 + n ≤ vget 0 x.segBound d * 2097152))))
  let f := dies.flatMap (fun d =>
    let a := vget 0 x.segBase d
    let n := vget 0 x.segBound d
    chk (160 + 8 * d) 1 (decide (bits (w (20 + d)) 63 49 ≠ 0) || decide (bits (w (20 + d)) 31 17 ≠ 0)) ++
    chk (160 + 8 * d) 2 (decide (65536 < a + n) || (decide (0 < n) && decide (65408 < a + n)) || !granted s.pmap.hbm x.part (d * 131072 + a) n) ++
    chk (160 + 8 * d) 3 (others.any (fun v => meets a n (vget 0 v.segBase d) (vget 0 v.segBound d))))
  let g := dies.flatMap (fun d =>
    let a := vget 0 x.dmBase d
    let n := dm x d
    chk (256 + 8 * d) 1 (decide (bits (w (32 + d)) 63 60 ≠ 0) || decide (bits (w (32 + d)) 31 12 ≠ 0) || decide (vget 0 x.dmSize d % 8 ≠ 0)) ++
    chk (256 + 8 * d) 2 (decide (134217728 < a * 32768 + vget 0 x.dmSize d) || !granted s.pmap.dm x.part (d * 4096 + a) n ||
      meets a n s.fw.mbox.1 s.fw.mbox.2) ++
    chk (256 + 8 * d) 3 (others.any (fun v => meets a n (vget 0 v.dmBase d) (dm v d))))
  d0 ++ d1 ++ d3 ++ d4 ++ d5 ++ e ++ f ++ g
/-- VF_RECORD. -/
def vfRecord (vf : Nat) (ws : List Word) (sess : Nat) (s : State) : State :=
  if 1024 ≤ vf then s.cfgStatus 0x3FF 0 1
  else if !s.authorised sess vf then s.cfgStatus vf 0 5
  else if (s.vf vf).iface ≠ .unlocked ∨ (s.vf vf).rst ≠ 0 then
    let s := s.cfgStatus vf 0 4
    if (s.vf vf).lockedOrRun then s.faultVf vf else s
  else
    let w (k : Nat) : Nat := (lget 0 ws k).toNat
    match s.recordBad vf w with
    | (off, code) :: _ => s.cfgStatus vf off code
    | [] =>
      let s := s.setVf vf (recordVf (s.vf vf) w)
      let s : State := { s with fw := { s.fw with mlog := s.fw.mlog ++ [Config.digest (ws.flatMap (fun x => bytesOf 8 x.toNat))] } }
      s.cfgStatus vf 0 0

/-! Migrations end (25 R423). -/

/-- A migration ends: before activation the VF goes on, after it the VF is reset. -/
def State.endMig (s : State) (m : Mig) (code : Nat) : State :=
  let s : State := { s with migs := s.migs.erase m }
  let s := if m.round = 3 then (s.setVf m.vf { s.vf m.vf with rst := 1 }).soon (.vfReset m.vf 0)
    else
      let s := s.unforward m.vf
      let ks := (s.tasks.filter (fun t => t.alive && decide (t.vf = m.vf))).map Task.key
      let s := ks.foldl (fun s k => s.mapTask k (fun t => { t with evict := false })) s
      let s := (s.xfers.filter (fun x => decide (x.vf = m.vf))).foldl (fun s x => s.soon (.mailboxGrant x.id none)) s
      let s := (s.queuesOf m.vf).foldl (fun s q => (s.parseSoon m.vf q).soon (.barrierAndEvaluation m.vf q)) s
      dies.foldl (fun s d => s.schedule d) s
  s.cfgStatus m.vf 0 code
/-- Every migration of a VF ends. -/
def State.endMigs (s : State) (vf code : Nat) : State := (s.migs.filter (fun m => decide (m.vf = vf))).foldl (fun s m => s.endMig m code) s
/-- MIGRATION_END. -/
def migrationEnd (n cause : Nat) (s : State) : State :=
  match s.migs.find? (fun m => decide (m.num = n)) with
  | some m => s.endMig m cause
  | none => s

/-! VF reset and STOP (25 R417). -/

/-- Steps 2 to 5 of a reset; a STOP keeps the key. -/
def State.clearVf (s : State) (vf : Nat) (newKey : Bool) : State :=
  let v := s.vf vf
  let s := s.dropEntries vf 0 2 0 0
  let mineF (die f : Nat) : Bool := decide (vget 0 v.segBase die * 512 ≤ f) && decide (f < (vget 0 v.segBase die + vget 0 v.segBound die) * 512)
  let mineL (n : Nat) : Bool := dies.any (fun d => decide (s.dmAt vf d 0 / 64 ≤ n) && decide (n * 64 < s.dmAt vf d (vget 0 v.dmSize d)))
  let s : State := { s with
    ports := s.ports.map (fun p => (p.1, { p.2 with poison := p.2.poison.filter (fun f => !mineF (p.1 / 8) f) })),
    dmPois := s.dmPois.filter (fun e => !mineL e.1),
    parcels := s.parcels.filter (fun e => decide (e.1 / 65536 ≠ vf)),
    mailbox := s.mailbox.filter (fun e => decide (e.1 / 3072 ≠ vf)),
    xfers := s.xfers.filter (fun x => decide (x.vf ≠ vf)),
    charms := s.charms.filter (fun e => decide (e.2.vf ≠ vf)),
    fab := { s.fab with held := s.fab.held.filter (fun r => decide (r.vf ≠ vf)) },
    tickets := s.tickets.filter (fun e => !(decide (v.tkBase ≤ e.1 % 2048) && decide (e.1 % 2048 < v.tkBase + v.tkCount))) }
  let s := dies.foldl (fun s d => s.setClasp d ((s.claspOf d).filter (fun e => decide (e.vf ≠ vf)))) s
  s.setVf vf { v with keyGen := v.keyGen + newKey.toNat, iface := .unlocked, lockBy := none, rst := 0 }
/-- A reset or STOP under way: queues are destroyed; once no launch is left, the other steps run and are reported. -/
def State.resetOn (s : State) (vf : Nat) (e : Event) : State :=
  let s := (List.range 64).foldl (fun s q => s.destroyQueue vf q) s
  let s := (List.range 64).foldl (fun s q => s.releaseQueue vf q) s
  if (s.liveOf vf).isEmpty then (s.clearVf vf (decide ((s.vf vf).rst = 1))).cfgStatus vf 0 0 else s.soon e
/-- VF_RESET. -/
def vfReset (vf sess : Nat) (s : State) : State :=
  if (s.vf vf).rst = 1 then s.resetOn vf (.vfReset vf sess)
  else if !s.authorised sess vf then s.cfgStatus vf 0 5
  else
    let s := s.setVf vf { s.vf vf with rst := 1 }
    (s.endMigs vf 0).resetOn vf (.vfReset vf sess)
/-- INTERFACE_STOP: the steps of a reset but the key's; the VF keeps its memory. -/
def interfaceStop (vf sess : Nat) (s : State) : State :=
  if (s.vf vf).rst = 2 then s.resetOn vf (.interfaceStop vf sess)
  else if !s.authorised sess vf then s.cfgStatus vf 0 5
  else if (s.vf vf).lockedOrRun && decide ((s.vf vf).rst = 0) then
    let s := s.endMigs vf 0
    if (s.vf vf).rst = 1 then s
    else (s.setVf vf { s.vf vf with rst := 2 }).resetOn vf (.interfaceStop vf sess)
  else s

/-! Sessions and attestation (25 R418). -/

/-- SPDM_SESSION_START. In the recovery state no session is opened (26 R425). -/
def sessionStart (n : Nat) (bind : Option Nat) (s : State) : State :=
  if s.fw.phase = .recovery ∨ s.fw.sess.any (fun x => decide (x.num = n)) then s
  else { s with fw := { s.fw with sess := s.fw.sess ++ [⟨n, bind⟩] } }
/-- SESSION_END: migrations of the session end, and the interfaces it locked fault. -/
def sessionEnd (n : Nat) (s : State) : State :=
  let s : State := { s with fw := { s.fw with sess := s.fw.sess.filter (fun x => decide (x.num ≠ n)),
                                              keys := s.fw.keys.filter (fun e => decide (e.2 ≠ n + 1)) } }
  let s := (s.migs.filter (fun m => decide (m.sess = n))).foldl (fun s m => s.endMig m 5) s
  let vs := (s.vfs.filter (fun e => e.2.lockedOrRun && decide (e.2.lockBy = some n))).map (·.1)
  vs.foldl (fun s v => s.faultVf v) s
/-- GET_MEASUREMENTS: the log, signed with the identity key. -/
def getMeasurements (s : State) : State := s.send (.host 1023 9 (s.fw.mlog ++ [Config.sign s.fw.mlog]))

/-! Tile moves (25 R420). -/

/-- The session's key is placed in the lowest free session slot of the key store, 1,024 to 2,047 (25 R416, R420); none when
every slot holds another session's key. -/
def State.placeKey (s : State) (sess : Nat) : Option State :=
  if s.fw.keys.any (fun e => decide (e.2 = sess + 1)) then some s
  else ((List.range 1024).find? (fun k => decide (fget 0 s.fw.keys (1024 + k) = 0))).map (fun k =>
    { s with fw := { s.fw with keys := fset 0 s.fw.keys (1024 + k) (sess + 1) } })
/-- Bytes leave for another package under a session key, with their nonce and tag: tiles of a move (sort 10) and of a migration
(13), and the rest of a migration's rounds (14). -/
def State.sendSealed (s : State) (dest sess sort : Nat) (what : List Nat) (bs : List Byte) : State :=
  let (n, s) := s.fresh
  let c := Config.sealBytes sess n bs
  s.send (.sealed dest sess sort what n (Config.sealTag sess n c) c)
/-- The bytes of a tile's frames (11 R210). -/
def State.tileFrames (s : State) (vf : Nat) (d : DescE) (e : Nat) : Option (List Byte) := s.vfRead vf (teAddr d e 0) (4096 * 2 ^ d.tsz)
/-- TILE_MOVE: the tile is read by coordinates and sent sealed, or authenticated, written and acknowledged. -/
def tileMove (m : TileMove) (s : State) : State :=
  if !s.authorised m.sess m.vf then s.cfgStatus m.vf 0 5
  else if !(s.vf m.vf).lockedOrRun then s
  else match s.placeKey m.sess with
  | none => s.send (.host m.vf 11 [m.tid, 0])
  | some s => match s.readDesc m.vf m.tid with
    | .ok d =>
      let c (k : Nat) : Nat := lget 0 m.coords k
      let tile := d.tileNo c
      match s.vfNum m.vf (d.base + 8 * tile) 8 with
      | some e =>
        if !d.inside c || !tePresent e then s.send (.host m.vf 11 [m.tid, tile])
        else if m.send then
          match s.tileFrames m.vf d e with
          | some bs => s.sendSealed m.peer m.sess 10 [m.tid, tile] bs
          | none => s.send (.host m.vf 11 [m.tid, tile])
        else if Config.sealTag m.sess m.nonce m.data ≠ m.tag then s.send (.host m.vf 11 [m.tid, tile])
        else
          let bs := (Config.openBytes m.sess m.nonce m.data).take (4096 * 2 ^ d.tsz)
          match (s.dirty (portOf (bits d.base 43 40) tile) m.vf m.tid tile d e).vfWrite m.vf (teAddr d e 0) bs with
          | some s => s.send (.tileAck m.peer m.sess m.tid tile)
          | none => s.send (.host m.vf 11 [m.tid, tile])
      | none => s.send (.host m.vf 11 [m.tid, tile])
    | _ => s.send (.host m.vf 11 [m.tid, 0])

/-! Live migration (25 R421). -/

/-- Every tile of every tensor of a VF. -/
def State.tilesOf (s : State) (vf : Nat) : List (Nat × Nat × DescE) :=
  (List.range (s.vf vf).tdtCount).flatMap (fun tid => match s.readDesc vf tid with
    | .ok d => (List.range (d.nt 0 * d.nt 1 * d.nt 2 * d.nt 3)).map (fun n => (tid, n, d))
    | _ => [])
/-- A present tile of a VF, its entry passing a test, at or after a position. -/
def State.nextTile (s : State) (vf : Nat) (pos : Nat × Nat) (f : Nat → Bool) : Option (Nat × Nat × DescE × Nat) :=
  ((s.tilesOf vf).filterMap (fun t =>
    if t.1 < pos.1 ∨ t.1 = pos.1 ∧ t.2.1 < pos.2 then none
    else match s.vfNum vf (t.2.2.base + 8 * t.2.1) 8 with
      | some e => if tePresent e && f e then some (t.1, t.2.1, t.2.2, e) else none
      | none => none)).head?
/-- A tile goes to the destination: DIRTY is cleared, the cached entries dropped, then it is copied. -/
def State.migrateTile (s : State) (m : Mig) (t : Nat × Nat × DescE × Nat) : State :=
  let (tid, tile, d, e) := t
  let e' := if teDirty e then e - 2 ^ 62 else e
  let s := ((s.vfWrite m.vf (d.base + 8 * tile) (bytesOf 8 e')).getD s).dropEntries m.vf tid 0 tile 1
  match s.tileFrames m.vf d e' with
  | some bs => s.sendSealed m.dest m.sess 13 [m.vf, tid, tile] bs
  | none => s
/-- DM, parcel pools and queue control blocks go to the destination. -/
def State.migrateRest (s : State) (m : Mig) : State :=
  let v := s.vf m.vf
  let s := dies.foldl (fun s d => s.sendSealed m.dest m.sess 14 [m.vf, d] (s.bytes (s.dmAt m.vf d 0) (vget 0 v.dmSize d))) s
  let s := dies.foldl (fun s d => match s.vfRead m.vf (vget 0 v.pclBase d) (4096 * vget 0 v.pclSize d) with
    | some bs => if bs = [] then s else s.sendSealed m.dest m.sess 14 [m.vf, 16 + d] bs
    | none => s) s
  match s.vfRead m.vf v.qcbBase 4096 with
  | some bs => s.sendSealed m.dest m.sess 14 [m.vf, 32] bs
  | none => s
/-- Replace a migration. -/
def State.setMig (s : State) (m m' : Mig) : State := { s with migs := s.migs.map (fun x => if x = m then m' else x) }
/-- PRE_COPY_ROUND: a migration begins with its first round; each round goes on tile by tile. -/
def preCopyRound (n vf dest sess : Nat) (s : State) : State :=
  match s.migs.find? (fun m => decide (m.num = n)) with
  | none =>
    if !s.authorised sess vf then s.cfgStatus vf 0 5
    else if (s.vf vf).iface = .run ∧ !s.migs.any (fun m => decide (m.vf = vf)) then
      match s.placeKey sess with
      | some s => State.soon { s with migs := s.migs ++ [⟨n, vf, dest % 4096, sess, 0, (0, 0), 0⟩] } (.preCopyRound n vf dest sess)
      | none => s
    else s
  | some m =>
    if m.round ≠ 0 then s
    else match s.nextTile m.vf m.pos (fun _ => true) with
      | some t => ((s.migrateTile m t).setMig m { m with pos := (t.1, t.2.1 + 1) }).soon (.preCopyRound n vf dest sess)
      | none => (s.migrateRest m).setMig m { m with pos := (0, 0) }
/-- A set-aside task's LS goes to its context frame too. -/
def State.asideOut (s : State) (k : Nat) : State :=
  let t := s.task k
  let f := fget Frame.zero s.frames k
  let s := s.saveFrame k (List.range t.lsSize) true
  let g := fget Frame.zero s.frames k
  let s : State := { s with frames := fset Frame.zero s.frames k { g with
    recs := f.recs ++ g.recs, strips := f.strips, cbs := f.cbs ++ g.cbs, late := f.late ++ g.late, pops := f.pops ++ g.pops, pushes := f.pushes ++ g.pushes } }
  s.giveUp k
/-- What the final round moves beside tiles. -/
def State.migOf (s : State) (vf : Nat) : MigIn :=
  let v := s.vf vf
  let ts := s.tasks.filter (fun t => decide (t.key ≠ 0) && decide (t.vf = vf))
  let size (d : Nat) : Nat := vget 0 v.dmSize d
  { vf := vf, launches := s.launches.filter (fun e => e.2.live && decide (e.2.vf = vf)), tasks := ts,
    frames := s.frames.filter (fun e => ts.any (fun t => decide (t.key = e.1))),
    reqs := s.reqs.filter (fun r => decide (r.vf = vf)), puts := s.heldPuts.filter (fun r => decide (r.vf = vf)),
    xfers := s.xfers.filter (fun x => decide (x.vf = vf) && decide (x.id % 2 = 0)),
    queues := (s.queues.filter (fun e => decide (e.1 / 64 = vf))).map (fun e => (e.1 % 64, e.2)),
    clasp := dies.map (fun d => (d, (s.claspOf d).filter (fun e => decide (e.vf = vf)))),
    parcels := (s.parcels.filter (fun e => decide (e.1 / 65536 = vf))), boxes := s.mailbox.filter (fun e => decide (e.1 / 3072 = vf)),
    ticks := s.tickets.filter (fun e => decide (v.tkBase ≤ e.1 % 2048) && decide (e.1 % 2048 < v.tkBase + v.tkCount)),
    segs := s.segs.filter (fun x => decide (x.vf = vf)),
    bars := s.bars.filter (fun b => decide ((fget Launch.zero s.launches b.launch).vf = vf)),
    dm := dies.map (fun d => (d, s.bytes (s.dmAt vf d 0) (size d))),
    pools := dies.filterMap (fun d => (s.vfRead vf (vget 0 v.pclBase d) (4096 * vget 0 v.pclSize d)).map (fun bs => (d, bs))),
    qcbs := (s.vfRead vf v.qcbBase 4096).getD [],
    pois := dies.flatMap (fun d => (s.dmPois.filter (fun e => decide (s.dmAt vf d 0 ≤ 64 * e.1) &&
      decide (64 * e.1 < s.dmAt vf d (size d)))).map (fun e => (d, 64 * e.1 - s.dmAt vf d 0))),
    nid := s.nid, dmOld := dies.map (fun d => s.dmAt vf d 0), tkOld := v.tkBase }
/-- What the last message of a final round still waits for (log 40): engine commands, COPY and SIGNAL packets, launches whose tasks have ended, remote operations, data
on its way to a column, parcels that are granted or posted to another package, and accesses that can perform, page requests among
them. An access that an engine command of a saved task keeps from performing moves as it is. -/
def State.migBusy (s : State) (vf : Nat) : Bool :=
  (fvals s.chans).any (fun c => match c.run with | some q => decide ((s.task q.cmd.task).vf = vf) | none => false) ||
    (s.queuesOf vf).any (fun q => (s.queue vf q).run.any (fun k => decide (k.ty = 3) || decide (k.ty = 4))) ||
    (s.fab.out ++ s.fab.pend).any (fun o => o.fwd.isNone && decide (o.req.vf = vf)) ||
    s.flight.any (fun f => decide ((s.task f.task).vf = vf)) ||
    s.launches.any (fun e => e.2.live && decide (e.2.vf = vf) && e.2.left.isEmpty) ||
    s.xfers.any (fun x => decide (x.vf = vf) && (x.far.isSome || x.dst.isSome)) ||
    s.reqs.any (fun r => decide (r.vf = vf) && (decide (r.kind = .query) || decide ((s.task r.task).may r.id ≠ .no)))
/-- FINAL_ROUND: no packet starts; residents are evicted, after 64 µs urgently; what is left is copied. -/
def finalRound (n : Nat) (s : State) : State :=
  match s.migs.find? (fun m => decide (m.num = n)) with
  | none => s
  | some m =>
    let res := s.tasks.filter (fun t => t.resident && decide (t.vf = m.vf))
    if m.round = 0 then
      let s := s.setMig m { m with round := 1, since := s.now }
      let s := res.foldl (fun s t => if t.evictable then s.mapTask t.key (fun t => { t with evict := true }) else s) s
      s.soon (.finalRound n)
    else if m.round ≠ 1 then s
    else if !res.isEmpty then
      let s := if m.since + 64000 ≤ s.now then res.foldl (fun s t => s.soon (.urgentStop t.key .evict)) s else s
      s.soon (.finalRound n)
    else if s.migBusy m.vf then s.soon (.finalRound n)
    else
      match s.nextTile m.vf m.pos teDirty with
      | some t => ((s.migrateTile m t).setMig m { m with pos := (t.1, t.2.1 + 1) }).soon (.finalRound n)
      | none =>
        let ks := (s.tasks.filter (fun t => decide (t.state = .aside) && decide (t.vf = m.vf))).map Task.key
        let s := ks.foldl (fun s k => s.asideOut k) s
        let s := match s.wordPkg (BitVec.ofNat 64 (m.dest * 4503599627370496)) with
          | some pkg => s.send (.migrate pkg (s.migOf m.vf))
          | none => s
        s.setMig m { m with round := 2 }
/-- A moved number in this package's numbering. -/
def moved (base k : Nat) : Nat := if k = 0 then 0 else base + k
/-- A moved record. -/
def Rec.moved (r : Rec) (base : Nat) : Rec :=
  { r with id := Machine.moved base r.id, task := Machine.moved base r.task, acc := Machine.moved base r.acc }
/-- A moved strip. -/
def Strip.moved (x : Strip) (base : Nat) : Strip :=
  { x with holder := Machine.moved base x.holder, thold := x.thold.map (Machine.moved base), run := x.run.map (fun r => r.moved base) }
/-- A moved context frame. -/
def Frame.moved (f : Frame) (base : Nat) : Frame :=
  let rs (l : List Rec) : List Rec := l.map (fun r => r.moved base)
  { f with recs := rs f.recs, pops := rs f.pops, pushes := rs f.pushes, strips := f.strips.map (fun x => x.moved base),
           late := f.late.map (fun e => (e.1, e.2.1, Machine.moved base e.2.2)) }
/-- A moved access: its DM word is at the VF's place here. -/
def Acc.moved (a : Acc) (base : Nat) (dm : Nat → Nat → Nat) : Acc :=
  { a with id := Machine.moved base a.id, ord := a.ord.map (Machine.moved base),
           addr := match a.home with | .dm d => dm d a.addr | _ => a.addr }
/-- A moved request. -/
def Req.moved (r : Req) (base : Nat) (dm : Nat → Nat → Nat) : Req :=
  { r with id := Machine.moved base r.id, task := Machine.moved base r.task, tag := none,
           addr := match r.kind with | .dmLoad | .dmStore => dm r.die r.addr | _ => r.addr }
/-- The event in which a request performs. -/
def Req.event (r : Req) : Event :=
  match r.kind with
  | .dmLoad | .dmStore | .bank => .bankAccess r.id
  | .tkTake | .tkNext _ => .dispenserAccess r.id
  | .put => .putArrival r.id
  | _ => .portAccess r.id
/-- What a moved task sleeps on. -/
def WaitObj.moved (o : WaitObj) (dm : Nat → Nat → Nat) (tk : Nat → Nat) : WaitObj :=
  match o with
  | .word d a => .word d (dm d a)
  | .lock d a => .lock d (dm d a)
  | .ticket d n => .ticket d (tk n)
  | o => o
/-- A moved task: its numbers, and the places of its VF's DM and ticket counters, are this package's. -/
def Task.moved (t : Task) (base : Nat) (dm : Nat → Nat → Nat) (tk : Nat → Nat) : Task :=
  let g := Machine.moved base
  let lands (l : List Landing) : List Landing := l.map (fun x => { x with id := g x.id })
  { t with key := g t.key, launch := g t.launch, land := lands t.land, work := { t.work with land := lands t.work.land },
           snap := { t.snap with land := lands t.snap.land }, results := t.results.map (fun x => { x with id := g x.id }),
           accs := t.accs.map (fun a => a.moved base dm),
           fences := t.fences.map (fun f => { f with loads := f.loads.map g, stores := f.stores.map g, strict := f.strict.map g }),
           sleep := t.sleep.map (fun x => { x with obj := x.obj.moved dm tk }), evictFor := 0 }
/-- A moved clasp entry: tasks have this package's numbers, queues keep theirs, a ticket is at its place here. -/
def ClaspE.moved (e : ClaspE) (base : Nat) (tk : Nat → Nat) : ClaspE :=
  { e with task := if queueEdge 0 0 ≤ e.task then e.task else Machine.moved base e.task,
           obj := if bits e.obj.toNat 63 60 = 2 then putBits e.obj 55 0 (tk (bits e.obj.toNat 55 0)) else e.obj }
/-- What a VF brings has room here: its clasp entries (22 R362), and launch numbers that no launch here holds or has been given
(R361). Until then its activation waits (DESIGN CHOICE, log 55). -/
def State.migFits (s : State) (m : MigIn) : Bool :=
  m.clasp.all (fun e => decide ((s.claspOf e.1).length + e.2.length ≤ 1024)) &&
    m.launches.all (fun e => !e.2.live || (!s.launches.any (fun x => x.2.live && decide (x.2.lnum = e.2.lnum)) &&
      !s.fw.grants.any (fun g => decide (g.2 = e.2.lnum))))
/-- The places of a moved VF's DM and ticket counters here. -/
def State.dmHere (s : State) (m : MigIn) (d a : Nat) : Nat := a - lget 0 m.dmOld d + s.dmAt m.vf d 0
def State.tkHere (s : State) (m : MigIn) (n : Nat) : Nat := n - m.tkOld + (s.vf m.vf).tkBase
/-- The bytes of a moved VF: DM with its poison, parcel pools, queue control blocks. -/
def State.takeBytes (s : State) (m : MigIn) : State :=
  let s := m.dm.foldl (fun s e => s.setBytes (s.dmAt m.vf e.1 0) e.2) s
  let s := m.pools.foldl (fun s e => (s.vfWrite m.vf (vget 0 (s.vf m.vf).pclBase e.1) e.2).getD s) s
  let s := (s.vfWrite m.vf (s.vf m.vf).qcbBase m.qcbs).getD s
  { s with dmPois := m.pois.foldl (fun f e => fset false f (s.dmAt m.vf e.1 e.2 / 64) true) s.dmPois }
/-- The launches, tasks, frames and accesses of a moved VF, its clasp entries, parcels, counters and barriers. -/
def State.takeTasks (s : State) (m : MigIn) : State :=
  let b := s.nid
  let g := Machine.moved b
  let dm := s.dmHere m
  let tk := s.tkHere m
  let s : State := { s with nid := s.nid + m.nid }
  let s := m.launches.foldl (fun (s : State) e => { s with launches := fins s.launches (g e.1) e.2 }) s
  let s := m.tasks.foldl (fun (s : State) t => { s with bg := fins s.bg (g t.key) (t.moved b dm tk) }) s
  let s := m.frames.foldl (fun (s : State) e =>
    State.writeFrame { s with frames := fset Frame.zero s.frames (g e.1) (e.2.moved b) } (g e.1) (e.2.moved b).strips (e.2.tiles.map (·.2))) s
  let s := m.clasp.foldl (fun s e => s.setClasp e.1 (s.claspOf e.1 ++ e.2.map (fun x => x.moved b tk))) s
  let s : State := { s with
    heldPuts := s.heldPuts ++ m.puts.map (fun r => r.moved b dm),
    parcels := m.parcels.foldl (fun a e => fset Parcel.zero a e.1 e.2) s.parcels,
    mailbox := m.boxes.foldl (fun a e => fset [] a e.1 e.2) s.mailbox,
    tickets := m.ticks.foldl (fun a e => fset Ticket.zero a (e.1 / 2048 * 2048 + tk (e.1 % 2048))
      { e.2 with takers := e.2.takers.map (fun x => (x.1, g x.2)) }) s.tickets,
    segs := s.segs ++ m.segs,
    bars := s.bars ++ m.bars.map (fun x => { x with launch := g x.launch, arr := x.arr.map (fun y => (y.1, g y.2)) }) }
  let s := m.reqs.foldl (fun s r => s.ask (r.moved b dm) (r.moved b dm).event) s
  let s := m.xfers.foldl (fun (s : State) x =>
    State.soon { s with xfers := s.xfers ++ [{ x with id := 2 * g (x.id / 2), task := g x.task }] } (.mailboxGrant (2 * g (x.id / 2)) none)) s
  m.tasks.foldl (fun s t => match t.sleep.map (fun x => WaitObj.moved x.obj dm tk) with
    | some (WaitObj.word d a) => (s.arm (g t.key) d a).soon (.monitorWake (g t.key))
    | _ => s) s
/-- A queue of a moved VF: it has no slot yet, and its waiting packets are evaluated once, before any forwarded write (24 R412). -/
def State.takeQueue (s : State) (vf q base : Nat) (x : QueueSt) : State :=
  let y : QueueSt := { x with mapped := false, want := false, run := x.run.map (fun k => { k with launch := Machine.moved base k.launch }) }
  let s := s.setQueue vf q y
  let s := if x.mapped then s.putQcb vf q 3 0 else s
  let s := barrierAndEvaluation vf q true (s.rewatch vf q)
  let s := match s.qcb vf q with
    | some c => if c.st < 2 ∧ (c.read ≠ c.write ∨ !(s.queue vf q).run.isEmpty) then s.wantSlot vf q else s
    | none => s
  s.parseSoon vf q
/-- The destination takes a VF (25 R421): it re-registers what waits, starts RUN, evaluates the waiting packets, lets what the stub sent
on execute, and restores the tasks. -/
def State.takeMig (s : State) (m : MigIn) : State :=
  let b := s.nid
  let s := (s.takeBytes m).takeTasks m
  let s := s.setVf m.vf { s.vf m.vf with iface := .run }
  let s := m.queues.foldl (fun s e => s.takeQueue m.vf e.1 b e.2) s
  dies.foldl (fun s d => s.schedule d) (s.releaseStub m.vf).inheritAll
/-- A moved VF's parcels that wait here for a grant: those posted here have moved, the senders of the others are told (25 R422). -/
def State.moveOffers (s : State) (m : Mig) : State :=
  let wait := s.xfers.filter (fun x => decide (x.vf = m.vf) && x.dst.isNone && x.far.isNone)
  (wait.filter (fun x => decide (x.id % 2 = 1))).foldl
    (fun s x => s.send (.offerMoved x.src (x.id / 2 % 18446744073709551616) m.dest)) { s with xfers := s.xfers.filter (fun x => !wait.elem x) }
/-- ACTIVATION: at the source, MOVED is answered from then on; at the destination, the VF is taken. -/
def activation (n : Nat) (inc : Option MigIn) (sess : Nat) (s : State) : State :=
  match inc with
  | some m =>
    if !s.authorised sess m.vf then s.cfgStatus m.vf 0 5
    else if (s.vf m.vf).iface ≠ .locked then s
    else if !s.migFits m then s.soon (.activation n inc sess)
    else ((s.placeKey sess).getD s).takeMig m
  | none =>
    match s.migs.find? (fun m => decide (m.num = n)) with
    | some m => if m.round = 2 then (s.moveOffers m).setMig m { m with round := 3 } else s
    | none => s

/-! Debug (08 R180 to R183, 25 R419). -/

/-- A debug message for a task: accepted in UNLOCKED, and with DBG_OK in LOCKED and RUN; without it, a fault. -/
def State.debugged (s : State) (k sess : Nat) (f : State → State) : State :=
  let vf := (s.task k).vf
  let v := s.vf vf
  if !(s.task k).alive then s
  else if !s.authorised sess vf then s.cfgStatus vf 0 5
  else match v.iface with
    | .unlocked => f s
    | .locked | .run => if v.dbgOk then f s else s.faultVf vf
    | .error => s
/-- HALT_REQ. -/
def State.haltReq (s : State) (k : Nat) : State :=
  s.mapTask k (fun t => if t.stop = .debug then t else { t with dbgReq := true })
/-- RESUME: the working snapshot replays from the next bundle, and the strips and queues look again at what waits in them. -/
def State.resumeReq (s : State) (k : Nat) : State :=
  let t := s.task k
  if t.stop ≠ .debug then s
  else if !t.pages.isEmpty then (s.mapTask k (fun t => { t with stop := .page })).soon (.urgentStop k .park)
  else if t.resident then
    State.poke ((s.stripsOf t).foldl (fun s e =>
      if e.2.holder = k ∨ (e.2.run.map (·.task)) = some k then s.rerun e.1 else s) (s.mapTask k Task.resume)) t.unit
  else (s.mapTask k (fun t => { t with stop := .run })).schedule t.die
/-- A snapshot that DBG_LOCKET_SEL names. -/
def Task.selSnap (t : Task) : Snap := if bits t.dbgSel 2 2 = 1 then t.snap else t.work
/-- A register write of a file and number (08 Table 08.7), landing registers apart. -/
def regOf (file n : Nat) (v : VWord) : Option RegWrite :=
  let w : Word := v.setWidth 64
  match file with
  | 0 => if n < 56 then some (.i n w) else none
  | 1 => some (.v (n % 32) v)
  | 2 => some (.p (n % 16) (v.getLsbD 0))
  | 3 => some (.k (n % 8) (v.setWidth 32))
  | 5 => some (.mp (n % 8) w)
  | 6 => some (.ce (n % 8) w)
  | 7 =>
    if n < 8 then
      some (.ag n ⟨v.setWidth 16, v.getLsbD 16, Vector.ofFn (fun k => v.extractLsb' (17 + 16 * k.val) 16),
        Vector.ofFn (fun k => v.extractLsb' (81 + 16 * k.val) 16)⟩)
    else if n < 12 then some (.lc (n - 8) w) else if n = 12 then some (.ln w) else none
  | _ => none
/-- DBG_LOCKET_CANCEL: bit n removes entry n of the column and snapshot that DBG_LOCKET_SEL names. -/
def State.cancelEntries (s : State) (k : Nat) (mask : Word) : State :=
  s.mapTask k (fun t =>
    let col := t.dbgSel % 4
    let x := t.selSnap
    let y := x.cancel col mask
    if bits t.dbgSel 2 2 = 1 then { t with snap := y } else { t with work := y })
/-- DBG_CTL as it reads (08 Table 08.9). -/
def Task.dbgCtl (t : Task) : Nat := (decide (t.stop = .debug)).toNat * 8 + t.dbgStep.toNat * 4 + t.dbgBkpt.toNat * 2
/-- A debugger writes a register. Files 0 to 7 are those of 08 Table 08.7 and change only while the task is halted; 16 is
DBG_CTL; 17 is DBG_LOCKET_SEL, whose entry DBG_LOCKET_DESC and DBG_LOCKET_VAL_m then show; 18 is a read of DBG_CTL, which
writes nothing. DBG_CTL and DBG_LOCKET_SEL belong to a task bank; here their bits are the task's and go with it when it leaves
the bank (DESIGN CHOICE, log 24). -/
def State.debugWrite (s : State) (k col file n : Nat) (v : VWord) : State :=
  let halted := decide ((s.task k).stop = .debug)
  if file = 16 then
    let s := s.mapTask k (fun t => { t with dbgStep := v.getLsbD 2, dbgBkpt := v.getLsbD 1 })
    let s := if v.getLsbD 0 then s.haltReq k else s
    if v.getLsbD 4 then s.resumeReq k else s
  else if file = 17 then
    let s := s.mapTask k (fun t => { t with dbgSel := v.toNat % 512 })
    let t := s.task k
    let l := t.selSnap.entries (t.dbgSel % 4)
    let e := match l[bits t.dbgSel 8 3]? with
      | some e => entryRead (decide (bits t.dbgSel 2 2 = 1)) e
      | none => (0, 0)
    s.send (.host t.vf 23 [k, e.1, e.2])
  else if file = 18 then s.send (.host (s.task k).vf 24 [k, (s.task k).dbgCtl])
  else if !halted then s
  else if file = 4 then
    s.mapTask k (fun t => t.setBank col { t.bank col with lreg := vset (t.bank col).lreg (n % 16) v })
  else match regOf file n v with
    | some x => s.mapTask k (fun t => t.setBank col ((t.bank col).write x))
    | none => s
def debugHaltRequest (k sess : Nat) (s : State) : State := s.debugged k sess (fun s => s.haltReq k)
def debugResume (k sess : Nat) (s : State) : State := s.debugged k sess (fun s => s.resumeReq k)
def locketCancel (k : Nat) (mask : Word) (sess : Nat) (s : State) : State := s.debugged k sess (fun s => s.cancelEntries k mask)
def debuggerRegisterWrite (k col file n : Nat) (v : VWord) (sess : Nat) (s : State) : State :=
  s.debugged k sess (fun s => s.debugWrite k col file n v)

/-! The steps. -/

def execVfRecord (s : State) : R := match s.ev with | .vfRecord v ws n => .next (vfRecord v ws n s) | _ => .next s
def execVfReset (s : State) : R := match s.ev with | .vfReset v n => .next (vfReset v n s) | _ => .next s
def execInterfaceLock (s : State) : R := match s.ev with | .interfaceLock v n => .next (interfaceLock v n s) | _ => .next s
def execInterfaceStart (s : State) : R := match s.ev with | .interfaceStart v n => .next (interfaceStart v n s) | _ => .next s
def execInterfaceStop (s : State) : R := match s.ev with | .interfaceStop v n => .next (interfaceStop v n s) | _ => .next s
def execSessionEnd (s : State) : R := match s.ev with | .sessionEnd n => .next (sessionEnd n s) | _ => .next s
def execGetMeasurements (s : State) : R := match s.ev with | .getMeasurements => .next (getMeasurements s) | _ => .next s
def execTileMove (s : State) : R := match s.ev with | .tileMove m => .next (tileMove m s) | _ => .next s
def execPreCopyRound (s : State) : R := match s.ev with | .preCopyRound n v d e => .next (preCopyRound n v d e s) | _ => .next s
def execFinalRound (s : State) : R := match s.ev with | .finalRound n => .next (finalRound n s) | _ => .next s
def execActivation (s : State) : R := match s.ev with | .activation n m e => .next (activation n m e s) | _ => .next s
def execMigrationEnd (s : State) : R := match s.ev with | .migrationEnd n c => .next (migrationEnd n c s) | _ => .next s
def execSpdmSessionStart (s : State) : R := match s.ev with | .spdmSessionStart n b => .next (sessionStart n b s) | _ => .next s
def execDebugHaltRequest (s : State) : R :=
  match s.ev with | .debugHaltRequest k n => .next (debugHaltRequest k n s) | _ => .next s
def execDebugResume (s : State) : R := match s.ev with | .debugResume k n => .next (debugResume k n s) | _ => .next s
def execLocketCancel (s : State) : R := match s.ev with | .locketCancel k m n => .next (locketCancel k m n s) | _ => .next s
def execDebuggerRegisterWrite (s : State) : R :=
  match s.ev with | .debuggerRegisterWrite k c f n v e => .next (debuggerRegisterWrite k c f n v e s) | _ => .next s

end Sys2Proof.Machine
end

