-- ==== Sys2Proof/Machine/Package.lean ====
section
/-!
DEFINITION. The package (26 R425 to R429): bring-up and recovery, the timebase, health, fatal events and the dump.
-/
namespace Sys2Proof.Machine

/-! Fatal events (26 R429). -/

/-- The dies whose pair runs, lowest first. -/
def State.pairs (s : State) : List Nat := dies.filter (fun d => !s.fw.down.elem d)
/-- The first fatal event: front ends stop, resident tasks are killed, every launch's signal is written −1. -/
def State.stopPackage (s : State) : State :=
  let live := s.launches.filter (fun e => e.2.live)
  let s : State := { s with
    fw := { s.fw with phase := .stopped }, launches := s.launches.map (fun e => (e.1, { e.2 with live := false })) }
  let s := ((s.tasks.filter (fun t => t.resident && !t.front)).map Task.key).foldl (fun s k => s.kill k) s
  live.foldl (fun s e => s.sigEnd e.2.vf e.2.signal (-1)) s
/-- The health counters in the order of 26 Table 26.2. -/
def State.health (s : State) : List Nat :=
  (List.range 124).map (fun n => fget 0 s.counters n) ++ dies.map (fun d => (fget 0 s.claspFull d).toNat)
/-- An event as numbers: Now(), die, cause. -/
def fatalNums (e : Nat × Nat × FatalWhy) : List Nat :=
  [e.1, e.2.1, match e.2.2 with | .lockstep => 0 | .critical => 1 | .training => 2 | .firmwareRegion => 3]
/-- The bytes of the mailbox region of every die's DM, as numbers. -/
def State.mailboxNums (s : State) : List Nat :=
  dies.flatMap (fun d => (s.bytes (dmNo d (s.fw.mbox.1 * 32768)) (s.fw.mbox.2 * 32768)).map BitVec.toNat)
/-- The I registers of the 72 front-end cores, 56 words each, both cores of a pair among them: those of a core's program, free
where the image brings none (log 30). -/
def State.frontNums (s : State) : List Nat :=
  dies.flatMap (fun d => [0, 0, 1, 2, 3, 4].flatMap (fun c =>
    match s.tasks.find? (fun t => t.front && decide (t.unit = frontUnit d c)) with
    | some t => (t.bank 0).ireg.toList.map BitVec.toNat
    | none => (List.range 56).map (fun n => (Config.freeWord (s.choice + d * 280 + c * 56 + n)).toNat)))
/-- The dump performs: the events in order, the register files, the mailboxes, the counters and the log, by the lowest die
whose pair runs, at the start of the firmware region, in a form the spec does not give (log 30). -/
def State.dump (s : State) : State :=
  match s.pairs.head? with
  | some d =>
    let ws := d :: s.fw.fatal.length :: s.fw.fatal.flatMap fatalNums ++ s.frontNums ++ s.mailboxNums ++ s.health ++ s.fw.mlog
    let s := s.setBytes (hbmNo d 137170518016) ((Config.dumpBytes ws).take 268435456)
    State.send { s with fw := { s.fw with dumped := true }, choice := s.choice + 72 * 56 } (.host 1023 21 ws)
  | none => s.soon .fatalNodump
/-- FATAL_EVENT: a new event joins the list, the first one stops the package; one that comes back performs the dump. -/
def fatalEvent (die : Nat) (why : FatalWhy) (s : State) : State :=
  if s.fw.dumped then s
  else if s.fw.fatal.any (fun e => decide (e.2 = (die, why))) then s.dump
  else
    let first := s.fw.fatal.isEmpty
    let down := if why = .lockstep ∧ !s.fw.down.elem die then s.fw.down ++ [die] else s.fw.down
    let s : State := { s with fw := { s.fw with fatal := s.fw.fatal ++ [(s.now, die, why)], down := down } }
    let s := dies.foldl (fun s d => s.wakeFront d) s
    if first then s.stopPackage.soon (.fatalEvent die why) else s
/-- FATAL_NODUMP: no pair runs; mask ROM reports 10 ms after the first event. -/
def fatalNodump (s : State) : State :=
  match s.fw.fatal with
  | [] => s
  | e :: _ =>
    if s.fw.dumped || !s.pairs.isEmpty then s
    else if e.1 + 10000000 ≤ s.now then State.send { s with fw := { s.fw with dumped := true } } (.host 1023 22 [])
    else s.soon .fatalNodump
/-- RESET_PACKAGE: every key is discarded, and bring-up starts again. Memory keeps its bytes, under keys that are gone. -/
def resetPackage (sess : Nat) (s : State) : State :=
  if s.fw.phase = .stopped ∧ s.packageWide sess then
    { State.reset with
      mem := s.mem, hbmGen := s.hbmGen, out := s.out, nid := s.nid, choice := s.choice,
      vfs := s.vfs.map (fun e => (e.1, { VfSt.zero with keyGen := e.2.keyGen + 1 })) }
  else s

/-! Bring-up (26 R425). -/

/-- No resource range belongs to two partitions (25 R413). -/
def disjoint : List (Nat × Nat × Nat) → Bool
  | [] => true
  | r :: l => l.all (fun q => !meets r.2.1 r.2.2 q.2.1 q.2.2) && disjoint l
/-- The CORE_SPLIT values of an image: its last valid one for each core (01 R11). -/
def splitsOf (splits : List (Nat × Nat)) : FMap Nat :=
  splits.foldl (fun m e => if splitOk (e.2 % 8) ∧ e.1 < 432 then fset 1 m e.1 (e.2 % 8) else m) []
/-- A partition map that can be applied: whole units under the image's CORE_SPLIT values (01 R13), no resource twice, partitions 0
to 11, the mailbox region in no partition, at most 256 reserved slots (25 R413, 24 R393). -/
def PMap.fits (p : PMap) (splits : List (Nat × Nat)) (box : Nat × Nat) : Bool :=
  p.cols.all (fun e => p.splitFits (e.1 / 4) (fget 1 (splitsOf splits) (e.1 / 4))) &&
    disjoint p.dm && disjoint p.hbm && disjoint p.ticks && (fvals p.cols).all (fun n => decide (n ≤ 12)) &&
    (p.dm ++ p.hbm ++ p.ticks).all (fun r => decide (r.1 < 12)) &&
    dies.all (fun d => p.dm.all (fun r => !meets r.2.1 r.2.2 (d * 4096 + box.1) box.2)) && decide ((p.slots.map (·.2)).sum ≤ 256)
/-- The pod's extents and this package's place in them (00 R1, 18 R294). -/
def podOk (e c : Nat × Nat × Nat) : Bool :=
  let ok (n k : Nat) : Bool := decide (1 ≤ n) && decide (n ≤ 16) && decide (k < n)
  ok e.1 c.1 && ok e.2.1 c.2.1 && ok e.2.2 c.2.2
/-- The words of a partition map for its measurement (25 R418). -/
def PMap.words (p : PMap) : List Nat :=
  p.cols.flatMap (fun e => [e.1, e.2]) ++ (p.dm ++ p.hbm ++ p.ticks).flatMap (fun r => [r.1, r.2.1, r.2.2]) ++
    p.beads.flatMap (fun e => [e.1, e.2]) ++ p.slots.flatMap (fun e => [e.1, e.2])
/-- Step 3: the programs of the pairs and workers start, privileged, on their narrow units. They belong to no launch and no VF: the
number 1,024 stands for firmware, whose DM is the mailbox region of each die (24 R392, R393, log 43). -/
def State.startFront (s : State) (img : BootImage) : State :=
  let fw : VfSt := { VfSt.zero with dmBase := Vector.replicate 12 img.mailbox.1, dmSize := Vector.replicate 12 (img.mailbox.2 * 32768) }
  let s := if img.front.isEmpty then s else s.setVf 1024 fw
  img.front.foldl (fun s (d, c, o) =>
    if 12 ≤ d ∨ 5 ≤ c ∨ !halfFit o ∨ !(s.unit (frontUnit d c)).residents.isEmpty then s
    else
      let (l, s) := s.fresh
      let (k, s) := s.fresh
      let s : State := { s with
        launches := fins s.launches l { Launch.zero with vf := 1024, obj := o, width := 1, dies := [d] },
        bg := fins s.bg k { Task.zero with key := k, vf := 1024, die := d, launch := l, width := 1, unit := frontUnit d c,
                                           priv := true, state := .primary, dmSize := img.mailbox.2 * 32768 } }
      (s.loadText (frontUnit d c) 1 0 o.text).mapUnit (frontUnit d c) (fun u => { u with prim := k, text := vset u.text 0 l })) s
/-- Steps 3 to 8 with an image that has passed its check. A partition map or extents that break a rule are refused and
reported, and those in force stay (25 R414). A lane that fails training is retired with its slice; a link left with fewer
than two starts UNSAFE (18 R319, R320). -/
def State.boot (s : State) (img : BootImage) : State :=
  let s := s.startFront img
  let (ex, ey, ez) := img.extents
  let (x, y, z) := img.coord
  let cols := img.parts.foldl (fun m p => p.2.1.foldl (fun m c => fset 0 m c (p.1 + 1)) m) []
  let pmap : PMap :=
    { cols := cols, dm := img.parts.flatMap (fun p => p.2.2.1.map (fun r => (p.1, r.1, r.2))),
      hbm := img.parts.flatMap (fun p => p.2.2.2.map (fun r => (p.1, r.1, r.2))), ticks := img.tickets,
      beads := img.beads.foldl (fun m e => fset 0 m e.1 (e.2 + 1)) [], slots := img.slots }
  let fits := pmap.fits img.splits img.mailbox
  let place := podOk img.extents img.coord
  let pod : Pod := if place then ⟨ex, ey, ez, x, y, z⟩ else s.pod
  let s := if fits then s else s.cfgStatus 0x3FF 0 2
  let s := if place then s else s.cfgStatus 0x3FF 0 1
  let dead := (img.lanes.filter (fun e => decide (e.1 < 48) && decide (e.2 < 2))).map (fun e => pkgNo pod.x pod.y pod.z * 24 + e.1 / 2)
  let s : State := { s with
    pod := pod, pmap := if fits then pmap else s.pmap, cycle := 0, tai := img.tai,
    fab := { s.fab with circ := img.circs.foldl (fun m e => fset 0 m e.1 (e.2 + 1)) [],
                        unsafeLinks := s.fab.unsafeLinks ++ dead.eraseDups,
                        lost := img.lanes.foldl (fun m e => fset 0 m e.1 (8 - e.2)) [] },
    vfs := s.vfs.map (fun e => (e.1, { e.2 with iface := .unlocked })),
    fw := { s.fw with phase := .ready, owner := img.owner, locked := true, synced := img.tai, tick := img.tai, mbox := img.mailbox,
                      mlog := s.fw.mlog ++ [Config.digest img.bytes, Config.digest (pmap.words.flatMap (bytesOf 8))] } }
  let s := (splitsOf img.splits).foldl (fun s e =>
    if s.pmap.splitFits e.1 e.2 then s.setCore e.1 { s.core e.1 with split := BitVec.ofNat 32 e.2 } else s.cfgStatus 0x3FF 0 2) s
  (img.lanes.foldl (fun s e => if e.1 < 48 then s.tally (49 + e.1 / 2) (8 - e.2) else s) s).send (.host 1023 15 [])
/-- An image is loaded: a failed check leads to recovery, a die that fails training to the fatal path. -/
def State.loadImage (s : State) (img : BootImage) : State :=
  if !Config.verify img.bytes img.sig 0 then { s with fw := { s.fw with phase := .recovery } }
  else match img.badDies with
    | [] => s.boot img
    | ds =>
      let s : State := { s.startFront img with fw := { s.fw with mlog := s.fw.mlog ++ [Config.digest img.bytes] } }
      ds.foldl (fun s d => s.soon (.fatalEvent d .training)) s
/-- BRING_UP: after power is applied. -/
def bringUp (img : BootImage) (s : State) : State := if s.fw.phase = .off then s.loadImage img else s
/-- RECOVERY_BOOT_IMAGE: a new image in the recovery state. -/
def recoveryBootImage (img : BootImage) (s : State) : State := if s.fw.phase = .recovery then s.loadImage img else s

/-! The timebase (26 R426). -/

/-- PTP_SYNC: the master's time is measured, and the offset is slewed from now on. -/
def ptpSync (tai : Nat) (s : State) : State :=
  if s.fw.phase = .off ∨ s.fw.phase = .recovery then s
  else
    let off : Int := (tai : Int) - s.now
    let near := decide (-50 < off) && decide (off < 50)
    let s' : State := { s with fw := { s.fw with synced := s.now, slew := off, locked := s.fw.locked || near } }
    if near && !s.fw.locked then s'.send (.host 1023 17 []) else s'
/-- TIME_UNLOCKED: no PTP message for 1 s; the timebase holds over. -/
def timeUnlocked (s : State) : State :=
  if s.fw.locked ∧ s.fw.synced + 1000000000 ≤ s.now then
    State.send { s with fw := { s.fw with locked := false, slew := 0 } } (.host 1023 16 [])
  else s

/-! Health (26 R427, R428). -/

/-- HEALTH_MONITOR_SAMPLE: the pair of a die reads its sensors, in °C, its rails and its process monitor. The errors that ECC
has corrected since are counted: HBM_CE_s at 0 to 23 and DM_CE_d at 24 to 35 (Table 26.2). -/
def healthMonitorSample (die : Nat) (temps : List Nat) (railBad : Bool) (process : Nat) (corrected : List (Nat × Nat))
    (s : State) : State :=
  if s.fw.down.elem die ∨ s.fw.phase = .off ∨ s.fw.phase = .recovery then s
  else
    let s := corrected.foldl (fun s e => if e.1 < 36 then s.tally e.1 e.2 else s) s
    let s := (s.send (.host 1023 19 [die, process])).wakeFront die
    let s := if temps.any (fun t => decide (95 ≤ t)) then s.send (.host 1023 18 (die :: temps)) else s
    if railBad || temps.any (fun t => decide (110 ≤ t)) then s.soon (.fatalEvent die .critical) else s
/-- HEALTH_REPORT, in a package-wide session. -/
def healthReport (sess : Nat) (s : State) : State :=
  if s.packageWide sess then s.send (.host 1023 20 s.health) else s.cfgStatus 1023 0 5

/-! The steps. -/

def execBringUp (s : State) : R := match s.ev with | .bringUp i => .next (bringUp i s) | _ => .next s
def execRecoveryBootImage (s : State) : R := match s.ev with | .recoveryBootImage i => .next (recoveryBootImage i s) | _ => .next s
def execPtpSync (s : State) : R := match s.ev with | .ptpSync t => .next (ptpSync t s) | _ => .next s
def execTimeUnlocked (s : State) : R := match s.ev with | .timeUnlocked => .next (timeUnlocked s) | _ => .next s
def execHealthMonitorSample (s : State) : R :=
  match s.ev with | .healthMonitorSample d t r p c => .next (healthMonitorSample d t r p c s) | _ => .next s
def execHealthReport (s : State) : R := match s.ev with | .healthReport n => .next (healthReport n s) | _ => .next s
def execFatalEvent (s : State) : R := match s.ev with | .fatalEvent d w => .next (fatalEvent d w s) | _ => .next s
def execFatalNodump (s : State) : R := match s.ev with | .fatalNodump => .next (fatalNodump s) | _ => .next s
def execResetPackage (s : State) : R := match s.ev with | .resetPackage n => .next (resetPackage n s) | _ => .next s

end Sys2Proof.Machine
end

