-- ==== Sys2Proof/Machine/Vector.lean ====
section
/-!
DEFINITION. The F slot (07 R148 to R170), but for the function stage.
-/
namespace Sys2Proof.Machine

/-! fp32 lanes (07 R151 to R153). -/

def execFadd (g : Guard) (d a b : RegF) (s : State) : R := s.vec2 g d a b 4 (map2 fadd)
def execFsub (g : Guard) (d a b : RegF) (s : State) : R := s.vec2 g d a b 4 (map2 fsub)
def execFmul (g : Guard) (d a b : RegF) (s : State) : R := s.vec2 g d a b 5 (map2 fmul)
def execFmin (g : Guard) (d a b : RegF) (s : State) : R := s.vec2 g d a b 4 (map2 fmin)
def execFmax (g : Guard) (d a b : RegF) (s : State) : R := s.vec2 g d a b 4 (map2 fmax)
def execFfma (g : Guard) (fl : BitVec 1) (d a b c : BitVec 5) (s : State) : R := s.vec4 g fl d a b c 5 (map3 ffma)
/-- x · y − z rounded once. -/
def ffms (x y z : Lane) : Lane := rne32 (Fp.add (Fp.mul (f32 x) (f32 y)) (Fp.neg (f32 z)))
/-- z − x · y rounded once. -/
def fnma (x y z : Lane) : Lane := rne32 (Fp.add (f32 z) (Fp.neg (Fp.mul (f32 x) (f32 y))))
def execFfms (g : Guard) (fl : BitVec 1) (d a b c : BitVec 5) (s : State) : R := s.vec4 g fl d a b c 5 (map3 ffms)
def execFnma (g : Guard) (fl : BitVec 1) (d a b c : BitVec 5) (s : State) : R := s.vec4 g fl d a b c 5 (map3 fnma)
/-- A NaN lane gives the canonical NaN, any other f (07 R153). -/
def signOp (f : Lane → Lane) (x : Lane) : Lane := if (f32 x).isNan then nan32 else f x
def execFabs (g : Guard) (d a : RegF) (s : State) : R := s.vec1 g d a 1 (map1 (signOp (· &&& 0x7FFFFFFF)))
def execFneg (g : Guard) (d a : RegF) (s : State) : R := s.vec1 g d a 1 (map1 (signOp (· ^^^ 0x80000000)))
def execFcps (g : Guard) (d a b : RegF) (s : State) : R :=
  s.vec2 g d a b 1 (map2 (fun x y => signOp (fun x => (x &&& 0x7FFFFFFF) ||| (y &&& 0x80000000)) x))

/-! Compares into lane masks (07 R154, R159). -/

/-- FCMP's conditions (07 Table 07.4). -/
def fcmpLane (c : BitVec 3) (x y : Lane) : Bool :=
  match c.toNat, Fp.cmp (f32 x) (f32 y) with
  | 0, o => decide (o = some .eq)
  | 1, o => decide (o ≠ some .eq)
  | 2, o => decide (o = some .lt)
  | 3, o => decide (o = some .lt) || decide (o = some .eq)
  | _, o => o.isNone
/-- VCMP's conditions (07 R159). -/
def vcmpLane (c : BitVec 3) (x y : Lane) : Bool :=
  match c.toNat with
  | 0 => decide (x = y) | 1 => decide (x ≠ y) | 2 => x.slt y | 3 => x.sle y | 4 => x.ult y | _ => x.ule y
/-- The number whose bits, from bit 0, are the list. -/
def maskNat : List Bool → Nat
  | [] => 0
  | b :: r => b.toNat + 2 * maskNat r
/-- A lane mask from its bits. -/
def maskOf (l : List Bool) : Lane := BitVec.ofNat 32 (maskNat l)
/-- A compare of two vectors into a lane mask at latency 4. -/
def State.vcompare (s : State) (g : Guard) (k : BitVec 3) (a b : RegF) (f : Lane → Lane → Bool) : R :=
  s.when g fun s =>
    let x := s.bank.v (s.bank.physV a)
    let y := s.bank.v (s.bank.physV b)
    s.post 4 (.k k.toNat (maskOf (List.zipWith f (lanes x) (lanes y))))
def execFcmp (g : Guard) (c k : BitVec 3) (a b : RegF) (s : State) : R := s.vcompare g k a b (fcmpLane c)
def execVcmp (g : Guard) (c k : BitVec 3) (a b : RegF) (s : State) : R := s.vcompare g k a b (vcmpLane c)

/-! Rounding and conversion (07 R155 to R157). -/

/-- FRND of a lane: the input's sign is kept. -/
def frndLane (dir : Dir) (x : Lane) : Lane :=
  match f32 x with
  | .nan => nan32
  | .inf n => BitVec.ofNat 32 (fp32.infCode n .ieee)
  | .fin n m e => rne32 (.fin n (roundIntMag dir n m e) 0)
def execFrnd (g : Guard) (d a : RegF) (r : BitVec 2) (s : State) : R :=
  s.vec1 g d a 4 (map1 (frndLane (Dir.ofCode r.toNat)))
/-- FTOI of a lane. -/
def ftoiLane (dir : Dir) (x : Lane) : Lane := BitVec.ofInt 32 (toIntSat dir (-2147483648) 2147483647 (f32 x)).1
/-- A vector has a lane with a NaN. -/
def anyNan (v : VWord) : Bool := (lanes v).any (fun x => (f32 x).isNan)
def execFtoi (g : Guard) (d a : RegF) (r : BitVec 2) (s : State) : R :=
  s.when g fun s =>
    let x := s.bank.v (s.bank.physV a)
    s.putV d 4 (map1 (ftoiLane (Dir.ofCode r.toNat)) x) (flagBits (anyNan x) false)
def execItof (g : Guard) (d a : RegF) (s : State) : R := s.vec1 g d a 4 (map1 (fun x => rne32 (Fp.ofInt x.toInt)))

/-- Elements of n bits of a vector, from element 0 (07 Table 07.1, 05 R92). -/
def elems (n : Nat) (v : VWord) : List Nat := (List.range (1024 / n)).map (fun e => v.toNat / 2 ^ (n * e) % 2 ^ n)
/-- The number whose n-bit digits are the list. -/
def digitsNat (n : Nat) : List Nat → Nat
  | [] => 0
  | x :: r => x % 2 ^ n + 2 ^ n * digitsNat n r
/-- A vector from elements of n bits. -/
def ofElems (n : Nat) (l : List Nat) : VWord := BitVec.ofNat 1024 (digitsNat n l)
/-- Replace the elements from position k on. -/
def spliceAt (k : Nat) (new old : List Nat) : List Nat := old.take k ++ new ++ old.drop (k + new.length)
/-- FCVT (07 R157): the new register and whether a NaN was met. -/
def fcvtVal (sel : BitVec 2) (conv : BitVec 3) (part : BitVec 2) (src old : VWord) : VWord × Bool :=
  let dir := Dir.ofCode sel.toNat
  let p := part.toNat
  let narrow (code n : Nat) (xs : List Fp) (k : Nat) : VWord × Bool :=
    let ys := xs.map (elemCode code dir true)
    (ofElems n (spliceAt k (ys.map (·.1)) (elems n old)), ys.any (·.2))
  let widen (code n : Nat) : VWord × Bool :=
    let ys := ((elems n src).drop (32 * p)).take 32 |>.map (fun w => (elemValue code w).1)
    (ofElems 32 (ys.map (fp32.round .rne .ieee)), ys.any Fp.isNan)
  let l32 := (lanes src).map f32
  match conv.toNat with
  | 0 => narrow 1 16 l32 (32 * p)
  | 1 => narrow 2 16 l32 (32 * p)
  | 2 => narrow 3 8 l32 (32 * p)
  | 3 => narrow 4 8 l32 (32 * p)
  | 4 => narrow 0 32 ((elems 64 src).map fp64.decode) (16 * p)
  | 5 => match sel.toNat with
    | 0 => widen 1 16 | 1 => widen 2 16 | 2 => widen 3 8 | _ => widen 4 8
  | _ =>
    let ys := ((lanes src).drop (16 * p)).take 16 |>.map f32
    (ofElems 64 (ys.map (fp64.round .rne .ieee)), ys.any Fp.isNan)
def execFcvt (g : Guard) (d a : RegF) (sc : BitVec 2) (c : BitVec 3) (p : BitVec 2) (s : State) : R :=
  s.when g fun s =>
    let (v, nan) := fcvtVal sc c p (s.bank.v (s.bank.physV a)) (s.bank.v (s.bank.physV d))
    s.putV d 4 v (flagBits nan false)

/-! Integer lanes (07 R158, R160). -/

/-- A lane shift amount, bits 4:0. -/
def lshamt (y : Lane) : Nat := y.toNat % 32
def execVadd (g : Guard) (d a b : RegF) (s : State) : R := s.vec2 g d a b 1 (map2 (· + ·))
def execVsub (g : Guard) (d a b : RegF) (s : State) : R := s.vec2 g d a b 1 (map2 (· - ·))
def execVmul (g : Guard) (d a b : RegF) (s : State) : R := s.vec2 g d a b 3 (map2 (· * ·))
def execVmulh (g : Guard) (d a b : RegF) (s : State) : R :=
  s.vec2 g d a b 3 (map2 (fun x y => BitVec.ofInt 32 (x.toInt * y.toInt / 4294967296)))
def execVand (g : Guard) (d a b : RegF) (s : State) : R := s.vec2 g d a b 1 (map2 (· &&& ·))
def execVor (g : Guard) (d a b : RegF) (s : State) : R := s.vec2 g d a b 1 (map2 (· ||| ·))
def execVxor (g : Guard) (d a b : RegF) (s : State) : R := s.vec2 g d a b 1 (map2 (· ^^^ ·))
def execVshl (g : Guard) (d a b : RegF) (s : State) : R := s.vec2 g d a b 1 (map2 (fun x y => x <<< lshamt y))
def execVshr (g : Guard) (d a b : RegF) (s : State) : R := s.vec2 g d a b 1 (map2 (fun x y => x >>> lshamt y))
def execVsar (g : Guard) (d a b : RegF) (s : State) : R :=
  s.vec2 g d a b 1 (map2 (fun x y => x.sshiftRight (lshamt y)))
def execVmin (g : Guard) (d a b : RegF) (s : State) : R :=
  s.vec2 g d a b 1 (map2 (fun x y => if y.slt x then y else x))
def execVmax (g : Guard) (d a b : RegF) (s : State) : R :=
  s.vec2 g d a b 1 (map2 (fun x y => if x.slt y then y else x))
/-- One lane of VDOT4: four signed byte products added to the old lane. -/
def dot4Lane (x y z : Lane) : Lane :=
  (List.range 4).foldl (fun acc j =>
    acc + (x.extractLsb' (8 * j) 8).signExtend 32 * (y.extractLsb' (8 * j) 8).signExtend 32) z
def execVdot4 (g : Guard) (d a b : RegF) (s : State) : R :=
  s.when g fun s =>
    s.putV d 3 (map3 dot4Lane (s.bank.v (s.bank.physV a)) (s.bank.v (s.bank.physV b)) (s.bank.v (s.bank.physV d)))

/-! Selection and movement (07 R161 to R168). -/

/-- Choose each lane by a mask bit. -/
def selLanes (m : Lane) (x y : VWord) : VWord :=
  ofLanes ((List.range 32).map (fun n => if m.getLsbD n then lane x n else lane y n))
def execVsel (g : Guard) (fl : BitVec 1) (d a b : BitVec 5) (k : BitVec 3) (s : State) : R :=
  s.when g fun s =>
    let r (n : BitVec 5) : VWord := s.bank.v (s.bank.physV4 fl n)
    s.post 1 (.v (s.bank.physV4 fl d) (selLanes (s.bank.k k.toNat) (r a) (r b)))
def execVperm (g : Guard) (d a b : RegF) (s : State) : R :=
  s.vec2 g d a b 2 (fun x y => ofLanes ((lanes y).map (fun k => lane x (lshamt k))))
def execVbcast (g : Guard) (d a : RegF) (p : BitVec 1) (n : BitVec 5) (s : State) : R :=
  s.vec1 g d a 1 (fun x =>
    if p.getLsbD 0 then ofElems 64 (List.replicate 16 (x.toNat / 2 ^ (64 * (n.toNat / 2)) % 2 ^ 64))
    else ofLanes (List.replicate 32 (lane x n.toNat)))
def execViota (g : Guard) (d : RegF) (t : BitVec 1) (s : State) : R :=
  s.when g fun s =>
    s.putV d 1 (ofLanes ((List.range 32).map (fun n => BitVec.ofNat 32 (if t.getLsbD 0 then 2 ^ n else n))))
def execVmov (g : Guard) (d a : RegF) (sc : BitVec 1) (s : State) : R :=
  s.when g fun s =>
    s.putV d 1 (if sc.getLsbD 0 then vget 0 s.bank.lreg (regNo a) else s.bank.v (s.bank.physV a))
def execVtoi (g : Guard) (d a : RegF) (x p : BitVec 1) (n : BitVec 5) (s : State) : R :=
  s.when g fun s => s.putI d 2 (laneWord (s.bank.v (s.bank.physV a)) x p n)
def execVxmov (g : Guard) (d a : RegF) (c : BitVec 2) (s : State) : R :=
  s.when g fun s => let b := s.fg.bank c.toNat; s.putV d 2 (b.v (b.physV a))
/-- KOP's operations (07 R168). -/
def kopVal (o : BitVec 3) (x y : Lane) : Lane :=
  match o.toNat with
  | 0 => x &&& y | 1 => x ||| y | 2 => x ^^^ y | 3 => x &&& ~~~ y | 4 => ~~~ x | _ => x
def execKop (g : Guard) (d a : RegF) (o b : BitVec 3) (s : State) : R :=
  s.when g fun s => s.post 1 (.k (regNo d) (kopVal o (s.bank.k (regNo a)) (s.bank.k b.toNat)))

/-! Reduction (07 R169, 05 R103) and requantisation (07 R170). -/

/-- One level of the pairwise tree. -/
def pairUp {α : Type} (f : α → α → α) : List α → List α
  | x :: y :: r => f x y :: pairUp f r
  | l => l
/-- The tree over 2^n values. -/
def tree {α : Type} (f : α → α → α) (dflt : α) : Nat → List α → α
  | 0, l => l.headD dflt
  | n + 1, l => tree f dflt n (pairUp f l)
/-- VRED's operator and identity on 32-bit lanes. -/
def redOp32 (o : BitVec 2) : (Lane → Lane → Lane) × Lane :=
  match o.toNat with
  | 0 => (fadd, 0x80000000) | 1 => (fmax, ninf32) | 2 => (fmin, pinf32) | _ => ((· + ·), 0)
/-- VRED's operator and identity on fp64 pairs. -/
def redOp64 (o : BitVec 2) : (Word → Word → Word) × Word :=
  match o.toNat with
  | 0 => (fadd64, 0x8000000000000000) | 1 => (fmax64, 0xFFF0000000000000) | _ => (fmin64, 0x7FF0000000000000)
/-- VRED of a vector under a mask. -/
def vredVal (f64 : Bool) (o : BitVec 2) (m : Lane) (v : VWord) : VWord :=
  if f64 then
    let (f, z) := redOp64 o
    let ws := (List.range 16).map (fun n => if m.getLsbD (2 * n) then v.extractLsb' (64 * n) 64 else z)
    ofElems 64 (List.replicate 16 (tree f z 4 ws).toNat)
  else
    let (f, z) := redOp32 o
    let ws := (List.range 32).map (fun n => if m.getLsbD n then lane v n else z)
    ofLanes (List.replicate 32 (tree f z 5 ws))
def execVred (g : Guard) (d a : RegF) (fl : BitVec 1) (o : BitVec 2) (k : BitVec 3) (s : State) : R :=
  s.when g fun s =>
    s.putV d 6 (vredVal (fl.getLsbD 0) o (s.bank.k k.toNat) (s.bank.v (s.bank.physV a)))
/-- REQUANT of every block: new elements, new scales, a NaN scale met. -/
def requantVal (mxfp4 : Bool) (delta : Int) (e sc : VWord) : VWord × VWord × Bool :=
  let code := if mxfp4 then 6 else 5
  let n := elemBits code
  let nb := if mxfp4 then 8 else 4
  let xs := elems n e
  let ss := elems 8 sc
  let rs := (List.range nb).map (fun b => requantBlock code (lget 0 ss b) delta ((xs.drop (32 * b)).take 32))
  (ofElems n (rs.flatMap (fun r => r.2.1)), ofElems 8 (spliceAt 0 (rs.map (·.1)) ss), rs.any (fun r => r.2.2))
def execRequant (g : Guard) (d a : RegF) (fl : BitVec 1) (x : BitVec 6) (s : State) : R :=
  s.when g fun s =>
    let (e, sc, nan) := requantVal (fl.getLsbD 0) x.toInt (s.bank.v (s.bank.physV d)) (s.bank.v (s.bank.physV a))
    (s.putV d 5 e (flagBits nan false)).putV a 5 sc

end Sys2Proof.Machine
end

