-- ==== Sys2Proof/Machine/Dispatch.lean ====
section
/-!
DEFINITION. The dispatch: one arm per constructor of `Instr`, each one call of its meaning.
-/
namespace Sys2Proof.Machine

/-- The meaning of an instruction. -/
def exec (i : Instr) (s : State) : Host.Outcome State Fault Refusal :=
  match i with
  | .nop a0 => Sys2Proof.Machine.execNop a0 s
  | .br a0 a1 => Sys2Proof.Machine.execBr a0 a1 s
  | .brn a0 a1 => Sys2Proof.Machine.execBrn a0 a1 s
  | .call a0 a1 => Sys2Proof.Machine.execCall a0 a1 s
  | .callr a0 a1 => Sys2Proof.Machine.execCallr a0 a1 s
  | .jmpr a0 a1 => Sys2Proof.Machine.execJmpr a0 a1 s
  | .ret a0 => Sys2Proof.Machine.execRet a0 s
  | .loop a0 a1 a2 => Sys2Proof.Machine.execLoop a0 a1 a2 s
  | .loopr a0 a1 a2 a3 => Sys2Proof.Machine.execLoopr a0 a1 a2 a3 s
  | .lexit a0 a1 a2 => Sys2Proof.Machine.execLexit a0 a1 a2 s
  | .pset a0 a1 a2 => Sys2Proof.Machine.execPset a0 a1 a2 s
  | .pand a0 a1 a2 a3 => Sys2Proof.Machine.execPand a0 a1 a2 a3 s
  | .por a0 a1 a2 a3 => Sys2Proof.Machine.execPor a0 a1 a2 a3 s
  | .pxor a0 a1 a2 a3 => Sys2Proof.Machine.execPxor a0 a1 a2 a3 s
  | .pnot a0 a1 a2 => Sys2Proof.Machine.execPnot a0 a1 a2 s
  | .pandn a0 a1 a2 a3 => Sys2Proof.Machine.execPandn a0 a1 a2 a3 s
  | .trap a0 a1 => Sys2Proof.Machine.execTrap a0 a1 s
  | .eret a0 => Sys2Proof.Machine.execEret a0 s
  | .bkpt a0 a1 => Sys2Proof.Machine.execBkpt a0 a1 s
  | .fencec a0 a1 => Sys2Proof.Machine.execFencec a0 a1 s
  | .fencesc a0 a1 => Sys2Proof.Machine.execFencesc a0 a1 s
  | .getln a0 a1 => Sys2Proof.Machine.execGetln a0 a1 s
  | .setln a0 a1 => Sys2Proof.Machine.execSetln a0 a1 s
  | .halt a0 => Sys2Proof.Machine.execHalt a0 s
  | .exit a0 => Sys2Proof.Machine.execExit a0 s
  | .yield a0 => Sys2Proof.Machine.execYield a0 s
  | .bar a0 a1 => Sys2Proof.Machine.execBar a0 a1 s
  | .waitv a0 a1 a2 => Sys2Proof.Machine.execWaitv a0 a1 a2 s
  | .waitt a0 a1 a2 a3 => Sys2Proof.Machine.execWaitt a0 a1 a2 a3 s
  | .lock a0 a1 => Sys2Proof.Machine.execLock a0 a1 s
  | .unlock a0 a1 => Sys2Proof.Machine.execUnlock a0 a1 s
  | .tkwait a0 a1 a2 => Sys2Proof.Machine.execTkwait a0 a1 a2 s
  | .sstep a0 a1 => Sys2Proof.Machine.execSstep a0 a1 s
  | .prio a0 a1 => Sys2Proof.Machine.execPrio a0 a1 s
  | .gettime a0 a1 => Sys2Proof.Machine.execGettime a0 a1 s
  | .dlinfo a0 a1 a2 => Sys2Proof.Machine.execDlinfo a0 a1 a2 s
  | .valid a0 a1 a2 => Sys2Proof.Machine.execValid a0 a1 a2 s
  | .wobj a0 a1 => Sys2Proof.Machine.execWobj a0 a1 s
  | .wdrop a0 a1 => Sys2Proof.Machine.execWdrop a0 a1 s
  | .add a0 a1 a2 a3 => Sys2Proof.Machine.execAdd a0 a1 a2 a3 s
  | .addi a0 a1 a2 a3 => Sys2Proof.Machine.execAddi a0 a1 a2 a3 s
  | .sub a0 a1 a2 a3 => Sys2Proof.Machine.execSub a0 a1 a2 a3 s
  | .mul a0 a1 a2 a3 => Sys2Proof.Machine.execMul a0 a1 a2 a3 s
  | .mulh a0 a1 a2 a3 => Sys2Proof.Machine.execMulh a0 a1 a2 a3 s
  | .mulhu a0 a1 a2 a3 => Sys2Proof.Machine.execMulhu a0 a1 a2 a3 s
  | .div a0 a1 a2 a3 => Sys2Proof.Machine.execDiv a0 a1 a2 a3 s
  | .divu a0 a1 a2 a3 => Sys2Proof.Machine.execDivu a0 a1 a2 a3 s
  | .rem a0 a1 a2 a3 => Sys2Proof.Machine.execRem a0 a1 a2 a3 s
  | .remu a0 a1 a2 a3 => Sys2Proof.Machine.execRemu a0 a1 a2 a3 s
  | .and a0 a1 a2 a3 => Sys2Proof.Machine.execAnd a0 a1 a2 a3 s
  | .andi a0 a1 a2 a3 => Sys2Proof.Machine.execAndi a0 a1 a2 a3 s
  | .or a0 a1 a2 a3 => Sys2Proof.Machine.execOr a0 a1 a2 a3 s
  | .ori a0 a1 a2 a3 => Sys2Proof.Machine.execOri a0 a1 a2 a3 s
  | .xor a0 a1 a2 a3 => Sys2Proof.Machine.execXor a0 a1 a2 a3 s
  | .xori a0 a1 a2 a3 => Sys2Proof.Machine.execXori a0 a1 a2 a3 s
  | .shl a0 a1 a2 a3 => Sys2Proof.Machine.execShl a0 a1 a2 a3 s
  | .shli a0 a1 a2 a3 => Sys2Proof.Machine.execShli a0 a1 a2 a3 s
  | .shr a0 a1 a2 a3 => Sys2Proof.Machine.execShr a0 a1 a2 a3 s
  | .shri a0 a1 a2 a3 => Sys2Proof.Machine.execShri a0 a1 a2 a3 s
  | .sar a0 a1 a2 a3 => Sys2Proof.Machine.execSar a0 a1 a2 a3 s
  | .sari a0 a1 a2 a3 => Sys2Proof.Machine.execSari a0 a1 a2 a3 s
  | .min a0 a1 a2 a3 => Sys2Proof.Machine.execMin a0 a1 a2 a3 s
  | .max a0 a1 a2 a3 => Sys2Proof.Machine.execMax a0 a1 a2 a3 s
  | .minu a0 a1 a2 a3 => Sys2Proof.Machine.execMinu a0 a1 a2 a3 s
  | .maxu a0 a1 a2 a3 => Sys2Proof.Machine.execMaxu a0 a1 a2 a3 s
  | .clz a0 a1 a2 => Sys2Proof.Machine.execClz a0 a1 a2 s
  | .popc a0 a1 a2 => Sys2Proof.Machine.execPopc a0 a1 a2 s
  | .bfx a0 a1 a2 a3 => Sys2Proof.Machine.execBfx a0 a1 a2 a3 s
  | .bfi a0 a1 a2 a3 => Sys2Proof.Machine.execBfi a0 a1 a2 a3 s
  | .sel a0 a1 a2 a3 => Sys2Proof.Machine.execSel a0 a1 a2 a3 s
  | .cmp a0 a1 a2 a3 a4 a5 => Sys2Proof.Machine.execCmp a0 a1 a2 a3 a4 a5 s
  | .cmpi a0 a1 a2 a3 a4 a5 => Sys2Proof.Machine.execCmpi a0 a1 a2 a3 a4 a5 s
  | .li a0 a1 a2 => Sys2Proof.Machine.execLi a0 a1 a2 s
  | .lih a0 a1 a2 => Sys2Proof.Machine.execLih a0 a1 a2 s
  | .mov a0 a1 a2 => Sys2Proof.Machine.execMov a0 a1 a2 s
  | .moviv a0 a1 a2 => Sys2Proof.Machine.execMoviv a0 a1 a2 s
  | .movim a0 a1 a2 => Sys2Proof.Machine.execMovim a0 a1 a2 s
  | .movie a0 a1 a2 => Sys2Proof.Machine.execMovie a0 a1 a2 s
  | .setib a0 a1 a2 a3 => Sys2Proof.Machine.execSetib a0 a1 a2 a3 s
  | .getsr a0 a1 a2 => Sys2Proof.Machine.execGetsr a0 a1 a2 s
  | .setsr a0 a1 a2 => Sys2Proof.Machine.execSetsr a0 a1 a2 s
  | .agset a0 a1 a2 a3 => Sys2Proof.Machine.execAgset a0 a1 a2 a3 s
  | .agpos a0 a1 a2 => Sys2Proof.Machine.execAgpos a0 a1 a2 s
  | .aginc a0 a1 a2 a3 => Sys2Proof.Machine.execAginc a0 a1 a2 a3 s
  | .lds a0 a1 a2 a3 a4 a5 a6 => Sys2Proof.Machine.execLds a0 a1 a2 a3 a4 a5 a6 s
  | .sts a0 a1 a2 a3 a4 a5 => Sys2Proof.Machine.execSts a0 a1 a2 a3 a4 a5 s
  | .ldt a0 a1 a2 a3 a4 a5 a6 => Sys2Proof.Machine.execLdt a0 a1 a2 a3 a4 a5 a6 s
  | .stt a0 a1 a2 a3 a4 a5 => Sys2Proof.Machine.execStt a0 a1 a2 a3 a4 a5 s
  | .ldd a0 a1 a2 a3 a4 a5 a6 => Sys2Proof.Machine.execLdd a0 a1 a2 a3 a4 a5 a6 s
  | .std a0 a1 a2 a3 a4 a5 => Sys2Proof.Machine.execStd a0 a1 a2 a3 a4 a5 s
  | .ldl a0 a1 a2 a3 a4 a5 => Sys2Proof.Machine.execLdl a0 a1 a2 a3 a4 a5 s
  | .tqry a0 a1 a2 => Sys2Proof.Machine.execTqry a0 a1 a2 s
  | .xmov a0 a1 a2 a3 => Sys2Proof.Machine.execXmov a0 a1 a2 a3 s
  | .pld a0 a1 a2 a3 a4 a5 a6 => Sys2Proof.Machine.execPld a0 a1 a2 a3 a4 a5 a6 s
  | .pst a0 a1 a2 a3 a4 a5 => Sys2Proof.Machine.execPst a0 a1 a2 a3 a4 a5 s
  | .pldref a0 a1 a2 a3 a4 a5 => Sys2Proof.Machine.execPldref a0 a1 a2 a3 a4 a5 s
  | .pstref a0 a1 a2 a3 a4 => Sys2Proof.Machine.execPstref a0 a1 a2 a3 a4 s
  | .fadd a0 a1 a2 a3 => Sys2Proof.Machine.execFadd a0 a1 a2 a3 s
  | .fsub a0 a1 a2 a3 => Sys2Proof.Machine.execFsub a0 a1 a2 a3 s
  | .fmul a0 a1 a2 a3 => Sys2Proof.Machine.execFmul a0 a1 a2 a3 s
  | .ffma a0 a1 a2 a3 a4 a5 => Sys2Proof.Machine.execFfma a0 a1 a2 a3 a4 a5 s
  | .ffms a0 a1 a2 a3 a4 a5 => Sys2Proof.Machine.execFfms a0 a1 a2 a3 a4 a5 s
  | .fnma a0 a1 a2 a3 a4 a5 => Sys2Proof.Machine.execFnma a0 a1 a2 a3 a4 a5 s
  | .fmin a0 a1 a2 a3 => Sys2Proof.Machine.execFmin a0 a1 a2 a3 s
  | .fmax a0 a1 a2 a3 => Sys2Proof.Machine.execFmax a0 a1 a2 a3 s
  | .fabs a0 a1 a2 => Sys2Proof.Machine.execFabs a0 a1 a2 s
  | .fneg a0 a1 a2 => Sys2Proof.Machine.execFneg a0 a1 a2 s
  | .fcps a0 a1 a2 a3 => Sys2Proof.Machine.execFcps a0 a1 a2 a3 s
  | .fcmp a0 a1 a2 a3 a4 => Sys2Proof.Machine.execFcmp a0 a1 a2 a3 a4 s
  | .fcvt a0 a1 a2 a3 a4 a5 => Sys2Proof.Machine.execFcvt a0 a1 a2 a3 a4 a5 s
  | .frnd a0 a1 a2 a3 => Sys2Proof.Machine.execFrnd a0 a1 a2 a3 s
  | .ftoi a0 a1 a2 a3 => Sys2Proof.Machine.execFtoi a0 a1 a2 a3 s
  | .itof a0 a1 a2 => Sys2Proof.Machine.execItof a0 a1 a2 s
  | .vadd a0 a1 a2 a3 => Sys2Proof.Machine.execVadd a0 a1 a2 a3 s
  | .vsub a0 a1 a2 a3 => Sys2Proof.Machine.execVsub a0 a1 a2 a3 s
  | .vmul a0 a1 a2 a3 => Sys2Proof.Machine.execVmul a0 a1 a2 a3 s
  | .vmulh a0 a1 a2 a3 => Sys2Proof.Machine.execVmulh a0 a1 a2 a3 s
  | .vand a0 a1 a2 a3 => Sys2Proof.Machine.execVand a0 a1 a2 a3 s
  | .vor a0 a1 a2 a3 => Sys2Proof.Machine.execVor a0 a1 a2 a3 s
  | .vxor a0 a1 a2 a3 => Sys2Proof.Machine.execVxor a0 a1 a2 a3 s
  | .vshl a0 a1 a2 a3 => Sys2Proof.Machine.execVshl a0 a1 a2 a3 s
  | .vshr a0 a1 a2 a3 => Sys2Proof.Machine.execVshr a0 a1 a2 a3 s
  | .vsar a0 a1 a2 a3 => Sys2Proof.Machine.execVsar a0 a1 a2 a3 s
  | .vmin a0 a1 a2 a3 => Sys2Proof.Machine.execVmin a0 a1 a2 a3 s
  | .vmax a0 a1 a2 a3 => Sys2Proof.Machine.execVmax a0 a1 a2 a3 s
  | .vcmp a0 a1 a2 a3 a4 => Sys2Proof.Machine.execVcmp a0 a1 a2 a3 a4 s
  | .vsel a0 a1 a2 a3 a4 a5 => Sys2Proof.Machine.execVsel a0 a1 a2 a3 a4 a5 s
  | .vperm a0 a1 a2 a3 => Sys2Proof.Machine.execVperm a0 a1 a2 a3 s
  | .vbcast a0 a1 a2 a3 a4 => Sys2Proof.Machine.execVbcast a0 a1 a2 a3 a4 s
  | .vred a0 a1 a2 a3 a4 a5 => Sys2Proof.Machine.execVred a0 a1 a2 a3 a4 a5 s
  | .viota a0 a1 a2 => Sys2Proof.Machine.execViota a0 a1 a2 s
  | .vmov a0 a1 a2 a3 => Sys2Proof.Machine.execVmov a0 a1 a2 a3 s
  | .vtoi a0 a1 a2 a3 a4 a5 => Sys2Proof.Machine.execVtoi a0 a1 a2 a3 a4 a5 s
  | .kop a0 a1 a2 a3 a4 => Sys2Proof.Machine.execKop a0 a1 a2 a3 a4 s
  | .requant a0 a1 a2 a3 a4 => Sys2Proof.Machine.execRequant a0 a1 a2 a3 a4 s
  | .vdot4 a0 a1 a2 a3 => Sys2Proof.Machine.execVdot4 a0 a1 a2 a3 s
  | .vxmov a0 a1 a2 a3 => Sys2Proof.Machine.execVxmov a0 a1 a2 a3 s
  | .fn a0 a1 a2 a3 => Sys2Proof.Machine.execFn a0 a1 a2 a3 s
  | .fnp a0 a1 a2 a3 => Sys2Proof.Machine.execFnp a0 a1 a2 a3 s
  | .frcp a0 a1 a2 => Sys2Proof.Machine.execFrcp a0 a1 a2 s
  | .frsq a0 a1 a2 => Sys2Proof.Machine.execFrsq a0 a1 a2 s
  | .mcfg a0 a1 => Sys2Proof.Machine.execMcfg a0 a1 s
  | .tcfg a0 a1 a2 => Sys2Proof.Machine.execTcfg a0 a1 a2 s
  | .tzero a0 a1 => Sys2Proof.Machine.execTzero a0 a1 s
  | .treshape a0 a1 a2 => Sys2Proof.Machine.execTreshape a0 a1 a2 s
  | .tldq a0 a1 a2 => Sys2Proof.Machine.execTldq a0 a1 a2 s
  | .tld a0 a1 a2 => Sys2Proof.Machine.execTld a0 a1 a2 s
  | .tst a0 a1 a2 a3 => Sys2Proof.Machine.execTst a0 a1 a2 a3 s
  | .tstO a0 a1 a2 a3 => Sys2Proof.Machine.execTstO a0 a1 a2 a3 s
  | .qbind a0 a1 a2 => Sys2Proof.Machine.execQbind a0 a1 a2 s
  | .qdrop a0 a1 a2 a3 => Sys2Proof.Machine.execQdrop a0 a1 a2 a3 s
  | .chain a0 a1 a2 => Sys2Proof.Machine.execChain a0 a1 a2 s
  | .chainm a0 a1 a2 a3 => Sys2Proof.Machine.execChainm a0 a1 a2 a3 s
  | .chfin a0 a1 => Sys2Proof.Machine.execChfin a0 a1 s
  | .stsave a0 a1 a2 a3 => Sys2Proof.Machine.execStsave a0 a1 a2 a3 s
  | .stld a0 a1 => Sys2Proof.Machine.execStld a0 a1 s
  | .stldMerge a0 a1 a2 => Sys2Proof.Machine.execStldMerge a0 a1 a2 s
  | .mcall a0 a1 => Sys2Proof.Machine.execMcall a0 a1 s
  | .mrep a0 a1 => Sys2Proof.Machine.execMrep a0 a1 s
  | .mvb a0 a1 a2 => Sys2Proof.Machine.execMvb a0 a1 a2 s
  | .mv a0 a1 a2 => Sys2Proof.Machine.execMv a0 a1 a2 s
  | .mpoll a0 a1 => Sys2Proof.Machine.execMpoll a0 a1 s
  | .chld a0 a1 a2 => Sys2Proof.Machine.execChld a0 a1 a2 s
  | .ftld a0 a1 a2 => Sys2Proof.Machine.execFtld a0 a1 a2 s
  | .fmld a0 a1 a2 => Sys2Proof.Machine.execFmld a0 a1 a2 s
  | .rowstat a0 a1 a2 a3 a4 => Sys2Proof.Machine.execRowstat a0 a1 a2 a3 a4 s
  | .cpy a0 a1 => Sys2Proof.Machine.execCpy a0 a1 s
  | .cpyl a0 a1 a2 a3 => Sys2Proof.Machine.execCpyl a0 a1 a2 a3 s
  | .cpyq a0 a1 a2 => Sys2Proof.Machine.execCpyq a0 a1 a2 s
  | .kvcommit a0 a1 a2 a3 => Sys2Proof.Machine.execKvcommit a0 a1 a2 a3 s
  | .give a0 a1 a2 a3 a4 => Sys2Proof.Machine.execGive a0 a1 a2 a3 a4 s
  | .take a0 a1 a2 a3 a4 => Sys2Proof.Machine.execTake a0 a1 a2 a3 a4 s
  | .cbcfg a0 a1 a2 => Sys2Proof.Machine.execCbcfg a0 a1 a2 s
  | .cbpush a0 a1 => Sys2Proof.Machine.execCbpush a0 a1 s
  | .cbpop a0 a1 a2 => Sys2Proof.Machine.execCbpop a0 a1 a2 s
  | .cpyst a0 a1 => Sys2Proof.Machine.execCpyst a0 a1 s
  | .ttinv a0 a1 a2 a3 => Sys2Proof.Machine.execTtinv a0 a1 a2 a3 s
  | .badd a0 a1 a2 a3 a4 => Sys2Proof.Machine.execBadd a0 a1 a2 a3 a4 s
  | .bfadd a0 a1 a2 a3 a4 => Sys2Proof.Machine.execBfadd a0 a1 a2 a3 a4 s
  | .bmin a0 a1 a2 a3 a4 a5 => Sys2Proof.Machine.execBmin a0 a1 a2 a3 a4 a5 s
  | .bmax a0 a1 a2 a3 a4 a5 => Sys2Proof.Machine.execBmax a0 a1 a2 a3 a4 a5 s
  | .band a0 a1 a2 a3 a4 => Sys2Proof.Machine.execBand a0 a1 a2 a3 a4 s
  | .bor a0 a1 a2 a3 a4 => Sys2Proof.Machine.execBor a0 a1 a2 a3 a4 s
  | .bxor a0 a1 a2 a3 a4 => Sys2Proof.Machine.execBxor a0 a1 a2 a3 a4 s
  | .bswp a0 a1 a2 a3 a4 => Sys2Proof.Machine.execBswp a0 a1 a2 a3 a4 s
  | .bcas a0 a1 a2 a3 a4 => Sys2Proof.Machine.execBcas a0 a1 a2 a3 a4 s
  | .bfaa a0 a1 a2 a3 a4 => Sys2Proof.Machine.execBfaa a0 a1 a2 a3 a4 s
  | .tktake a0 a1 a2 => Sys2Proof.Machine.execTktake a0 a1 a2 s
  | .tknext a0 a1 a2 a3 => Sys2Proof.Machine.execTknext a0 a1 a2 a3 s
  | .put a0 a1 a2 a3 a4 => Sys2Proof.Machine.execPut a0 a1 a2 a3 a4 s
  | .lqbind a0 a1 a2 a3 a4 a5 => Sys2Proof.Machine.execLqbind a0 a1 a2 a3 a4 a5 s
  | .radd a0 a1 a2 a3 a4 a5 => Sys2Proof.Machine.execRadd a0 a1 a2 a3 a4 a5 s
  | .rcas a0 a1 a2 a3 a4 => Sys2Proof.Machine.execRcas a0 a1 a2 a3 a4 s
  | .rswp a0 a1 a2 a3 a4 => Sys2Proof.Machine.execRswp a0 a1 a2 a3 a4 s
  | .rred a0 a1 a2 a3 a4 => Sys2Proof.Machine.execRred a0 a1 a2 a3 a4 s
  | .rget a0 a1 a2 a3 a4 => Sys2Proof.Machine.execRget a0 a1 a2 a3 a4 s
  | .rput a0 a1 a2 a3 a4 => Sys2Proof.Machine.execRput a0 a1 a2 a3 a4 s
  | .beadld a0 a1 a2 a3 a4 => Sys2Proof.Machine.execBeadld a0 a1 a2 a3 a4 s
  | .pnew a0 a1 a2 => Sys2Proof.Machine.execPnew a0 a1 a2 s
  | .pgrow a0 a1 a2 => Sys2Proof.Machine.execPgrow a0 a1 a2 s
  | .ptrim a0 a1 a2 => Sys2Proof.Machine.execPtrim a0 a1 a2 s
  | .post a0 a1 a2 => Sys2Proof.Machine.execPost a0 a1 a2 s
  | .precv a0 a1 a2 => Sys2Proof.Machine.execPrecv a0 a1 a2 s
  | .pfree a0 a1 => Sys2Proof.Machine.execPfree a0 a1 s
  | .bundlePresentation => Sys2Proof.Machine.execBundlePresentation s
  | .deferredTrap => Sys2Proof.Machine.execDeferredTrap s
  | .latencyWriteback => Sys2Proof.Machine.execLatencyWriteback s
  | .landingDataArrival => Sys2Proof.Machine.execLandingDataArrival s
  | .freezeTimeout => Sys2Proof.Machine.execFreezeTimeout s
  | .commandRecordEntry => Sys2Proof.Machine.execCommandRecordEntry s
  | .slipStop => Sys2Proof.Machine.execSlipStop s
  | .secondaryForcedIssue => Sys2Proof.Machine.execSecondaryForcedIssue s
  | .cbProducerCompletion => Sys2Proof.Machine.execCbProducerCompletion s
  | .cbConsumerCompletion => Sys2Proof.Machine.execCbConsumerCompletion s
  | .takeFlip => Sys2Proof.Machine.execTakeFlip s
  | .cbpopGrant => Sys2Proof.Machine.execCbpopGrant s
  | .deliveredResultWrite => Sys2Proof.Machine.execDeliveredResultWrite s
  | .cbcfgApply => Sys2Proof.Machine.execCbcfgApply s
  | .completionRecord => Sys2Proof.Machine.execCompletionRecord s
  | .ttinvCompletion => Sys2Proof.Machine.execTtinvCompletion s
  | .portAccess => Sys2Proof.Machine.execPortAccess s
  | .tileTableMiss => Sys2Proof.Machine.execTileTableMiss s
  | .pageAnswer => Sys2Proof.Machine.execPageAnswer s
  | .uncorrectableHbmError => Sys2Proof.Machine.execUncorrectableHbmError s
  | .bankAccess => Sys2Proof.Machine.execBankAccess s
  | .dmUncorrectableError => Sys2Proof.Machine.execDmUncorrectableError s
  | .monitorWake => Sys2Proof.Machine.execMonitorWake s
  | .barrierCompletion => Sys2Proof.Machine.execBarrierCompletion s
  | .superstepCompletion => Sys2Proof.Machine.execSuperstepCompletion s
  | .putArrival => Sys2Proof.Machine.execPutArrival s
  | .pairFire => Sys2Proof.Machine.execPairFire s
  | .chainCommit => Sys2Proof.Machine.execChainCommit s
  | .mvGroupCommit => Sys2Proof.Machine.execMvGroupCommit s
  | .charmCompletion => Sys2Proof.Machine.execCharmCompletion s
  | .charmWrite => Sys2Proof.Machine.execCharmWrite s
  | .boundQueueWord => Sys2Proof.Machine.execBoundQueueWord s
  | .requestInject => Sys2Proof.Machine.execRequestInject s
  | .remoteRequestReceive => Sys2Proof.Machine.execRemoteRequestReceive s
  | .remoteReply => Sys2Proof.Machine.execRemoteReply s
  | .retransmitTimeout => Sys2Proof.Machine.execRetransmitTimeout s
  | .circuitFlitArrival => Sys2Proof.Machine.execCircuitFlitArrival s
  | .sendFifoPartialFlush => Sys2Proof.Machine.execSendFifoPartialFlush s
  | .unsafeMapUpdate => Sys2Proof.Machine.execUnsafeMapUpdate s
  | .laneRetirement => Sys2Proof.Machine.execLaneRetirement s
  | .beadTableCommit => Sys2Proof.Machine.execBeadTableCommit s
  | .mailboxGrant => Sys2Proof.Machine.execMailboxGrant s
  | .parcelArrival => Sys2Proof.Machine.execParcelArrival s
  | .parcelDeliveryAck => Sys2Proof.Machine.execParcelDeliveryAck s
  | .schedulingPoint => Sys2Proof.Machine.execSchedulingPoint s
  | .urgentStop => Sys2Proof.Machine.execUrgentStop s
  | .roleSwap => Sys2Proof.Machine.execRoleSwap s
  | .sliceEndEviction => Sys2Proof.Machine.execSliceEndEviction s
  | .antiStarvationRaise => Sys2Proof.Machine.execAntiStarvationRaise s
  | .launchEnd => Sys2Proof.Machine.execLaunchEnd s
  | .deadlineExpiry => Sys2Proof.Machine.execDeadlineExpiry s
  | .wrapupBudgetExpiry => Sys2Proof.Machine.execWrapupBudgetExpiry s
  | .waittLimitExpiry => Sys2Proof.Machine.execWaittLimitExpiry s
  | .firmwareCycleWalk => Sys2Proof.Machine.execFirmwareCycleWalk s
  | .debugHaltRequest => Sys2Proof.Machine.execDebugHaltRequest s
  | .debugResume => Sys2Proof.Machine.execDebugResume s
  | .locketCancel => Sys2Proof.Machine.execLocketCancel s
  | .debuggerRegisterWrite => Sys2Proof.Machine.execDebuggerRegisterWrite s
  | .coreSplitWrite => Sys2Proof.Machine.execCoreSplitWrite s
  | .bankFmtWrite => Sys2Proof.Machine.execBankFmtWrite s
  | .registerWrite => Sys2Proof.Machine.execRegisterWrite s
  | .doorbell => Sys2Proof.Machine.execDoorbell s
  | .queueIdleUnmap => Sys2Proof.Machine.execQueueIdleUnmap s
  | .nopPacket => Sys2Proof.Machine.execNopPacket s
  | .launch => Sys2Proof.Machine.execLaunch s
  | .barrierAnd => Sys2Proof.Machine.execBarrierAnd s
  | .barrierAndEvaluation => Sys2Proof.Machine.execBarrierAndEvaluation s
  | .signal => Sys2Proof.Machine.execSignal s
  | .copy => Sys2Proof.Machine.execCopy s
  | .segtab => Sys2Proof.Machine.execSegtab s
  | .segmentCopyComplete => Sys2Proof.Machine.execSegmentCopyComplete s
  | .frontEndTick => Sys2Proof.Machine.execFrontEndTick s
  | .tokenBucketEmpty => Sys2Proof.Machine.execTokenBucketEmpty s
  | .frontEndWake => Sys2Proof.Machine.execFrontEndWake s
  | .queueReset => Sys2Proof.Machine.execQueueReset s
  | .queueDestroy => Sys2Proof.Machine.execQueueDestroy s
  | .tableUpdate => Sys2Proof.Machine.execTableUpdate s
  | .lockstepMismatch => Sys2Proof.Machine.execLockstepMismatch s
  | .workerFailure => Sys2Proof.Machine.execWorkerFailure s
  | .vfRecord => Sys2Proof.Machine.execVfRecord s
  | .vfReset => Sys2Proof.Machine.execVfReset s
  | .interfaceLock => Sys2Proof.Machine.execInterfaceLock s
  | .interfaceStart => Sys2Proof.Machine.execInterfaceStart s
  | .interfaceStop => Sys2Proof.Machine.execInterfaceStop s
  | .sessionEnd => Sys2Proof.Machine.execSessionEnd s
  | .getMeasurements => Sys2Proof.Machine.execGetMeasurements s
  | .tileMove => Sys2Proof.Machine.execTileMove s
  | .preCopyRound => Sys2Proof.Machine.execPreCopyRound s
  | .finalRound => Sys2Proof.Machine.execFinalRound s
  | .activation => Sys2Proof.Machine.execActivation s
  | .migrationEnd => Sys2Proof.Machine.execMigrationEnd s
  | .bringUp => Sys2Proof.Machine.execBringUp s
  | .recoveryBootImage => Sys2Proof.Machine.execRecoveryBootImage s
  | .ptpSync => Sys2Proof.Machine.execPtpSync s
  | .timeUnlocked => Sys2Proof.Machine.execTimeUnlocked s
  | .healthMonitorSample => Sys2Proof.Machine.execHealthMonitorSample s
  | .healthReport => Sys2Proof.Machine.execHealthReport s
  | .fatalEvent => Sys2Proof.Machine.execFatalEvent s
  | .fatalNodump => Sys2Proof.Machine.execFatalNodump s
  | .resetPackage => Sys2Proof.Machine.execResetPackage s
  | .stripTransferCompletion => Sys2Proof.Machine.execStripTransferCompletion s
  | .dispenserAccess => Sys2Proof.Machine.execDispenserAccess s
  | .endpointPacketArrival => Sys2Proof.Machine.execEndpointPacketArrival s
  | .spdmSessionStart => Sys2Proof.Machine.execSpdmSessionStart s

end Sys2Proof.Machine
end

