-- ==== Sys2Proof/Machine/Cycle.lean ====
section
/-!
DEFINITION. What one step does: the choice of the event that happens (log 3), and the words of a bundle that issues, run in
the order of columns and slots (03 R60).
-/
namespace Sys2Proof.Machine

/-- Events that fall at a fixed time and happen before any other one, in the order in which they became due: among them a
record that can enter its queue does so (01 R16), and a buffer's advances and the firings they bring (01 R26, R28). -/
def State.prompt (s : State) : Event → Bool
  | .wrapupBudgetExpiry _ | .roleSwap _ | .antiStarvationRaise _
  | .secondaryForcedIssue _ | .freezeTimeout _ _ | .cbProducerCompletion _ _ | .cbConsumerCompletion _ _ | .cbpopGrant _ _
  | .slipStop _ => true
  | .beadTableCommit => match s.fab.commit with | some n => decide (n ≤ s.now) | none => true
  | .commandRecordEntry u q => (canEnter (s.unit u) q).isSome
  | _ => false
/-- The unit whose turn is next; any unit begins a new cycle when no turn is left. -/
def State.nextUnit (s : State) : Nat :=
  match s.turns with
  | [] => 0
  | x :: _ => x.1
/-- Expiries fall at the end of the cycle of their deadline check: what else happens in that cycle stands (22 R372, R385). -/
def Event.atEnd : Event → Bool
  | .deadlineExpiry _ | .waittLimitExpiry _ => true
  | _ => false
/-- The next turn of the cycle; with none left, an expiry of this cycle, a launch's before a WAITT's; then a new cycle. -/
def State.nextTurn (s : State) : Event × State :=
  match s.turns with
  | _ :: _ => (.bundlePresentation s.nextUnit, s)
  | [] =>
    match (s.agenda.filter (fun e => match e with | .deadlineExpiry _ => true | _ => false) ++ s.agenda.filter Event.atEnd).head? with
    | some e => (e, { s with agenda := s.agenda.erase e })
    | none => (.bundlePresentation s.nextUnit, s)
/-- The event that happens, off the agenda: a prompt one; else one of the agenda or the next turn, by free choice. -/
def State.nextEvent (s : State) : Event × State :=
  match s.agenda.find? s.prompt with
  | some e => (e, { s with agenda := s.agenda.erase e })
  | none =>
    match s.agenda.filter (fun e => !e.atEnd) with
    | [] => s.nextTurn
    | l =>
      let (n, s) := s.choose
      match l[n % (l.length + 1)]? with
      | some e => (e, { s with agenda := s.agenda.erase e })
      | none => s.nextTurn
/-- One word of the bundle runs in its column. -/
def runWord (w : Nat × Instr) (s : State) : R := exec w.2 { s with col := w.1, ev := .none }
/-- The words of a bundle run in order. A word that rejects the bundle, or holds it, is given instead, and the state it
left. -/
def runWords : List (Nat × Instr) → State → Except ((Nat × Instr) × State) R
  | [], s => .ok (.next s)
  | w :: r, s =>
    match runWord w s with
    | .next s => if s.ctl.on then runWords r s else .error (w, s)
    | x => .ok x
/-- A word that holds or traps its bundle only because of what the words before it did, in the state before the bundle: the
same trap is taken, or the bundle is held, and no slot issues (08 R171). `x` is the state that the word left. -/
def State.together (s x : State) : State :=
  let t := x.task s.fg.key
  let ends := s.ctl.bodyEnd
  let s : State := { s with issue := [], ctl := Ctl.none, claspFull := x.claspFull }
  let n := t.trapCause.toNat
  if !t.alive || t.exiting then s.kill s.fg.key
  else if t.active && !s.fg.active then
    s.enterTrap { TrapReq.at (bits n 7 0) (bits n 10 8) (bits n 12 11) with bodyEnd := ends }
  else s
/-- What follows a meaning. -/
def R.andThen (x : R) (f : State → State) : R :=
  match x with
  | .next s => .next (f s)
  | r => r
/-- A bundle that issues: its words run, and what they decided follows. A bundle that one word rejects or holds has that
word's effect alone (04 R83, 03 R62); what it does only after its bundle's earlier words is judged there. -/
def State.issueBundle (s : State) : R :=
  let accs := s.fg.accesses (s.issue.map (fun w => (w.1, 0, w.2)))
  let old := s.fg.pend
  match runWords s.issue { s with issue := [] } with
  | .ok x => x.andThen (finishBundle accs old)
  | .error (w, x) => (runWord w { s with issue := [] }).andThen (fun y =>
      finishBundle [] old (if y.ctl.on then State.together { s with issue := [] } x else y))
/-- One step: an event happens, and a bundle that it issues runs. -/
def State.oneStep (s : State) : R :=
  let (e, s) := s.nextEvent
  match exec e.instr { s with ev := e } with
  | .next s => if s.ctl.on then s.issueBundle else .next s
  | x => x
/-- The package has stopped, the dump or its report is out, and nothing is left to happen before the next reset. -/
def State.ended (s : State) : Bool :=
  decide (s.fw.phase = .stopped) && s.fw.dumped && s.agenda.isEmpty && s.turns.isEmpty

/-! A program placed for the next step (log 10). -/

/-- The slot of a word that `decodeTableWord` reads: the first of tableSlots that decodes it. -/
def tableSlot (w : Lane) : Option (Slot × Instr) := firstSlot w tableSlots
/-- A header with one word present; MREP's bundle is a safe point (13 R255). -/
def placedHeader (sl : Slot) (i : Instr) : Nat :=
  2 ^ sl.num + (match i with | .mrep .. => 16384 | _ => 0)
/-- The column a placed word stands in: a word that names a tile register stands in that register's column. -/
def placedCol : Instr → Nat
  | .tcfg _ _ x | .tzero _ x | .treshape _ _ x | .tld _ _ x | .tst _ _ _ x | .mv _ _ x | .rowstat _ _ _ _ x
  | .chainm _ _ x _ => x.toNat / 2
  | _ => 0
/-- The launch of the placed task on a wide unit: one bundle of text. -/
def placedLaunch (text : List (List Lane)) : Launch :=
  { Launch.zero with
    live := true, dies := [0], left := [0],
    obj := { CodeObj.empty with text := text.map (fun ws => [ws]), lives := [(0, ⟨[], []⟩)], hxldOk := true } }
/-- The placed task: the primary one of unit 0, with all of its core's LS and a page of DM, at bundle 0. -/
def placedTask (i : Instr) : Task :=
  { Task.zero with
    key := 1, launch := 1, width := 4, state := .primary, hasLs := true, lsSize := 1024, dmSize := 4096, priv := needsPriv i,
    comm := match i with | .put .. => true | _ => false }
/-- The package with one word as the bundle that its next step presents. -/
def State.placeWord (s : State) (w : Lane) : State :=
  match tableSlot w with
  | none => s
  | some (sl, i) =>
    let words := vset (vset (Vector.replicate 6 (0 : Lane)) 0 (BitVec.ofNat 32 (placedHeader sl i))) (sl.num + 1) w
    let text := (List.range 4).map (fun c => if c = placedCol i then words.toList else List.replicate 6 0)
    let s : State := { s with
      fg := placedTask i, bg := [], col := 0, issue := [], ctl := Ctl.none, agenda := [], turns := [(0, false)], nid := max s.nid 2,
      launches := fins s.launches 1 (placedLaunch text) }
    let s := s.setUnit 0 { UnitSt.zero with prim := 1, text := vset (Vector.replicate 2 0) 0 1 }
    s.setBytes (imemNo 0 (placedCol i) 0) (words.toList.flatMap (fun w => bytesOf 4 w.toNat))

end Sys2Proof.Machine
end

