-- ==== Sys2Proof/Machine/Step.lean ====
section
/-!
DEFINITION. One step of the package.
-/
namespace Sys2Proof.Machine

/-- One step: what `State.oneStep` does, until nothing is left to happen. -/
def step (s : State) : Host.Outcome State Fault Refusal :=
  if s.ended then .fault .packageStopped else s.oneStep

/-- The package with a word of the opcode table stored where its next step fetches (log 10). -/
def State.withFetchWord (s : State) (_nbits w : Nat) : State := s.placeWord (BitVec.ofNat 32 w)

end Sys2Proof.Machine
end

