-- ==== Sys2Proof/Safety.lean ====
section
/-!
DEFINITION. What a safe run is, in the terms the statements use: the invariant of the state, reachability, and a run that
never ends but by the package's own stop.
-/
namespace Sys2Proof.Machine

/-- The invariant: memory is in its canonical form, so that equal memories are equal data. -/
def State.Inv (s : State) : Prop := Memory.wf s.mem

/-- One step leads from a state to another. -/
def State.Steps (s t : State) : Prop := step s = .next t

/-- Some steps lead from a state to another. -/
inductive State.Reaches : State → State → Prop
  | refl (s : State) : State.Reaches s s
  | tail {s t u : State} : State.Reaches s t → t.Steps u → State.Reaches s u

/-- A state from which no run ends but in the stop of the whole package after a fatal event (26 R429). -/
def State.Safe (s : State) : Prop :=
  ∀ t, State.Reaches s t → (∃ u, t.Steps u) ∨ step t = .fault .packageStopped

end Sys2Proof.Machine
end

