-- ==== Sys2Proof/Certificates/Slice0/Obligations.lean ====
section
/-!
DEFINITION. The statements for the provers. The first part gives the shapes that the statements are written in.
-/
namespace Sys2Proof.Claims
open Sys2Proof Sys2Proof.Machine

/-- A one-operand integer word, when it runs, reads a, then writes f of it at a latency. -/
def Int1 (c : Guard → RegF → RegF → Instr) (lat : Nat) (f : Word → Word) : Prop :=
  ∀ (s : State) (g : Guard) (d a : RegF), s.guard g = true →
    exec (c g d a) s = .next ((s.takeI a).2.putI d lat (f (s.takeI a).1))
/-- A two-operand integer word, when it runs, reads a, then b, then writes f of them at a latency. -/
def Int2 (c : Guard → RegF → RegF → RegF → Instr) (lat : Nat) (f : Word → Word → Word) : Prop :=
  ∀ (s : State) (g : Guard) (d a b : RegF), s.guard g = true →
    exec (c g d a b) s = .next (((s.takeI a).2.takeI b).2.putI d lat (f (s.takeI a).1 ((s.takeI a).2.takeI b).1))
/-- An integer word that reads a, b and its destination d in this order, then writes f of them at latency 1. -/
def Int3 (c : Guard → RegF → RegF → RegF → Instr) (f : Word → Word → Word → Word) : Prop :=
  ∀ (s : State) (g : Guard) (d a b : RegF), s.guard g = true →
    exec (c g d a b) s = .next ((((s.takeI a).2.takeI b).2.takeI d).2.putI d 1
      (f (s.takeI a).1 ((s.takeI a).2.takeI b).1 (((s.takeI a).2.takeI b).2.takeI d).1))
/-- An integer word with a 7-bit immediate, taken signed. -/
def IntI (c : Guard → RegF → RegF → BitVec 7 → Instr) (f : Word → Int → Word) : Prop :=
  ∀ (s : State) (g : Guard) (d a : RegF) (im : BitVec 7), s.guard g = true →
    exec (c g d a im) s = .next ((s.takeI a).2.putI d 1 (f (s.takeI a).1 im.toInt))

/-- The bundle address a displacement away (04 R79). -/
def away (pc : Nat) (d : Int) : Nat := (((pc : Int) + d) % 4096).toNat

/-- A v operand as read at issue. -/
def vAt (s : State) (f : RegF) : VWord := s.bank.v (s.bank.physV f)
/-- A V4 operand as read at issue. -/
def v4At (s : State) (fl : BitVec 1) (n : BitVec 5) : VWord := s.bank.v (s.bank.physV4 fl n)
/-- A vector word of one operand: each lane of the destination takes f of the operand's lane, at a latency. -/
def Lanes1 (c : Guard → RegF → RegF → Instr) (lat : Nat) (f : Lane → Lane) : Prop :=
  ∀ (s : State) (g : Guard) (d a : RegF), s.guard g = true →
    ∃ v : VWord, exec (c g d a) s = .next (s.putV d lat v) ∧ ∀ n, n < 32 → lane v n = f (lane (vAt s a) n)
/-- The same with two operands. -/
def Lanes2 (c : Guard → RegF → RegF → RegF → Instr) (lat : Nat) (f : Lane → Lane → Lane) : Prop :=
  ∀ (s : State) (g : Guard) (d a b : RegF), s.guard g = true →
    ∃ v : VWord, exec (c g d a b) s = .next (s.putV d lat v) ∧
      ∀ n, n < 32 → lane v n = f (lane (vAt s a) n) (lane (vAt s b) n)
/-- The same for a V4 word of three operands. -/
def Lanes4 (c : Guard → BitVec 1 → BitVec 5 → BitVec 5 → BitVec 5 → BitVec 5 → Instr) (lat : Nat)
    (f : Lane → Lane → Lane → Lane) : Prop :=
  ∀ (s : State) (g : Guard) (fl : BitVec 1) (d a b e : BitVec 5), s.guard g = true →
    ∃ v : VWord, exec (c g fl d a b e) s = .next (s.post lat (.v (s.bank.physV4 fl d) v)) ∧
      ∀ n, n < 32 → lane v n = f (lane (v4At s fl a) n) (lane (v4At s fl b) n) (lane (v4At s fl e) n)
/-- A compare of two vectors: bit n of the k register takes the condition of lane n, at latency 4. -/
def LaneTest (c : Guard → BitVec 3 → RegF → RegF → Instr) (f : Lane → Lane → Prop) : Prop :=
  ∀ (s : State) (g : Guard) (k : BitVec 3) (a b : RegF), s.guard g = true →
    ∃ m : Lane, exec (c g k a b) s = .next (s.post 4 (.k k.toNat m)) ∧
      ∀ n, n < 32 → (m.getLsbD n = true ↔ f (lane (vAt s a) n) (lane (vAt s b) n))
/-- A vector word of one operand whose lanes each stand in a relation to the operand's lane. -/
def LanesRel1 (c : Guard → RegF → RegF → Instr) (lat : Nat) (rel : Lane → Lane → Prop) : Prop :=
  ∀ (s : State) (g : Guard) (d a : RegF), s.guard g = true →
    ∃ v : VWord, exec (c g d a) s = .next (s.putV d lat v) ∧ ∀ n, n < 32 → rel (lane (vAt s a) n) (lane v n)
/-- The same with two operands. -/
def LanesRel2 (c : Guard → RegF → RegF → RegF → Instr) (lat : Nat) (rel : Lane → Lane → Lane → Prop) : Prop :=
  ∀ (s : State) (g : Guard) (d a b : RegF), s.guard g = true →
    ∃ v : VWord, exec (c g d a b) s = .next (s.putV d lat v) ∧
      ∀ n, n < 32 → rel (lane (vAt s a) n) (lane (vAt s b) n) (lane v n)
/-- The same for a V4 word of three operands. -/
def LanesRel4 (c : Guard → BitVec 1 → BitVec 5 → BitVec 5 → BitVec 5 → BitVec 5 → Instr) (lat : Nat)
    (rel : Lane → Lane → Lane → Lane → Prop) : Prop :=
  ∀ (s : State) (g : Guard) (fl : BitVec 1) (d a b e : BitVec 5), s.guard g = true →
    ∃ v : VWord, exec (c g fl d a b e) s = .next (s.post lat (.v (s.bank.physV4 fl d) v)) ∧
      ∀ n, n < 32 → rel (lane (v4At s fl a) n) (lane (v4At s fl b) n) (lane (v4At s fl e) n) (lane v n)
/-- The magnitude of the fp32 code c below the infinity (05 Table 05.1): 8 exponent and 23 fraction bits, bias 127. -/
noncomputable def fp32Mag (c : Nat) : ℝ :=
  if c < 2 ^ 23 then (c : ℝ) * (2 : ℝ) ^ (-149 : Int)
  else ((2 ^ 23 + c % 2 ^ 23 : Nat) : ℝ) * (2 : ℝ) ^ (((c / 2 ^ 23 : Nat) : Int) - 150)
/-- RoundNE of a magnitude (05 R94): the sign stands in bit 31; from 2^128 − 2^103 on the result is infinite; below, no finite
code is nearer, and of two equally near ones the even stands. -/
def NearestEven (neg : Bool) (x : ℝ) (w : Lane) : Prop :=
  w.msb = neg ∧
  ((2 : ℝ) ^ 128 - (2 : ℝ) ^ 103 ≤ x → w.toNat % 2 ^ 31 = 0x7F800000) ∧
  (x < (2 : ℝ) ^ 128 - (2 : ℝ) ^ 103 → w.toNat % 2 ^ 31 < 0x7F800000 ∧
    ∀ c : Nat, c < 0x7F800000 → c ≠ w.toNat % 2 ^ 31 →
      |x - fp32Mag (w.toNat % 2 ^ 31)| < |x - fp32Mag c| ∨
        (|x - fp32Mag (w.toNat % 2 ^ 31)| = |x - fp32Mag c| ∧ w.toNat % 2 = 0))
/-- RoundNE of an exact result into fp32 (05 R93, R94): the canonical NaN, a signed infinity, or the nearest value. -/
def Rounds (x : Fp) (w : Lane) : Prop :=
  match x with
  | .nan => w = 0x7FC00000
  | .inf neg => w = if neg then 0xFF800000 else 0x7F800000
  | .fin neg m e => NearestEven neg ((m : ℝ) * (2 : ℝ) ^ e) w
/-- 1/x of a lane, rounded: a NaN stays, an infinity gives a zero and a zero an infinity of its sign (14 R269). -/
def Reciprocal (x w : Lane) : Prop :=
  match f32 x with
  | .nan => w = 0x7FC00000
  | .inf neg => w = if neg then 0x80000000 else 0
  | .fin neg m e => if m = 0 then w = (if neg then 0xFF800000 else 0x7F800000) else NearestEven neg (1 / ((m : ℝ) * (2 : ℝ) ^ e)) w
/-- 1/√x of a lane, rounded: below zero a NaN, of a zero an infinity of its sign, of +∞ zero (14 R269). -/
def ReciprocalRoot (x w : Lane) : Prop :=
  match f32 x with
  | .nan => w = 0x7FC00000
  | .inf neg => w = if neg then 0x7FC00000 else 0
  | .fin neg m e =>
    if m = 0 then w = (if neg then 0xFF800000 else 0x7F800000)
    else if neg then w = 0x7FC00000
    else NearestEven false (1 / Real.sqrt ((m : ℝ) * (2 : ℝ) ^ e)) w
/-- Element n of width w bits of a vector (07 Table 07.1). -/
def elem (w : Nat) (v : VWord) (n : Nat) : Nat := v.toNat / 2 ^ (w * n) % 2 ^ w
/-- Whether a fp32 lane is a NaN. -/
abbrev nanLane (x : Lane) : Prop := x.toNat % 2 ^ 31 > 0x7F800000
/-- Whether a vector has a NaN lane. -/
def nanIn (v : VWord) : Bool := (List.range 32).any (fun n => decide (nanLane (lane v n)))
/-- The exact value of a finite number. -/
def value : Fp → Rat
  | .fin neg m e => (if neg then -1 else 1) * m * (2 : Rat) ^ e
  | _ => 0
/-- A finite number. -/
def finite : Fp → Prop
  | .fin _ _ _ => True
  | _ => False

/-- The address generator that a memory word names. -/
def agAt (s : State) (a : BitVec 3) : Ag := vget Ag.zero s.bank.ag a.toNat
/-- The writes in flight after the INC step of a memory word (06 R144). -/
def stepped (s : State) (a : BitVec 3) (n : BitVec 1) : List Pend :=
  if n = 1 then insPend ⟨s.fg.dist + 1, s.col, .ag a.toNat ((agAt s a).inc 1 1), 0⟩ s.fg.pend else s.fg.pend
/-- The size in bytes of a load and of a store by the variant field (06 Table 06.14). -/
def ldSize (sc : BitVec 2) : Nat := if sc = 0 then 128 else if sc = 1 then 64 else if sc = 2 then 8 else 4
def stSize (sc : BitVec 2) : Nat := if sc = 0 then 8 else if sc = 1 then 4 else if sc = 2 then 2 else 1
/-- A landing of the running word joins those in flight: access number, register, arrival offset, data, deferred trap. -/
def landed (s t : State) (l : BitVec 4) (o : BitVec 6) (d : Option VWord) (trap : Option Nat) : Prop :=
  (⟨s.nid, s.fg.dist + o.toNat, s.col, l.toNat, d, trap, 0, false⟩ : Landing) ∈ t.fg.land
/-- The data of the running word's access is on its way to its column, with the deferred trap it brings. -/
def flown (s t : State) (d : VWord) (trap : Option Nat) : Prop :=
  t.flight = s.flight ++ [⟨s.fg.key, s.nid, d, trap⟩] ∧ .landingDataArrival s.fg.key s.nid ∈ t.agenda
/-- A state asks for one request and one event to perform it; memory stays as it is. -/
def asks (s t : State) (r : Req) (e : Event) : Prop :=
  t.reqs = s.reqs ++ [r] ∧ e ∈ t.agenda ∧ t.nid = s.nid + 1 ∧ t.mem = s.mem
/-- The low bytes of an i register, from the least significant (06 R143). -/
def lowBytes (s : State) (r : BitVec 4) (n : Nat) : List Byte :=
  (List.range n).map (fun k => (s.bank.i r.toNat).extractLsb' (8 * k) 8)

/-- The access of an LDS or STS at a byte of its core's LS, as it would take its place in the task's order (02 R30). -/
def lsAcc (s : State) (c : BitVec 4) (load : Bool) (b size : Nat) (val : List Byte) : Acc :=
  s.newAcc s.nid c.toNat load (!load) (.ls (s.fg.unit / 4)) (lsNo (s.fg.unit / 4) b) size val

/-- A word forms a record and nothing else: with no register operand, with one, with two. -/
def Forms0 (i : Guard → Instr) (q : Queue) : Prop :=
  ∀ (s : State) (g : Guard), s.guard g = true → exec (i g) s = .next (s.formRec (i g) q 0 0 0 0 0)
def Forms1 (i : Guard → RegF → Instr) (q : Queue) : Prop :=
  ∀ (s : State) (g : Guard) (a : RegF), s.guard g = true →
    exec (i g a) s = .next ((s.takeI a).2.formRec (i g a) q (s.takeI a).1 0 0 0 0)
def Forms2 (i : Guard → RegF → RegF → Instr) (q : Queue) : Prop :=
  ∀ (s : State) (g : Guard) (a b : RegF), s.guard g = true →
    exec (i g a b) s = .next (((s.takeI a).2.takeI b).2.formRec (i g a b) q (s.takeI a).1 ((s.takeI a).2.takeI b).1 0 0 0)
/-- A word forms a record whose result the i register of its field a awaits (10 R205). -/
def FormsResult (i : Guard → RegF → Instr) (q : Queue) (cb : Option Nat) : Prop :=
  ∀ (s : State) (g : Guard) (a : RegF), s.guard g = true →
    ∃ t, exec (i g a) s = .next t ∧
      t = { s.formRec (i g a) q 0 0 0 0 (s.bank.physI a) with
        fg := { s.fg with results := s.fg.results ++ [⟨s.nid, s.col, false, s.bank.physI a, none, cb⟩] } }
/-- The slip window of the running task's unit after one more record. -/
def slipAfter (s t : State) (r : Rec) : Prop :=
  (t.unit s.fg.unit).slip = (s.unit s.fg.unit).slip ++ [r]
/-- A bank word: its access takes its place in the task's order, its record enters the slip window, and a returning one
takes a landing (16 R283, R284). -/
def FormsBank (i : Guard → RegF → Instr) (b : Option RegF) (pair : Bool) (c : BitVec 4) (size : Nat) (ret : Bool) : Prop :=
  ∀ (s : State) (g : Guard) (a : RegF), s.guard g = true →
    let x := (s.takeI a).1
    let s2 := match b with | some f => ((s.takeI a).2.takeI f).2 | none => (s.takeI a).2
    let y := match b with | some f => ((s.takeI a).2.takeI f).1 | none => 0
    let e := match b with | some f => if pair then s2.bank.i (s2.bank.physI (f + 1)) else 0 | none => 0
    let off := x.toNat % 2 ^ 28 - x.toNat % 2 ^ 28 % size
    ∃ t, exec (i g a) s = .next t ∧
      slipAfter s t ⟨s.nid + 1, s.fg.key, s.col, i g a, x, y, e, [], (s.unit s.fg.unit).count, s.nid, 0, 0⟩ ∧
      (∃ ord, t.fg.accs = s.fg.accs ++ [⟨s.nid, c.toNat, ret, true, .dm s.fg.die,
        dmNo s.fg.die (vget 0 (s.vf s.fg.vf).dmBase s.fg.die * 32768 + off), size, [], ord⟩]) ∧
      .commandRecordEntry s.fg.unit .bank ∈ t.agenda ∧ t.nid = s.nid + 2 ∧ t.mem = s.mem ∧
      t.fg.land = (if ret then s.fg.land ++ [⟨s.nid, s.fg.dist + max 8 (x.toNat / 2 ^ 54 % 64), s.col, x.toNat / 2 ^ 60 % 16,
        none, none, 0, false⟩] else s.fg.land)
/-- A remote word (18 R311, R314, R315): access, record, and, for a returning one, two pending results: the value goes to
field a, the status to field b. The access of a plain store holds the bytes it stores. -/
def FormsRemote (i : Guard → RegF → RegF → Instr) (pair : Bool) (c : BitVec 4) (size : Nat) (ld st ret plain : Bool) : Prop :=
  ∀ (s : State) (g : Guard) (a b : RegF), s.guard g = true →
    let x := (s.takeI a).1
    let s2 := ((s.takeI a).2.takeI b).2
    let y := ((s.takeI a).2.takeI b).1
    let e := if pair then s2.bank.i (s2.bank.physI (b + 1)) else 0
    ∃ t, exec (i g a b) s = .next t ∧
      slipAfter s t ⟨s.nid + 1, s.fg.key, s.col, i g a b, x, y, e, [], (s.unit s.fg.unit).count, s.nid, s.bank.physI a, 0⟩ ∧
      (∃ ord, t.fg.accs = s.fg.accs ++ [⟨s.nid, c.toNat, ld, st, s.remoteHome x, s.remoteAddr x size, size,
        if plain then bytesOf size y.toNat else [], ord⟩]) ∧
      .commandRecordEntry s.fg.unit .fabric ∈ t.agenda ∧ t.nid = s.nid + 2 ∧ t.mem = s.mem ∧
      t.fg.results = (if ret then s.fg.results ++ [⟨s.nid + 1, s.col, false, s.bank.physI a, none, none⟩,
        ⟨s.nid, s.col, false, s.bank.physI b, none, none⟩] else s.fg.results)
/-- A parcel command (19 R330): its record carries the operands, its result goes to field a. -/
def FormsParcel (i : Guard → RegF → RegF → Instr) (readsA : Bool) : Prop :=
  ∀ (s : State) (g : Guard) (a b : RegF), s.guard g = true →
    let s1 := if readsA then (s.takeI a).2 else s
    let x := if readsA then (s.takeI a).1 else 0
    let y := (s1.takeI b).1
    ∃ t, exec (i g a b) s = .next t ∧
      slipAfter s t ⟨s.nid, s.fg.key, s.col, i g a b, x, y, 0, [], (s.unit s.fg.unit).count, 0, s.bank.physI a, 0⟩ ∧
      t.fg.results = s.fg.results ++ [⟨s.nid, s.col, false, s.bank.physI a, none, none⟩] ∧
      .commandRecordEntry s.fg.unit .fabric ∈ t.agenda ∧ t.nid = s.nid + 1 ∧ t.mem = s.mem

/-- An event happens, and what it leaves has a property. -/
def Becomes (i : Instr) (e : Event) (s : State) (P : State → Prop) : Prop :=
  ∃ t, exec i { s with ev := e } = .next t ∧ P t
/-- No task sleeps: a write to DM then wakes and grants nothing. -/
def awake (s : State) : Prop := ∀ x, x ∈ s.tasks → x.sleep = none

/-- A trap of a task waits, deferred, behind those that already do. -/
def deferredNow (s t : State) (k cause col : Nat) : Prop :=
  (t.task k).deferred = (s.task k).deferred ++ [⟨cause, col⟩]
/-- A pending result of a task has a value. -/
def resulted (t : State) (k id : Nat) (w : Word) : Prop :=
  ∀ x, x ∈ (t.task k).results → x.id = id → x.val = some (w.setWidth 1024)
/-- The waiter edge of a task at a barrier stands: it did already, or its insertion made it stand. -/
def edged (s : State) (b : Barr) (obj : Word) (t : State) : Prop :=
  (s.fg.first = true ∧ t = s) ∨ (s.fg.first = false ∧ (s.metBar b).claspInsert obj none = .ok t)
/-- The trap of a wait's first step: what the word popped from link registers stays there, as in `s`. In the cycle of the
deadline's expiry the bundle does not issue, and the status is DIVERTED (22 R385). -/
def heldTrap (s t0 : State) (cause : Nat) : State :=
  let u : State := { t0 with fg := { t0.fg with banks := s.fg.banks } }
  if .deadlineExpiry t0.fg.launch ∈ t0.agenda ∧ t0.fg.expired = false then { u.status 4 with issue := [], ctl := Ctl.none }
  else u.trapNow cause 0
/-- A side of a circular buffer has advanced (01 R24): its tiles are the other side's, its pointer has moved. -/
def advanced (s t : State) (u n : Nat) (prod : Bool) : Prop :=
  let d := s.cb u n
  let t0 := s.task (vget 0 (s.unit u).cbTask n)
  (∀ k, k < cbNum d prod → t.owner (coreOf t0.unit) (t0.lsBase + cbTile d (cbPtr d prod + k)) = cbOwner d (!prod) u) ∧
    cbPtr (t.cb u n) prod = (cbPtr d prod + cbNum d prod) % (2 * cbCount d) ∧ cbPtr (t.cb u n) (!prod) = cbPtr d (!prod) ∧
    (n, prod) ∉ (t.unit u).cbDue
/-- A copy channel is free and reports an end: status of 10 Table 10.7 and index. -/
def channelEnded (t : State) (c status index : Nat) : Prop :=
  (t.chan c).run = none ∧ (t.chan c).status = status ∧ (t.chan c).index = index % 65536
/-- Loaded data is on its way to a landing, and the request is gone. -/
def flies (t : State) (r : Req) (d : VWord) (trap : Option Nat) : Prop :=
  (⟨r.task, r.id, d, trap⟩ : Flight) ∈ t.flight ∧ .landingDataArrival r.task r.id ∈ t.agenda ∧ t.req r.id = none
/-- A task's sleep has ended with a code of 22 Table 22.6. -/
def woken (t : State) (k code : Nat) : Prop := (t.task k).sleep = none ∧ (t.task k).waitStat.toNat % 8 = code

/-- A strip's command has ended with a status, and, for status 1, a cause. -/
def stripEnded (t : State) (c status : Nat) : Prop :=
  (t.strip c).run = none ∧ (t.strip c).fired = false ∧ (t.strip c).lastStatus = status
/-- The first PASSES entries that a strip may use of a queue. -/
def heads (s : State) (c : Nat) (qb : Bool) : List QEnt := (s.entries c qb).take (s.strip c).passes
/-- A USED entry of an output port's table names the input where flits are held under a key (18 R305, R306). -/
def namesInput (m : FMap Nat) (port key : Nat) : Prop :=
  ∃ e, e ∈ m ∧ e.1 / 256 = port ∧ e.2 / 2 ^ 14 % 4 = 1 ∧ beadKey e.2 = key
/-- No command of the copy engine waits or runs on the unit of a column: none can fire with what happens there. -/
def noCopies (s : State) (c : Nat) : Prop := (s.unit (s.unitOfCol c).1).qCopy = [] ∧ ∀ e ∈ s.chans, e.2.run = none
/-- Entries of one pair or group: the same rows, the format, 64 columns, no poison. -/
abbrev fit (l : List QEnt) (fmt rows : Nat) : Prop := ∀ e, e ∈ l → e.fmt = fmt ∧ e.rows = rows ∧ e.cols = 64 ∧ e.pois = false

/-- The eight conditions of WAITV and WAITT between a word and a value (22 R371). -/
def condition (cond : Nat) (w v : Word) : Bool :=
  match cond with
  | 0 => decide (w = v) | 1 => decide (w ≠ v) | 2 => decide (w.toInt < v.toInt) | 3 => decide (v.toInt ≤ w.toInt)
  | 4 => decide (w.toNat < v.toNat) | 5 => decide (v.toNat ≤ w.toNat) | 6 => decide (w &&& v = 0) | _ => decide (w &&& v ≠ 0)
/-- A message of firmware or to a host has gone out last. -/
def tells (s t : State) (vf sort : Nat) (ws : List Nat) : Prop := t.out = s.out ++ [.host vf sort ws]
/-- A queue's control block reads, with a property of its fields. -/
def qcbIs (t : State) (vf q : Nat) (P : Qcb → Prop) : Prop := ∃ new, t.qcb vf q = some new ∧ P new
/-- The package as the start of a packet leaves it before the packet's own effect: READ has advanced. -/
def started (s : State) (vf q : Nat) (c : Qcb) : State :=
  (s.putQcb vf q 1 ((c.read + 1) % 4294967296)).setQueue vf q { s.queue vf q with since := s.now }
/-- The fields of a packet pass the checks of 24 R401, and it stands at the head of a queue that may start it. -/
def atHead (s : State) (vf q ty : Nat) (c : Qcb) (p : List Nat) : Prop :=
  s.head vf q = .packet c p ∧ lget 0 p 0 % 256 = ty ∧ s.packetBad vf p = false

/-- The words of a bundle run one after another, each in its column, and none holds or rejects the bundle. -/
def RunsTo : List (Nat × Instr) → State → State → Prop
  | [], s, t => t = s
  | w :: r, s, t => ∃ u, exec w.2 { s with col := w.1, ev := .none } = .next u ∧ u.ctl.on = true ∧ RunsTo r u t
/-- The state in which a primary stream presents its bundle: its turn is taken, the unit has counted a cycle. -/
def begun (s : State) (u : Nat) : State :=
  ({ s with ev := .bundlePresentation u, turns := s.turns.tail }).mapUnit u (fun x => { x with count := x.count + 1, slots := [] })
/-- The foreground task is the primary one of a unit whose turn is next, and nothing stands before its next bundle: no event
waits, no write or landing is in flight, and the task is neither stopped nor asleep, idle, leaving nor trapping. -/
def Ready (s : State) (u : Nat) : Prop :=
  (s.ended = false ∧ s.agenda = [] ∧ s.turns.head? = some (u, false)) ∧
  (s.fg.key ≠ 0 ∧ (s.unit u).prim = s.fg.key ∧ s.fg.unit = u ∧ slipStopped ((begun s u).unit u) = false ∧
    (s.unit u).swap = false ∧ (s.unit u).secIdle < 4096) ∧
  (s.fg.wrapLeft = none ∧ s.fg.divDue = false ∧ s.fg.pend = [] ∧ s.fg.land = [] ∧ s.fg.exiting = false ∧ s.fg.stop = .run ∧ s.fg.idle = 0 ∧
    s.fg.waiting = false) ∧
  (s.fg.doom = false ∧ s.fg.divert = false ∧ s.fg.resumeAt = none ∧ s.fg.deferred = [] ∧ s.fg.dbgReq = false ∧
    s.fg.pages = [] ∧ s.fg.evict = false ∧ s.fg.inBody = none)
/-- The bundle at the pc is these words and passes every check of 04 R83; no hold of 03 R62 applies. -/
def Presented (s : State) (ws : List DWord) : Prop :=
  s.inWindow s.fg = true ∧ (s.launchOf s.fg).obj.overlay = false ∧ s.shapeBad s.fg (s.fetch s.fg) = none ∧
  decodeWords s.fg (presentWords (s.fetch s.fg)) = .ok ws ∧ (s.fg.priv = true ∨ ∀ w, w ∈ ws → needsPriv w.2.2 = false) ∧
  s.fg.chk.toNat % 2 = 0 ∧ s.lqbindWaits s.fg ws = false ∧
  State.step5 { s with ctl := { Ctl.none with on := true, mark := s.nid } } s.fg ws = none ∧
  s.bundleWaits s.fg (s.fetch s.fg) ws = false ∧
  ∀ n w, ws[n]? = some w → s.fg.lqLost (ws.take n) w = false

/-- A word of the C, I or F slot that reads registers and writes registers, and does nothing else. -/
def onlyRegisters (i : Instr) : Bool :=
  i.slot.isSome && decide (queueOf i = none) && (match i with
    | .br .. | .brn .. | .call .. | .callr .. | .jmpr .. | .ret .. | .loop .. | .loopr .. | .lexit .. | .trap .. | .eret ..
    | .bkpt .. | .fencec .. | .fencesc .. | .halt .. | .exit .. | .yield .. | .bar .. | .waitv .. | .waitt .. | .lock ..
    | .unlock .. | .tkwait .. | .sstep .. | .valid .. | .wobj .. | .wdrop .. | .prio .. | .lds .. | .sts .. | .ldt ..
    | .stt .. | .ldd .. | .std .. | .tqry .. | .pld .. | .pst .. | .pldref .. | .pstref .. => false
    | _ => true)
/-- A transfer, a loop word, a class fence, ERET, EXIT or YIELD. -/
def onlyControl (i : Instr) : Bool :=
  match i with
  | .br .. | .brn .. | .call .. | .callr .. | .jmpr .. | .ret .. | .loop .. | .loopr .. | .lexit .. | .eret ..
  | .fencec .. | .exit .. | .yield .. => true
  | _ => false
/-- A word that only forms a record, PUT among them: an unprivileged word of a queue, but POST, PRECV and MREP. -/
def onlyRecord (i : Instr) : Bool :=
  decide (queueOf i ≠ none) && (match i with
    | .post .. | .precv .. | .mrep .. | .ttinv .. | .beadld .. => false
    | _ => true)
/-- A load, or a store that is not to LS. -/
def onlyRequest (i : Instr) : Bool :=
  match i with
  | .lds .. | .ldd .. | .std .. | .ldt .. | .stt .. | .tqry .. | .pld .. | .pst .. | .pldref .. => true
  | _ => false
/-- A wait, registration or scheduler word that writes no memory. -/
def onlyWait (i : Instr) : Bool :=
  match i with
  | .bar .. | .sstep .. | .waitv .. | .waitt .. | .tkwait .. | .wobj .. | .wdrop .. | .prio .. => true
  | _ => false
/-- Every register of a task but the words in its link registers. -/
def sameRegs (t u : Task) : Prop := ∀ c, ∃ q, u.bank c = { t.bank c with lq := q }

end Sys2Proof.Claims

open Sys2Proof Sys2Proof.Machine Sys2Proof.Claims

/-! The I slot. -/

/-- Table 06.4: what each register–register operation writes, and its latency. Division truncates towards zero; a zero
divisor gives all ones and the dividend. -/
def Obligations.RegisterOperations : Prop :=
  Int2 .add 1 (fun x y => BitVec.ofNat 64 (x.toNat + y.toNat)) ∧
  Int2 .sub 1 (fun x y => BitVec.ofInt 64 (x.toInt - y.toInt)) ∧
  Int2 .and 1 (fun x y => x &&& y) ∧
  Int2 .or 1 (fun x y => x ||| y) ∧
  Int2 .xor 1 (fun x y => x ^^^ y) ∧
  Int2 .shl 1 (fun x y => BitVec.ofNat 64 (x.toNat * 2 ^ (y.toNat % 64))) ∧
  Int2 .shr 1 (fun x y => BitVec.ofNat 64 (x.toNat / 2 ^ (y.toNat % 64))) ∧
  Int2 .sar 1 (fun x y => BitVec.ofInt 64 (x.toInt / 2 ^ (y.toNat % 64))) ∧
  Int2 .min 1 (fun x y => if x.toInt ≤ y.toInt then x else y) ∧
  Int2 .max 1 (fun x y => if x.toInt ≤ y.toInt then y else x) ∧
  Int2 .minu 1 (fun x y => if x.toNat ≤ y.toNat then x else y) ∧
  Int2 .maxu 1 (fun x y => if x.toNat ≤ y.toNat then y else x) ∧
  Int2 .mul 3 (fun x y => BitVec.ofInt 64 (x.toInt * y.toInt)) ∧
  Int2 .mulh 3 (fun x y => (x.signExtend 128 * y.signExtend 128).extractLsb' 64 64) ∧
  Int2 .mulhu 3 (fun x y => (x.setWidth 128 * y.setWidth 128).extractLsb' 64 64) ∧
  Int2 .div 18 (fun x y => if y = 0 then BitVec.allOnes 64 else BitVec.sdiv x y) ∧
  Int2 .rem 18 (fun x y => if y = 0 then x else BitVec.srem x y) ∧
  Int2 .divu 18 (fun x y => if y = 0 then BitVec.allOnes 64 else x / y) ∧
  Int2 .remu 18 (fun x y => if y = 0 then x else x % y)

/-- Table 06.5: the immediate operations; a negative shift amount is a reserved value. -/
def Obligations.ImmediateOperations : Prop :=
  IntI .addi (fun x e => BitVec.ofInt 64 (x.toInt + e)) ∧
  IntI .andi (fun x e => x &&& BitVec.ofInt 64 e) ∧
  IntI .ori (fun x e => x ||| BitVec.ofInt 64 e) ∧
  IntI .xori (fun x e => x ^^^ BitVec.ofInt 64 e) ∧
  (∀ (s : State) (g : Guard) (d a : RegF) (im : BitVec 7), s.guard g = true → im.toNat < 64 →
    exec (.shli g d a im) s =
      .next ((s.takeI a).2.putI d 1 (BitVec.ofNat 64 ((s.takeI a).1.toNat * 2 ^ im.toNat))) ∧
    exec (.shri g d a im) s =
      .next ((s.takeI a).2.putI d 1 (BitVec.ofNat 64 ((s.takeI a).1.toNat / 2 ^ im.toNat))) ∧
    exec (.sari g d a im) s =
      .next ((s.takeI a).2.putI d 1 (BitVec.ofInt 64 ((s.takeI a).1.toInt / 2 ^ im.toNat)))) ∧
  (∀ (g : Guard) (d a : RegF) (im : BitVec 7), 64 ≤ im.toNat →
    (Instr.shli g d a im).wf = false ∧ (Instr.shri g d a im).wf = false ∧ (Instr.sari g d a im).wf = false)

/-- Bit counts, bit fields and the bitwise select. -/
def Obligations.BitOperations : Prop :=
  (∀ (s : State) (g : Guard) (d a : RegF), s.guard g = true →
    ∃ n : Nat, exec (.clz g d a) s = .next ((s.takeI a).2.putI d 1 (BitVec.ofNat 64 n)) ∧
      ((s.takeI a).1 = 0 → n = 64) ∧
      ((s.takeI a).1 ≠ 0 → n < 64 ∧ (s.takeI a).1.getLsbD (63 - n) = true ∧
        ∀ k, 63 - n < k → (s.takeI a).1.getLsbD k = false)) ∧
  Int1 .popc 1 (fun x => BitVec.ofNat 64 ((List.range 64).countP (fun k => x.getLsbD k))) ∧
  Int2 .bfx 1 (fun x y =>
    let pos := y.toNat % 64
    let w := min (y.toNat / 256 % 128) (64 - pos)
    BitVec.ofNat 64 (x.toNat / 2 ^ pos % 2 ^ w)) ∧
  Int3 .bfi (fun x y z =>
    let pos := y.toNat % 64
    let w := min (y.toNat / 256 % 128) (64 - pos)
    BitVec.ofNat 64 (z.toNat - z.toNat / 2 ^ pos % 2 ^ w * 2 ^ pos + x.toNat % 2 ^ w * 2 ^ pos)) ∧
  Int3 .sel (fun x y z => (x &&& z) ||| (y &&& ~~~ z))

/-- Compares into a predicate, the immediates and the move. -/
def Obligations.ComparesAndMoves : Prop :=
  (∀ (s : State) (g : Guard) (r : BitVec 1) (c : BitVec 2) (p : BitVec 4) (a b : RegF), s.guard g = true →
    exec (.cmp g r c p a b) s =
      let x := (s.takeI a).1
      let y := ((s.takeI a).2.takeI b).1
      .next (((s.takeI a).2.takeI b).2.post 2 (.p (s.bank.physPn p.toNat (r.getLsbD 0))
        (match c.toNat with
          | 0 => decide (x = y)
          | 1 => decide (x ≠ y)
          | 2 => decide (x.toInt < y.toInt)
          | _ => decide (x.toNat < y.toNat))))) ∧
  (∀ (s : State) (g : Guard) (r : BitVec 1) (c : BitVec 2) (p : BitVec 4) (a : RegF) (im : BitVec 7), s.guard g = true →
    exec (.cmpi g r c p a im) s =
      let x := (s.takeI a).1
      let y : Word := BitVec.ofInt 64 im.toInt
      .next ((s.takeI a).2.post 2 (.p (s.bank.physPn p.toNat (r.getLsbD 0))
        (match c.toNat with
          | 0 => decide (x = y)
          | 1 => decide (x ≠ y)
          | 2 => decide (x.toInt < im.toInt)
          | _ => decide (x.toNat < y.toNat))))) ∧
  (∀ (s : State) (g : Guard) (d : RegF) (im : BitVec 14), s.guard g = true →
    exec (.li g d im) s = .next (s.putI d 1 (BitVec.ofInt 64 im.toInt)) ∧
    exec (.lih g d im) s =
      .next ((s.takeI d).2.putI d 1 (BitVec.ofNat 64 ((s.takeI d).1.toNat * 16384 + im.toNat)))) ∧
  Int1 .mov 1 (fun x => x)

/-- Crossings out of the I slot and SETIB. -/
def Obligations.Crossings : Prop :=
  (∀ (s : State) (g : Guard) (d a : RegF), s.guard g = true →
    (∃ v : VWord, exec (.moviv g d a) s = .next ((s.takeI a).2.putV d 2 v) ∧
      ∀ n, n < 32 → lane v n = (s.takeI a).1.setWidth 32) ∧
    exec (.movim g d a) s = .next ((s.takeI a).2.post 2 (.mp d.toNat (s.takeI a).1)) ∧
    exec (.movie g d a) s = .next ((s.takeI a).2.post 2 (.ce d.toNat (s.takeI a).1))) ∧
  (∀ (s : State) (g : Guard) (d : RegF) (a : BitVec 6) (n : BitVec 5), s.guard g = true →
    exec (.ldl g d a 0 0 n) s = .next (s.putI d 2 ((lane (vget 0 s.bank.lreg a.toNat) n.toNat).setWidth 64)) ∧
    exec (.ldl g d a 1 0 n) s = .next (s.putI d 2 ((lane (vget 0 s.bank.lreg a.toNat) n.toNat).signExtend 64)) ∧
    exec (.ldl g d a 0 1 n) s =
      .next (s.putI d 2 (BitVec.append (lane (vget 0 s.bank.lreg a.toNat) (n.toNat + 1))
        (lane (vget 0 s.bank.lreg a.toNat) n.toNat)))) ∧
  (∀ (s : State) (g : Guard) (d a : RegF) (c : BitVec 2), s.guard g = true →
    exec (.xmov g d a c) s = .next ((s.takeIn c.toNat a).2.putI d 2 (s.takeIn c.toNat a).1)) ∧
  (∀ (s : State) (g : Guard) (n : BitVec 2) (a : RegF) (im : BitVec 7), s.guard g = true →
    ∃ b : Nat, exec (.setib g n a im) s = .next ((s.takeI a).2.post 3 (.ib n.toNat b)) ∧
      b < (if n.toNat = 0 then 24 else if n.toNat = 1 then 16 else 8) ∧
      ∃ q : Int, (s.takeI a).1.toInt + im.toInt = q * (if n.toNat = 0 then 24 else if n.toNat = 1 then 16 else 8) + b)

/-- Address generators: AGSET, AGPOS and AGINC. -/
def Obligations.AddressGenerators : Prop :=
  (∀ (s : State) (g : Guard) (d a b : RegF), s.guard g = true →
    ∃ x : Ag, exec (.agset g d a b) s = .next (((s.takeI a).2.takeI b).2.post 1 (.ag d.toNat x)) ∧
      x.tid = (s.takeI a).1.setWidth 16 ∧ x.linear = (s.takeI a).1.getLsbD 16 ∧
      ∀ k, k < 4 → vget 0 x.c k = 0 ∧ vget 0 x.st k = ((s.takeI a).2.takeI b).1.extractLsb' (16 * k) 16) ∧
  (∀ (s : State) (g : Guard) (d a : RegF), s.guard g = true →
    ∃ x : Ag, exec (.agpos g d a) s = .next ((s.takeI a).2.post 1 (.ag d.toNat x)) ∧
      (let old := vget Ag.zero s.bank.ag d.toNat
       x.tid = old.tid ∧ x.linear = old.linear ∧ x.st = old.st) ∧
      ∀ k, k < 4 → vget 0 x.c k = (s.takeI a).1.extractLsb' (16 * k) 16) ∧
  (∀ (s : State) (g : Guard) (d : RegF) (m : BitVec 4) (n : BitVec 7), s.guard g = true →
    ∃ x : Ag, exec (.aginc g d m n) s = .next (s.post 1 (.ag d.toNat x)) ∧
      (let old := vget Ag.zero s.bank.ag d.toNat
       x.tid = old.tid ∧ x.linear = old.linear ∧ x.st = old.st ∧
       (old.linear = false → ∀ k, k < 4 → vget 0 x.c k =
         if m.getLsbD k then BitVec.ofInt 16 ((vget 0 old.c k).toNat + n.toInt * (vget 0 old.st k).toInt)
         else vget 0 old.c k) ∧
       (old.linear = true → m.getLsbD 0 = true →
         (vget 0 x.c 0).toNat + 65536 * (vget 0 x.c 1).toNat =
           (((vget 0 old.c 0).toNat + 65536 * (vget 0 old.c 1).toNat +
             n.toInt * (BitVec.append (vget 0 old.st 1) (vget 0 old.st 0)).toInt) % 4294967296).toNat ∧
         vget 0 x.c 2 = vget 0 old.c 2 ∧ vget 0 x.c 3 = vget 0 old.c 3) ∧
       (old.linear = true → m.getLsbD 0 = false → x = old)))

/-! The C slot. -/

/-- Branches, calls, returns and the loop words, and what each leaves for the end of its bundle. -/
def Obligations.ControlTransfers : Prop :=
  (∀ (s : State) (g : Guard) (d : BitVec 21),
    exec (.br g d) s = .next (if s.guard g then
      { s with ctl := { s.ctl with jump := some (away s.fg.pc d.toInt) } } else s) ∧
    exec (.brn g d) s = .next (if s.guard g then s else
      { s with ctl := { s.ctl with jump := some (away s.fg.pc d.toInt) } })) ∧
  (∀ (s : State) (g : Guard) (d : BitVec 21), s.guard g = true →
    exec (.call g d) s = .next { s.post 1 (.ln (BitVec.ofNat 64 ((s.fg.pc + 1) % 4096))) with
      ctl := { s.ctl with jump := some (away s.fg.pc d.toInt) } }) ∧
  (∀ (s : State) (g : Guard), s.guard g = true →
    exec (.ret g) s = .next { s with ctl := { s.ctl with jump := some (s.bank.ln.toNat % 4096) } }) ∧
  (∀ (s : State) (g : Guard) (a : RegF), s.guard g = true →
    exec (.jmpr g a) s = .next { (s.takeI a).2 with
      ctl := { s.ctl with indir := some ((s.takeI a).1.toNat % 4096) } } ∧
    (s.bank.physI a < 56 → exec (.callr g a) s =
      .next { s.post 1 (.ln (BitVec.ofNat 64 ((s.fg.pc + 2) % 4096))) with
        ctl := { s.ctl with indir := some ((s.takeI a).1.toNat % 4096) } }) ∧
    ∃ t, exec (.callr g a) s = .next t ∧ t.ctl = { s.ctl with indir := some ((s.takeI a).1.toNat % 4096) } ∧
      t.fg.pend = insPend ⟨s.fg.dist + 1, s.col, .ln (BitVec.ofNat 64 ((s.fg.pc + 2) % 4096)), 0⟩ s.fg.pend ∧
      t.fg.banks = (s.takeI a).2.fg.banks) ∧
  (∀ (s : State) (g : Guard) (n : BitVec 2), s.guard g = true →
    let k := (vget 0 s.bank.lc n.toNat).toNat
    let down : State := s.post 1 (.lc n.toNat (BitVec.ofNat 64 (k - 1)))
    (∀ d : BitVec 19, exec (.loop g n d) s = .next (
      if k = 0 then s
      else if k = 1 then down
      else { down with ctl := { s.ctl with jump := some (away s.fg.pc d.toInt) } })) ∧
    (∀ (r : BitVec 3) (d : BitVec 16), exec (.loopr g n r d) s = .next (
      if k = 0 then s
      else if k = 1 then down
      else { down with ctl := { s.ctl with
        jump := some (away s.fg.pc d.toInt), rot := some (decide (r.toNat < k - 1)) } })) ∧
    (∀ d : BitVec 19, exec (.lexit g n d) s =
      .next { s.post 1 (.lc n.toNat 0) with ctl := { s.ctl with jump := some (away s.fg.pc d.toInt) } }))

/-- Predicates, the link register, NOP. -/
def Obligations.PredicatesAndLink : Prop :=
  ∀ (s : State) (g : Guard),
    exec (.nop g) s = .next s ∧
    (s.guard g = true →
      (∀ (d : RegF) (v : BitVec 7), exec (.pset g d v) s = .next (s.post 1 (.p (s.bank.physP d) (v.getLsbD 0)))) ∧
      (∀ d a b : RegF,
        let x := s.bank.p (s.bank.physP a)
        let y := s.bank.p (s.bank.physP b)
        exec (.pand g d a b) s = .next (s.post 1 (.p (s.bank.physP d) (x && y))) ∧
        exec (.por g d a b) s = .next (s.post 1 (.p (s.bank.physP d) (x || y))) ∧
        exec (.pxor g d a b) s = .next (s.post 1 (.p (s.bank.physP d) (xor x y))) ∧
        exec (.pnot g d a) s = .next (s.post 1 (.p (s.bank.physP d) (!x))) ∧
        exec (.pandn g d a b) s = .next (s.post 1 (.p (s.bank.physP d) (x && !y)))) ∧
      (∀ d : RegF, exec (.getln g d) s = .next (s.post 2 (if s.bank.physI d < 56 then .i (s.bank.physI d) s.bank.ln
        else .lq (s.bank.physI d - 56) s.bank.ln))) ∧
      (∀ a : RegF, exec (.setln g a) s = .next ((s.takeI a).2.post 2 (.ln (s.takeI a).1))))

/-- TRAP, BKPT, ERET, HALT, EXIT, YIELD and the fences: what each decides for the end of its bundle. HALT in a tile task
traps PRIVILEGED and none of its bundle's words takes effect. -/
def Obligations.TrapAndStopWords : Prop :=
  (∀ (s : State) (g : Guard), s.guard g = true →
    (∀ c : BitVec 8,
      exec (.trap g c) s = .next { s.post 1 (.sr 2 (c.setWidth 64)) with
        ctl := { s.ctl with trap := some 0x06, place := (0, 0) } } ∧
      exec (.bkpt g c) s = .next { s.post 1 (.sr 2 (c.setWidth 64)) with
        ctl := (if s.fg.dbgBkpt then { s.ctl with brk := true } else { s.ctl with trap := some 0x07, place := (0, 0) }) }) ∧
    exec (.eret g) s = .next { s with
      ctl := (if s.fg.trapCause.getLsbD 15 = false then { s.ctl with trap := some 0x02, place := (0, 0) }
        else if s.fg.trapCause.getLsbD 53 then { s.ctl with kill := true }
        else { s.ctl with eret := true }) } ∧
    (s.fg.priv = true → exec (.halt g) s = .next { s with ctl := { s.ctl with halt := true } }) ∧
    exec (.exit g) s = .next { s with ctl := { s.ctl with exit := true } } ∧
    exec (.yield g) s = .next { s with ctl := { s.ctl with yield := true } } ∧
    (∀ m : BitVec 16, exec (.fencec g m) s = .next { s with ctl := { s.ctl with fence := some m } }) ∧
    (∀ sc : BitVec 3,
      let cap := (s.vf s.fg.vf).scopeCap
      let low := if sc.toNat = 7 ∧ cap = 5 then 5 else if (sc.toNat = 5 ∨ sc.toNat = 7) ∧ cap = 6 then 6 else sc.toNat
      exec (.fencesc g sc) s = .next (
        if low = sc.toNat then
          { s with ctl := { s.ctl with fence := some 0xFFFF, fscope := some low } }
        else if (s.vf s.fg.vf).scopeTrap then { s with ctl := { s.ctl with trap := some 0x22, place := (0, 0) } }
        else { s.post 1 (.sr 1 1) with ctl := { s.ctl with fence := some 0xFFFF, fscope := some low } }))) ∧
  (∀ (s : State) (g : Guard), s.fg.priv = false →
    exec (.halt g) s =
      .next { s.enterTrap ⟨0x03, 0, s.col, false, false, false, s.ctl.bodyEnd⟩ with issue := [], ctl := Ctl.none })

/-- Where a task goes after a bundle that issued. -/
def Obligations.TransfersAreTaken : Prop :=
  ∀ (accs : List (Nat × Bool × Bool)) (old : List Pend) (s : State),
    s.ctl.on = true → s.ctl.kill = false → s.ctl.exit = false → s.ctl.trap = none → s.ctl.eret = false →
    let t := (finishBundle accs old s).fg
    t.dist = s.fg.dist + 1 ∧ t.idle = s.ctl.stall ∧
    (∀ a, s.ctl.jump = some a → t.pc = a ∧ t.follower = none) ∧
    (∀ a, s.ctl.jump = none → s.ctl.indir = some a → t.pc = (s.fg.pc + 1) % 4096 ∧ t.follower = some a) ∧
    (∀ a, s.ctl.jump = none → s.ctl.indir = none → s.fg.follower = some a → t.pc = a ∧ t.follower = none) ∧
    (s.ctl.jump = none → s.ctl.indir = none → s.fg.follower = none → s.ctl.bodyEnd = false →
      t.pc = (s.fg.pc + 1) % 4096 ∧ t.follower = none)

/-! The F slot. -/

/-- fp32 arithmetic lanes: the exact result of the operands' values, rounded once to nearest even. What the exact sum and
product are stands in ExactArithmetic. -/
def Obligations.FloatArithmetic : Prop :=
  LanesRel2 .fadd 4 (fun x y w => Rounds (Fp.add (f32 x) (f32 y)) w) ∧
  LanesRel2 .fsub 4 (fun x y w => Rounds (Fp.add (f32 x) (Fp.neg (f32 y))) w) ∧
  LanesRel2 .fmul 5 (fun x y w => Rounds (Fp.mul (f32 x) (f32 y)) w) ∧
  LanesRel4 .ffma 5 (fun x y z w => Rounds (Fp.add (Fp.mul (f32 x) (f32 y)) (f32 z)) w) ∧
  LanesRel4 .ffms 5 (fun x y z w => Rounds (Fp.add (Fp.mul (f32 x) (f32 y)) (Fp.neg (f32 z))) w) ∧
  LanesRel4 .fnma 5 (fun x y z w => Rounds (Fp.add (f32 z) (Fp.neg (Fp.mul (f32 x) (f32 y)))) w) ∧
  LanesRel1 .frcp 10 Reciprocal ∧
  LanesRel1 .frsq 10 ReciprocalRoot

/-- fp32 lanes that pass bits through: sign operations and the lesser and greater, with the canonical NaN on a NaN. -/
def Obligations.FloatSelection : Prop :=
  Lanes1 .fabs 1 (fun x => if nanLane x then 0x7FC00000 else x &&& 0x7FFFFFFF) ∧
  Lanes1 .fneg 1 (fun x => if nanLane x then 0x7FC00000 else x ^^^ 0x80000000) ∧
  Lanes2 .fcps 1 (fun x y => if nanLane x then 0x7FC00000
    else (x &&& 0x7FFFFFFF) ||| (y &&& 0x80000000)) ∧
  Lanes2 .fmin 4 (fun x y => match Fp.cmp (f32 x) (f32 y) with
    | none => 0x7FC00000
    | some .lt => x
    | some .eq => if y.msb && !x.msb then y else x
    | some .gt => y) ∧
  Lanes2 .fmax 4 (fun x y => match Fp.cmp (f32 x) (f32 y) with
    | none => 0x7FC00000
    | some .lt => y
    | some .eq => if x.msb && !y.msb then y else x
    | some .gt => x)

/-- The exact arithmetic that the float words round: sums, products and order of finite values, a NaN operand, ∞ − ∞ and
0 · ∞. -/
def Obligations.ExactArithmetic : Prop :=
  (∀ x y : Fp, finite x → finite y →
    value (Fp.add x y) = value x + value y ∧ finite (Fp.add x y) ∧
    value (Fp.mul x y) = value x * value y ∧ finite (Fp.mul x y) ∧
    value (Fp.neg x) = -value x ∧
    Fp.cmp x y = some (compare (value x) (value y))) ∧
  (∀ x : Fp, Fp.add .nan x = .nan ∧ Fp.add x .nan = .nan ∧ Fp.mul .nan x = .nan ∧ Fp.mul x .nan = .nan ∧
    Fp.cmp .nan x = none ∧ Fp.cmp x .nan = none) ∧
  (∀ n : Bool, Fp.add (.inf n) (.inf (!n)) = .nan ∧ Fp.add (.inf n) (.inf n) = .inf n) ∧
  (∀ (n z : Bool) (e : Int), Fp.mul (.inf n) (.fin z 0 e) = .nan) ∧
  (∀ w : Lane, (f32 w).isNan = true ↔ nanLane w)

/-- Compares of lanes into a lane mask, and mask logic. -/
def Obligations.LaneMasks : Prop :=
  LaneTest (.fcmp · 0) (fun x y => Fp.cmp (f32 x) (f32 y) = some .eq) ∧
  LaneTest (.fcmp · 1) (fun x y => Fp.cmp (f32 x) (f32 y) ≠ some .eq) ∧
  LaneTest (.fcmp · 2) (fun x y => Fp.cmp (f32 x) (f32 y) = some .lt) ∧
  LaneTest (.fcmp · 3) (fun x y => Fp.cmp (f32 x) (f32 y) = some .lt ∨ Fp.cmp (f32 x) (f32 y) = some .eq) ∧
  LaneTest (.fcmp · 4) (fun x y => nanLane x ∨ nanLane y) ∧
  LaneTest (.vcmp · 0) (fun x y => x = y) ∧
  LaneTest (.vcmp · 1) (fun x y => x ≠ y) ∧
  LaneTest (.vcmp · 2) (fun x y => x.toInt < y.toInt) ∧
  LaneTest (.vcmp · 3) (fun x y => x.toInt ≤ y.toInt) ∧
  LaneTest (.vcmp · 4) (fun x y => x.toNat < y.toNat) ∧
  LaneTest (.vcmp · 5) (fun x y => x.toNat ≤ y.toNat) ∧
  (∀ (s : State) (g : Guard) (d a : RegF) (b : BitVec 3), s.guard g = true →
    let x := s.bank.k (a.toNat % 64)
    let y := s.bank.k b.toNat
    exec (.kop g d a 0 b) s = .next (s.post 1 (.k (d.toNat % 64) (x &&& y))) ∧
    exec (.kop g d a 1 b) s = .next (s.post 1 (.k (d.toNat % 64) (x ||| y))) ∧
    exec (.kop g d a 2 b) s = .next (s.post 1 (.k (d.toNat % 64) (x ^^^ y))) ∧
    exec (.kop g d a 3 b) s = .next (s.post 1 (.k (d.toNat % 64) (x &&& ~~~ y))) ∧
    exec (.kop g d a 4 b) s = .next (s.post 1 (.k (d.toNat % 64) (~~~ x))) ∧
    exec (.kop g d a 5 b) s = .next (s.post 1 (.k (d.toNat % 64) x)))

/-- Rounding to integral values and conversion between fp32 and int32. -/
def Obligations.RoundingAndIntegers : Prop :=
  Lanes1 .itof 4 (fun x => rne32 (.fin (decide (x.toInt < 0)) x.toInt.natAbs 0)) ∧
  (∀ (s : State) (g : Guard) (d a : RegF) (r : BitVec 2), s.guard g = true →
    let dir := Dir.ofCode r.toNat
    (∃ v : VWord, exec (.ftoi g d a r) s = .next (s.putV d 4 v
        (if nanIn (vAt s a) then 1 else 0)) ∧
      ∀ n, n < 32 → lane v n = match f32 (lane (vAt s a) n) with
        | .nan => 0
        | .inf neg => if neg then 0x80000000 else 0x7FFFFFFF
        | .fin neg m e =>
          let q : Int := if neg then -(roundIntMag dir neg m e : Int) else roundIntMag dir neg m e
          if q < -2147483648 then 0x80000000 else if 2147483647 < q then 0x7FFFFFFF else BitVec.ofInt 32 q) ∧
    ∃ v : VWord, exec (.frnd g d a r) s = .next (s.putV d 4 v) ∧
      ∀ n, n < 32 → lane v n = match f32 (lane (vAt s a) n) with
        | .nan => 0x7FC00000
        | .inf _ => lane (vAt s a) n
        | .fin neg m e => rne32 (.fin neg (roundIntMag dir neg m e) 0))

/-- FCVT: a narrowing writes the listed elements and keeps the others; a widening writes the whole register. -/
def Obligations.FormatConversion : Prop :=
  ∀ (s : State) (g : Guard) (d a : RegF) (sel part : BitVec 2), s.guard g = true →
    let dir := Dir.ofCode sel.toNat
    let p := part.toNat
    let src := vAt s a
    let old := vAt s d
    (∀ (conv : BitVec 3) (code w : Nat),
      (conv.toNat, code, w) ∈ [(0, 1, 16), (1, 2, 16), (2, 3, 8), (3, 4, 8)] → 32 * (p + 1) * w ≤ 1024 →
      ∃ v : VWord, exec (.fcvt g d a sel conv part) s = .next (s.putV d 4 v
          (if nanIn src then 1 else 0)) ∧
        ∀ n, n < 1024 / w → elem w v n =
          if 32 * p ≤ n ∧ n < 32 * p + 32 then (elemCode code dir true (f32 (lane src (n - 32 * p)))).1 % 2 ^ w
          else elem w old n) ∧
    (p ≤ 1 → ∃ (v : VWord) (fl : Lane), exec (.fcvt g d a sel 4 part) s = .next (s.putV d 4 v fl) ∧
      ∀ n, n < 32 → lane v n =
        if 16 * p ≤ n ∧ n < 16 * p + 16 then
          BitVec.ofNat 32 (fp32.round dir .ieee (fp64.decode (elem 64 src (n - 16 * p))))
        else lane old n) ∧
    (∀ w : Nat, w = (if sel.toNat ≤ 1 then 16 else 8) → 32 * (p + 1) * w ≤ 1024 →
      ∃ (v : VWord) (fl : Lane), exec (.fcvt g d a sel 5 part) s = .next (s.putV d 4 v fl) ∧
        ∀ n, n < 32 → lane v n = BitVec.ofNat 32 (fp32.round .rne .ieee
          ((match sel.toNat with | 0 => bf16 | 1 => fp16 | 2 => fp8e4 | _ => fp8e5).decode (elem w src (32 * p + n))))) ∧
    (p ≤ 1 → ∃ (v : VWord) (fl : Lane), exec (.fcvt g d a sel 6 part) s = .next (s.putV d 4 v fl) ∧
      ∀ n, n < 16 → elem 64 v n = fp64.round .rne .ieee (f32 (lane src (16 * p + n))) % 2 ^ 64)

/-- Integer lanes. -/
def Obligations.IntegerLanes : Prop :=
  Lanes2 .vadd 1 (fun x y => BitVec.ofNat 32 (x.toNat + y.toNat)) ∧
  Lanes2 .vsub 1 (fun x y => BitVec.ofInt 32 (x.toInt - y.toInt)) ∧
  Lanes2 .vmul 3 (fun x y => BitVec.ofInt 32 (x.toInt * y.toInt)) ∧
  Lanes2 .vmulh 3 (fun x y => (x.signExtend 64 * y.signExtend 64).extractLsb' 32 32) ∧
  Lanes2 .vand 1 (fun x y => x &&& y) ∧
  Lanes2 .vor 1 (fun x y => x ||| y) ∧
  Lanes2 .vxor 1 (fun x y => x ^^^ y) ∧
  Lanes2 .vshl 1 (fun x y => BitVec.ofNat 32 (x.toNat * 2 ^ (y.toNat % 32))) ∧
  Lanes2 .vshr 1 (fun x y => BitVec.ofNat 32 (x.toNat / 2 ^ (y.toNat % 32))) ∧
  Lanes2 .vsar 1 (fun x y => BitVec.ofInt 32 (x.toInt / 2 ^ (y.toNat % 32))) ∧
  Lanes2 .vmin 1 (fun x y => if x.toInt ≤ y.toInt then x else y) ∧
  Lanes2 .vmax 1 (fun x y => if x.toInt ≤ y.toInt then y else x) ∧
  (∀ (s : State) (g : Guard) (d a b : RegF), s.guard g = true →
    ∃ v : VWord, exec (.vdot4 g d a b) s = .next (s.putV d 3 v) ∧
      ∀ n, n < 32 → lane v n = BitVec.ofInt 32 ((lane (vAt s d) n).toInt +
        ((List.range 4).map (fun j =>
          ((lane (vAt s a) n).extractLsb' (8 * j) 8).toInt * ((lane (vAt s b) n).extractLsb' (8 * j) 8).toInt)).sum))

/-- Selection and movement of lanes. -/
def Obligations.LaneMovement : Prop :=
  (∀ (s : State) (g : Guard) (fl : BitVec 1) (d a b : BitVec 5) (k : BitVec 3), s.guard g = true →
    ∃ v : VWord, exec (.vsel g fl d a b k) s = .next (s.post 1 (.v (s.bank.physV4 fl d) v)) ∧
      ∀ n, n < 32 → lane v n = if (s.bank.k k.toNat).getLsbD n then lane (v4At s fl a) n else lane (v4At s fl b) n) ∧
  (∀ (s : State) (g : Guard) (d a b : RegF), s.guard g = true →
    ∃ v : VWord, exec (.vperm g d a b) s = .next (s.putV d 2 v) ∧
      ∀ n, n < 32 → lane v n = lane (vAt s a) ((lane (vAt s b) n).toNat % 32)) ∧
  (∀ (s : State) (g : Guard) (d a : RegF) (m : BitVec 5), s.guard g = true →
    (∃ v : VWord, exec (.vbcast g d a 0 m) s = .next (s.putV d 1 v) ∧
      ∀ n, n < 32 → lane v n = lane (vAt s a) m.toNat) ∧
    ∃ v : VWord, exec (.vbcast g d a 1 m) s = .next (s.putV d 1 v) ∧
      ∀ n, n < 32 → lane v n = lane (vAt s a) (2 * (m.toNat / 2) + n % 2)) ∧
  (∀ (s : State) (g : Guard) (d : RegF), s.guard g = true →
    (∃ v : VWord, exec (.viota g d 0) s = .next (s.putV d 1 v) ∧ ∀ n, n < 32 → lane v n = BitVec.ofNat 32 n) ∧
    ∃ v : VWord, exec (.viota g d 1) s = .next (s.putV d 1 v) ∧ ∀ n, n < 32 → lane v n = BitVec.ofNat 32 (2 ^ n)) ∧
  (∀ (s : State) (g : Guard) (d a : RegF), s.guard g = true →
    exec (.vmov g d a 0) s = .next (s.putV d 1 (vAt s a)) ∧
    exec (.vmov g d a 1) s = .next (s.putV d 1 (vget 0 s.bank.lreg (a.toNat % 64))) ∧
    (∀ c : BitVec 2, exec (.vxmov g d a c) s =
      .next (s.putV d 2 ((s.fg.bank c.toNat).v ((s.fg.bank c.toNat).physV a)))) ∧
    ∀ m : BitVec 5,
      exec (.vtoi g d a 0 0 m) s = .next (s.putI d 2 ((lane (vAt s a) m.toNat).setWidth 64)) ∧
      exec (.vtoi g d a 1 0 m) s = .next (s.putI d 2 ((lane (vAt s a) m.toNat).signExtend 64)) ∧
      exec (.vtoi g d a 0 1 m) s =
        .next (s.putI d 2 (BitVec.append (lane (vAt s a) (m.toNat + 1)) (lane (vAt s a) m.toNat))))

/-- Reductions across lanes and REQUANT. -/
def Obligations.ReductionAndRequant : Prop :=
  (∀ (s : State) (g : Guard) (d a : RegF) (k : BitVec 3), s.guard g = true →
    let m := s.bank.k k.toNat
    let x := vAt s a
    let pick (z : Lane) : List Lane := (List.range 32).map (fun n => if m.getLsbD n then lane x n else z)
    let pair (z : Word) : List Word :=
      (List.range 16).map (fun n => if m.getLsbD (2 * n) then BitVec.append (lane x (2 * n + 1)) (lane x (2 * n)) else z)
    (∃ v : VWord, exec (.vred g d a 0 0 k) s = .next (s.putV d 6 v) ∧
      ∀ n, n < 32 → lane v n = tree fadd 0x80000000 5 (pick 0x80000000)) ∧
    (∃ v : VWord, exec (.vred g d a 0 1 k) s = .next (s.putV d 6 v) ∧
      ∀ n, n < 32 → lane v n = tree fmax 0xFF800000 5 (pick 0xFF800000)) ∧
    (∃ v : VWord, exec (.vred g d a 0 2 k) s = .next (s.putV d 6 v) ∧
      ∀ n, n < 32 → lane v n = tree fmin 0x7F800000 5 (pick 0x7F800000)) ∧
    (∃ v : VWord, exec (.vred g d a 0 3 k) s = .next (s.putV d 6 v) ∧
      ∀ n, n < 32 → lane v n = BitVec.ofNat 32 ((pick 0).map BitVec.toNat).sum) ∧
    (∃ v : VWord, exec (.vred g d a 1 0 k) s = .next (s.putV d 6 v) ∧
      ∀ n, n < 16 → elem 64 v n = (tree fadd64 0x8000000000000000 4 (pair 0x8000000000000000)).toNat) ∧
    (∃ v : VWord, exec (.vred g d a 1 1 k) s = .next (s.putV d 6 v) ∧
      ∀ n, n < 16 → elem 64 v n = (tree fmax64 0xFFF0000000000000 4 (pair 0xFFF0000000000000)).toNat) ∧
    ∃ v : VWord, exec (.vred g d a 1 2 k) s = .next (s.putV d 6 v) ∧
      ∀ n, n < 16 → elem 64 v n = (tree fmin64 0x7FF0000000000000 4 (pair 0x7FF0000000000000)).toNat) ∧
  (∀ (s : State) (g : Guard) (d a : RegF) (fl : BitVec 1) (x : BitVec 6), s.guard g = true →
    let code := if fl = 1 then 6 else 5
    let w := if fl = 1 then 4 else 8
    let nb := if fl = 1 then 8 else 4
    let block (b : Nat) : Nat × List Nat × Bool :=
      requantBlock code (elem 8 (vAt s a) b) x.toInt ((List.range 32).map (fun j => elem w (vAt s d) (32 * b + j)))
    ∃ e sc : VWord, exec (.requant g d a fl x) s = .next ((s.putV d 5 e
        (if (List.range nb).any (fun b => (block b).2.2) then 1 else 0)).putV a 5 sc) ∧
      (∀ b, b < nb → elem 8 sc b = (block b).1 % 256 ∧
        ∀ j, j < 32 → elem w e (32 * b + j) = (block b).2.1.getD j 0 % 2 ^ w) ∧
      ∀ b, nb ≤ b → b < 128 → elem 8 sc b = elem 8 (vAt s a) b)

/-- The function stage: a program runs on every lane; a poisoned table gives +0 and a deferred trap; a slot with no valid
program gives the canonical NaN. -/
def Obligations.FunctionStage : Prop :=
  ∀ (s : State) (g : Guard) (d a : RegF) (n : BitVec 4), s.guard g = true →
    let run (par : Bool) (k : Nat) : Lane × Bool :=
      s.fnRun s.fg s.bank n.toNat (lane (vAt s a) k) (if par then lane (vAt s d) k else 0)
    ((∀ k, k < 32 → (run false k).2 = false) →
      ∃ v : VWord, exec (.fn g d a n) s = .next (s.putV d 8 v) ∧ ∀ k, k < 32 → lane v k = (run false k).1) ∧
    ((∀ k, k < 32 → (run true k).2 = false) →
      ∃ v : VWord, exec (.fnp g d a n) s = .next (s.putV d 8 v) ∧ ∀ k, k < 32 → lane v k = (run true k).1) ∧
    (∀ k, k < 32 → (run false k).2 = true → exec (.fn g d a n) s = .next ((s.putV d 8 0).post 8 (.trap 0x12))) ∧
    (∀ k, k < 32 → (run true k).2 = true → exec (.fnp g d a n) s = .next ((s.putV d 8 0).post 8 (.trap 0x12))) ∧
    (vget [] s.bank.fm n.toNat = [] → 5 ≤ n.toNat → ∃ v : VWord, exec (.fn g d a n) s = .next (s.putV d 8 v) ∧
      ∀ k, k < 32 → lane v k = 0x7FC00000)

/-! Special registers. -/

/-- GETSR of every register of Table 06.7. -/
def Obligations.SpecialRegisterReads : Prop :=
  ∀ (s : State) (g : Guard) (d : RegF), s.guard g = true →
    let t := s.fg
    ∃ v : BitVec 14 → Word, (∀ n : BitVec 14, exec (.getsr g d n) s = .next (s.putI d 1 (v n))) ∧
    ((v 0x000).getLsbD 13 = t.comm ∧ ((v 0x000).extractLsb' 14 2).toNat = t.cls % 4 ∧
      ((v 0x000).extractLsb' 16 2).toNat = t.eclass % 4 ∧
      (v 0x000).getLsbD 18 = t.restored ∧ (v 0x000).getLsbD 19 = decide (t.state = .secondary) ∧
      (v 0x000).getLsbD 20 = decide (t.cls < t.inherit) ∧ (v 0x000).getLsbD 21 = decide (0 < t.raises) ∧
      (v 0x000).getLsbD 22 = t.demoted ∧ (v 0x000).getLsbD 23 = t.expired ∧
      (v 0x000).extractLsb' 0 13 = 0 ∧ (v 0x000).extractLsb' 24 40 = 0) ∧
    v 0x001 = t.trapCause ∧ v 0x002 = t.trapArg ∧ v 0x003 = t.chk.setWidth 64 ∧
    v 0x004 = t.arith.setWidth 64 ∧ v 0x005 = t.lsCtl ∧ v 0x006 = t.lsOob ∧
    v 0x007 = BitVec.ofNat 64 (t.lsBase + 65536 * t.lsSize) ∧ v 0x008 = BitVec.ofNat 64 t.dmSize ∧
    v 0x009 = t.pclFault ∧ v 0x00A = t.coord ∧ v 0x00B = BitVec.ofNat 64 (t.used % 2 ^ 48) ∧
    v 0x00C = t.waitStat ∧ v 0x00D = t.taskId ∧ v 0x00E = fget 0 s.claspFull t.die ∧
    (∀ k : BitVec 14, k < 4 → v (0x010 + k) = vget 0 s.bank.lc k.toNat) ∧
    (∀ k : BitVec 14, k < 8 → v (0x020 + k) = (vget 0 (s.core (t.unit / 4)).fmt k.toNat).setWidth 64) ∧
    v 0x030 = (s.core (t.unit / 4)).freeze ∧ v 0x040 = (s.core (t.unit / 4)).split.setWidth 64 ∧
    ∀ k : BitVec 14, k < 33 → v (0x050 + k) = vget 0 t.claspRec k.toNat

/-- SETSR: what it writes, and what the written register holds once the write takes effect. Numbers 0, 1, 2, 6 and 7 of the deferred
writes are those of PRIO, of a demoted scope, of TRAP and BKPT, and of an LS access outside its range that writes LS_OOB_ADDR or
finds it held. -/
def Obligations.SpecialRegisterWrites : Prop :=
  (∀ (s : State) (g : Guard) (d : RegF) (n : BitVec 14), s.guard g = true →
    exec (.setsr g d n) s = .next (
      if n ∈ [(0x003 : BitVec 14), 0x004, 0x005, 0x020, 0x021, 0x022, 0x023, 0x024, 0x025, 0x026, 0x027, 0x040] then
        (s.takeI d).2.post 1 (.sr n.toNat (s.takeI d).1)
      else if 0x010 ≤ n ∧ n < 0x014 then (s.takeI d).2.post 1 (.lc (n.toNat - 0x010) (s.takeI d).1)
      else (s.takeI d).2)) ∧
  (∀ (t : Task) (w : Word),
    t.setSr 0 w = { t with cls := w.toNat } ∧ t.setSr 2 w = { t with trapArg := w } ∧
    t.setSr 3 w = { t with chk := BitVec.ofNat 32 (w.toNat % 2) } ∧
    t.setSr 4 w = { t with arith := BitVec.ofNat 32 (w.toNat % 4) } ∧
    t.setSr 5 w = { t with lsCtl := BitVec.ofNat 64 (w.toNat % 8) } ∧
    t.setSr 1 w = { t with demoted := true } ∧ t.setSr 6 w = { t with lsCtl := t.lsCtl ||| 1, lsOob := w } ∧
    t.setSr 7 w = { t with lsCtl := t.lsCtl ||| 1 }) ∧
  (∀ (s : State) (k col : Nat) (num : Nat) (w : Word), s.fg.key = k → num = 3 ∨ num = 4 ∨ num = 5 →
    exec .registerWrite { s with ev := .registerWrite k col num w } =
      .next { s with ev := .registerWrite k col num w, fg := s.fg.setSr num w }) ∧
  (∀ (s : State) (k col : Nat) (n : Nat) (w : Word), s.fg.key = k → n < 4 →
    exec .registerWrite { s with ev := .registerWrite k col (0x10 + n) w } =
      .next { s with ev := .registerWrite k col (0x10 + n) w,
                     fg := s.fg.setBank col { s.fg.bank col with lc := vset (s.fg.bank col).lc n w } })

/-! Loads and stores. -/

/-- R145's checks of an LS access, in their order. -/
def Obligations.LsAddressChecks : Prop :=
  ∀ (s : State) (t : Task) (a : Ag) (size : Nat), 0 < size →
    let off := (vget 0 a.c 0).toNat + 65536 * (vget 0 a.c 1).toNat
    let z := t.lsSize * 4096
    let mine (b : Nat) : Prop := (s.owner (t.unit / 4) (t.lsBase + b / 4096)).getLsbD 7 = false ∧
      s.givePending t (b / 4096) = false ∧ s.takePending t (b / 4096) = false
    (off % size ≠ 0 → s.lsCheck t a size = .trap 0x05) ∧
    (off % size = 0 → t.lsCtl.getLsbD 2 = false →
      (z ≤ off → t.lsCtl.getLsbD 1 = true → s.lsCheck t a size = .trap 0x13) ∧
      (z ≤ off → t.lsCtl.getLsbD 1 = false → s.lsCheck t a size = .outside true off) ∧
      (off < z → mine off → s.lsCheck t a size = .at (t.lsBase * 4096 + off)) ∧
      (off < z → ¬ mine off → s.lsCheck t a size = .owner (off / 4096))) ∧
    (off % size = 0 → t.lsCtl.getLsbD 2 = true → 0 < z →
      ∃ k : Nat, z ≤ 2 ^ k ∧ (∀ j, z ≤ 2 ^ j → k ≤ j) ∧
        (z ≤ off % 2 ^ k → s.lsCheck t a size = .outside false (off % 2 ^ k)) ∧
        (off % 2 ^ k < z → mine (off % 2 ^ k) → s.lsCheck t a size = .at (t.lsBase * 4096 + off % 2 ^ k)) ∧
        (off % 2 ^ k < z → ¬ mine (off % 2 ^ k) → s.lsCheck t a size = .owner (off % 2 ^ k / 4096)))

/-- LDS: the bytes go to the landing from byte 0 upward and zeros follow; out of range zeros; of a poisoned tile zeros and a
trap. That it performs at issue unless an access before it has to come first is the model's choice (log 7). -/
def Obligations.LsLoads : Prop :=
  ∀ (s : State) (g : Guard) (l : BitVec 4) (a : BitVec 3) (o : BitVec 6) (c : BitVec 4) (n : BitVec 1) (sc : BitVec 2),
    s.guard g = true →
    let core := s.fg.unit / 4
    (∀ b, s.lsCheck s.fg (agAt s a) (ldSize sc) = .at b →
      (lsAcc s c true b (ldSize sc) []).may s.fg.accs = .home → s.tilePoisoned core (b / 4096) = false →
      ∃ t d, exec (.lds g l a o c n sc) s = .next t ∧ landed s t l o none none ∧ flown s t d none ∧ t.fg.pend = stepped s a n ∧
        t.mem = s.mem ∧ ∀ k, k < 128 → elem 8 d k = if k < ldSize sc then (s.byte (lsNo core b + k)).toNat else 0) ∧
    (∀ b, s.lsCheck s.fg (agAt s a) (ldSize sc) = .at b →
      (lsAcc s c true b (ldSize sc) []).may s.fg.accs = .home → s.tilePoisoned core (b / 4096) = true →
      ∃ t, exec (.lds g l a o c n sc) s = .next t ∧ landed s t l o none none ∧ flown s t 0 (some 0x12) ∧ t.fg.pend = stepped s a n ∧
        t.mem = s.mem) ∧
    (∀ b bs, s.lsCheck s.fg (agAt s a) (ldSize sc) = .at b → (lsAcc s c true b (ldSize sc) []).may s.fg.accs = .path bs →
      ∃ t d, exec (.lds g l a o c n sc) s = .next t ∧ landed s t l o none none ∧ flown s t d none ∧ t.fg.pend = stepped s a n ∧
        t.mem = s.mem ∧ ∀ k, k < 128 → elem 8 d k = (bs.getD k 0).toNat) ∧
    (∀ b, s.lsCheck s.fg (agAt s a) (ldSize sc) = .at b → (lsAcc s c true b (ldSize sc) []).may s.fg.accs = .no →
      ∃ t, exec (.lds g l a o c n sc) s = .next t ∧ landed s t l o none none ∧ t.fg.pend = stepped s a n ∧
        t.mem = s.mem ∧ t.fg.accs = s.fg.accs ++ [lsAcc s c true b (ldSize sc) []] ∧
        t.reqs = s.reqs ++ [⟨s.nid, s.fg.key, s.fg.vf, s.fg.die, s.col, .lsLoad, .lds g l a o c n sc, b, ldSize sc, [], 0, 0,
          Ag.zero, core, none⟩]) ∧
    (∀ flag off, s.lsCheck s.fg (agAt s a) (ldSize sc) = .outside flag off →
      ∃ t, exec (.lds g l a o c n sc) s = .next t ∧ landed s t l o none none ∧ flown s t 0 none ∧ t.mem = s.mem ∧
        t.fg.pend = stepped (if flag then (if s.fg.oobArmed = false then s.post 1 (.sr 7 0)
          else s.post 1 (.sr 6 (BitVec.ofNat 64 off))) else s) a n) ∧
    (∀ x, s.lsCheck s.fg (agAt s a) (ldSize sc) = .trap x → exec (.lds g l a o c n sc) s = .next (s.trapNow x 1)) ∧
    (∀ x, s.lsCheck s.fg (agAt s a) (ldSize sc) = .owner x → exec (.lds g l a o c n sc) s = .next (s.trapNow 0x14 1))

/-- STS: the low bytes of the source at the address, every other byte of memory as before. That it performs at issue unless
an access before it has to come first is the model's choice (log 7). -/
def Obligations.LsStores : Prop :=
  ∀ (s : State) (g : Guard) (r : BitVec 4) (a : BitVec 3) (c : BitVec 4) (n : BitVec 1) (sc : BitVec 2),
    s.guard g = true →
    let core := s.fg.unit / 4
    (∀ b, s.lsCheck s.fg (agAt s a) (stSize sc) = .at b →
      (lsAcc s c false b (stSize sc) (lowBytes s r (stSize sc))).may s.fg.accs = .home →
      ∃ t, exec (.sts g r a c n sc) s = .next t ∧ t.fg = { s.fg with pend := stepped s a n } ∧
        (∀ k, k < stSize sc → t.byte (lsNo core b + k) = (s.bank.i r.toNat).extractLsb' (8 * k) 8) ∧
        ∀ x, x < lsNo core b ∨ lsNo core b + stSize sc ≤ x → t.byte x = s.byte x) ∧
    (∀ b, s.lsCheck s.fg (agAt s a) (stSize sc) = .at b →
      (lsAcc s c false b (stSize sc) (lowBytes s r (stSize sc))).may s.fg.accs ≠ .home →
      ∃ t, exec (.sts g r a c n sc) s = .next t ∧ t.mem = s.mem ∧
        t.fg = { s.fg with
          pend := stepped s a n, accs := s.fg.accs ++ [lsAcc s c false b (stSize sc) (lowBytes s r (stSize sc))] } ∧
        t.reqs = s.reqs ++ [⟨s.nid, s.fg.key, s.fg.vf, s.fg.die, s.col, .lsStore, .sts g r a c n sc, b, stSize sc,
          lowBytes s r (stSize sc), 0, 0, Ag.zero, core, none⟩]) ∧
    (∀ flag off, s.lsCheck s.fg (agAt s a) (stSize sc) = .outside flag off →
      exec (.sts g r a c n sc) s = .next { s with
        fg := { s.fg with pend := stepped (if flag then (if s.fg.oobArmed = false then s.post 1 (.sr 7 0)
          else s.post 1 (.sr 6 (BitVec.ofNat 64 off))) else s) a n } }) ∧
    (∀ x, s.lsCheck s.fg (agAt s a) (stSize sc) = .trap x → exec (.sts g r a c n sc) s = .next (s.trapNow x 1)) ∧
    (∀ x, s.lsCheck s.fg (agAt s a) (stSize sc) = .owner x → exec (.sts g r a c n sc) s = .next (s.trapNow 0x14 1))

/-- LDD and STD: the checks at presentation, then a request to the bank of the task's DM; a load's landing waits. The
request and its event are the model's form (log 3). -/
def Obligations.DmRequests : Prop :=
  ∀ (s : State) (g : Guard) (l r : BitVec 4) (a : BitVec 3) (o : BitVec 6) (c : BitVec 4) (n : BitVec 1) (sc : BitVec 2),
    s.guard g = true →
    let t := s.fg
    let off := (vget 0 (agAt s a).c 0).toNat + 65536 * (vget 0 (agAt s a).c 1).toNat
    let home := dmNo t.die (vget 0 (s.vf t.vf).dmBase t.die * 32768 + off)
    (off % ldSize sc = 0 → off + ldSize sc ≤ t.dmSize →
      ∃ t', exec (.ldd g l a o c n sc) s = .next t' ∧ landed s t' l o none none ∧ t'.fg.pend = stepped s a n ∧
        asks s t' ⟨s.nid, t.key, t.vf, t.die, s.col, .dmLoad, .ldd g l a o c n sc, home, ldSize sc, [], 0, 0, Ag.zero, 0, none⟩
          (.bankAccess s.nid)) ∧
    (off % stSize sc = 0 → off + stSize sc ≤ t.dmSize →
      ∃ t', exec (.std g r a c n sc) s = .next t' ∧ t'.fg.pend = stepped s a n ∧
        asks s t' ⟨s.nid, t.key, t.vf, t.die, s.col, .dmStore, .std g r a c n sc, home, stSize sc,
          lowBytes s r (stSize sc), 0, 0, Ag.zero, 0, none⟩ (.bankAccess s.nid)) ∧
    (off % ldSize sc ≠ 0 → exec (.ldd g l a o c n sc) s = .next (s.trapNow 0x05 1)) ∧
    (off % stSize sc ≠ 0 → exec (.std g r a c n sc) s = .next (s.trapNow 0x05 1)) ∧
    (off % ldSize sc = 0 → t.dmSize < off + ldSize sc →
      exec (.ldd g l a o c n sc) s = .next ((s.send (.host t.vf 1 [t.key])).trapNow 0x11 1)) ∧
    (off % stSize sc = 0 → t.dmSize < off + stSize sc →
      exec (.std g r a c n sc) s = .next ((s.send (.host t.vf 1 [t.key])).trapNow 0x11 1))

/-- LDT, STT, TQRY and the parcel accesses: a request to the port with the address generator as it stands at issue.
The request and its event are the model's form (log 3). -/
def Obligations.PortRequests : Prop :=
  ∀ (s : State) (g : Guard) (l r : BitVec 4) (a : BitVec 3) (o : BitVec 6) (c : BitVec 4) (n : BitVec 1) (sc : BitVec 2),
    s.guard g = true →
    let t := s.fg
    let ag := agAt s a
    let off := (vget 0 ag.c 0).toNat + 65536 * (vget 0 ag.c 1).toNat
    let req (k : ReqKind) (i : Instr) (addr size : Nat) (val : List Byte) : Req :=
      ⟨s.nid, t.key, t.vf, t.die, s.col, k, i, addr, size, val, 0, 0, ag, 0, none⟩
    let load (i : Instr) (k : ReqKind) (addr size : Nat) : Prop :=
      ∃ t', exec i s = .next t' ∧ landed s t' l o none none ∧ t'.fg.pend = stepped s a n ∧
        asks s t' (req k i addr size []) (.portAccess s.nid)
    let store (i : Instr) (k : ReqKind) (addr size : Nat) : Prop :=
      ∃ t', exec i s = .next t' ∧ t'.fg.pend = stepped s a n ∧
        asks s t' (req k i addr size (lowBytes s r size)) (.portAccess s.nid)
    load (.ldt g l a o c n sc) .tnLoad t.pc (ldSize sc) ∧
    store (.stt g r a c n sc) .tnStore t.pc (stSize sc) ∧
    (off % ldSize sc = 0 → load (.pld g l a o c n sc) (.pcLoad false) off (ldSize sc)) ∧
    (off % 8 = 0 → load (.pldref g l a o c n) (.pcLoad true) off 8) ∧
    (off % stSize sc = 0 → store (.pst g r a c n sc) .pcStore off (stSize sc)) ∧
    (off % ldSize sc ≠ 0 → exec (.pld g l a o c n sc) s = .next (s.trapNow 0x05 1)) ∧
    (off % 8 ≠ 0 → exec (.pldref g l a o c n) s = .next (s.trapNow 0x05 1)) ∧
    (off % stSize sc ≠ 0 → exec (.pst g r a c n sc) s = .next (s.trapNow 0x05 1)) ∧
    (∀ (d : RegF) (b : BitVec 6), ∃ t', exec (.tqry g d b) s = .next t' ∧
      t'.fg.results = s.fg.results ++ [⟨s.nid, s.col, false, s.bank.physI d, none, none⟩] ∧
      asks s t' ⟨s.nid, t.key, t.vf, t.die, s.col, .query, .tqry g d b, t.pc, 0, [], 0, 0,
        vget Ag.zero s.bank.ag b.toNat, s.bank.physI d, none⟩ (.portAccess s.nid))

/-- PSTREF: the word and its mark are written in one step; a reference past the parcel's end traps ESCAPE. It waits for the
accesses of earlier bundles that its class and fences order before it; that it performs before its bundle issues is the
model's choice (log 7). -/
def Obligations.ReferenceStores : Prop :=
  ∀ (s : State) (g : Guard) (r : BitVec 4) (a : BitVec 3) (c : BitVec 4) (n : BitVec 1), s.guard g = true →
    let ag := agAt s a
    let off := (vget 0 ag.c 0).toNat + 65536 * (vget 0 ag.c 1).toNat
    let h := ag.tid.toNat
    let v := (s.bank.i r.toNat).toNat
    let p := s.parcel s.fg.vf h
    let go := exec (.pstref g r a c n) s
    (off % 8 ≠ 0 → go = .next (s.trapNow 0x05 1)) ∧
    (off % 8 = 0 →
      (∀ x, x ∈ s.pastAccs → x.cls ≠ c.toNat ∧ x.id ∉ s.fg.fencedBy c.toNat) → p.st = .localP → off + 8 ≤ p.len →
      (v < p.len → ∃ t, go = .next t ∧ t.fg = { s.fg with pend := stepped s a n } ∧
        (h < 49152 ∧ h % 4096 < (s.vf s.fg.vf).pclCount →
          (t.parcel s.fg.vf h).marks = setMark p.marks (off / 8) true ∧ (t.parcel s.fg.vf h).len = p.len ∧
          (t.parcel s.fg.vf h).st = .localP) ∧
        ∀ t0, s.vfWrite s.fg.vf (s.parcelAddr s.fg.vf h p off) (bytesOf 8 v) = some t0 → t.mem = t0.mem) ∧
      (p.len ≤ v → go = .next (State.trapNow { s with
        fg := { s.fg with pclFault := BitVec.ofNat 64 (off % 2 ^ 24 * 65536 + h % 65536) } } 0x30 1))) ∧
    (off % 8 = 0 → (∃ x, x ∈ s.pastAccs ∧ (x.cls = c.toNat ∨ x.id ∈ s.fg.fencedBy c.toNat)) →
      go = .next { s with issue := [], ctl := Ctl.none })

/-! The M and D slots: command records. -/

/-- A command record captures the word, both operands, the pair value and the staging registers as they stand at issue, and
waits in the slip window of its unit; nothing else changes. -/
def Obligations.RecordsCapture : Prop :=
  ∀ (s : State) (ins : Instr) (q : Queue) (x y e : Word) (acc dst : Nat),
    let t := s.formRec ins q x y e acc dst
    slipAfter s t ⟨s.nid, s.fg.key, s.col, ins, x, y, e,
      (match q with | .chain => s.bank.mp.toList | .copy => s.bank.ce.toList | _ => []),
      (s.unit s.fg.unit).count, acc, dst, 0⟩ ∧
    (∀ u, u ≠ s.fg.unit → t.unit u = s.unit u) ∧
    (∃ sl, t.unit s.fg.unit = { s.unit s.fg.unit with slip := sl }) ∧
    .commandRecordEntry s.fg.unit q ∈ t.agenda ∧
    (∀ ev, ev ∈ s.agenda → ev ∈ t.agenda) ∧
    ∃ us ag, t = { s with nid := s.nid + 1, units := us, agenda := ag }

/-- The chain engine's words. -/
def Obligations.ChainWords : Prop :=
  Forms1 .mcfg .chain ∧ (∀ n, Forms1 (.tcfg · · n) .chain) ∧ (∀ n, Forms0 (.tzero · n) .chain) ∧
  (∀ n, Forms1 (.treshape · · n) .chain) ∧ Forms2 .tldq .chain ∧ (∀ n, Forms1 (.tld · · n) .chain) ∧
  (∀ k n, Forms1 (.tst · · k n) .chain) ∧ (∀ k, Forms2 (.tstO · · · k) .chain) ∧
  (∀ q, Forms1 (.qbind · · q) .chain) ∧ (∀ q u f, Forms0 (.qdrop · q u f) .chain) ∧
  (∀ i, Forms1 (.chain · · i) .chain) ∧ (∀ m i, Forms1 (.chainm · · m i) .chain) ∧ (∀ k, Forms0 (.chfin · k) .chain) ∧
  (∀ k, Forms2 (.stsave · · · k) .chain) ∧ Forms1 .stld .chain ∧ Forms2 .stldMerge .chain ∧ Forms1 .mcall .chain ∧
  Forms2 .mvb .chain ∧ (∀ n, Forms1 (.mv · · n) .chain) ∧ FormsResult .mpoll .chain none ∧
  Forms2 .chld .chain ∧ (∀ n, Forms1 (.ftld · · n) .chain) ∧ (∀ n, Forms1 (.fmld · · n) .chain) ∧
  (∀ (s : State) (g : Guard) (a : RegF) (o : BitVec 2) (h : BitVec 1) (n : BitVec 3), s.guard g = true →
    ∃ t, exec (.rowstat g a o h n) s = .next t ∧
      slipAfter s t ⟨s.nid, s.fg.key, s.col, .rowstat g a o h n, (s.takeI a).1, 0, 0, s.bank.mp.toList,
        (s.unit s.fg.unit).count, 0, 0, 0⟩ ∧
      t.fg.results = s.fg.results ++ [⟨s.nid, s.col, true, (s.takeI a).1.toNat % 32, none, none⟩]) ∧
  (∀ (s : State) (g : Guard) (a : RegF), s.guard g = true →
    let w := (vget 0 s.bank.mp 7).toNat
    ∃ (t : State) (m : Mrep), exec (.mrep g a) s = .next t ∧ t.fg.mrep = some m ∧
      m.left = (s.takeI a).1.toNat % 4096 + 1 ∧ m.body = (s.fg.pc + 1) % 4096 ∧ m.due = false ∧ m.susp = false ∧
      (w / 2 ^ 63 % 2 = 0 → m.step = none) ∧
      (w / 2 ^ 63 % 2 = 1 → ∃ n : Int, m.step = some (w % 8, w / 8 % 16, n) ∧ -64 ≤ n ∧ n < 64 ∧ (n - (w / 128 % 128 : Nat)) % 128 = 0))

/-- The copy engine's words, and the words that only privileged code runs. -/
def Obligations.CopyWords : Prop :=
  (∀ k, Forms0 (.cpy · k) .copy) ∧ (∀ k, Forms2 (.cpyl · · · k) .copy) ∧ (∀ k q, Forms0 (.cpyq · k q) .copy) ∧
  (∀ k, Forms2 (.kvcommit · · · k) .copy) ∧ (∀ e h, Forms2 (.give · · · e h) .copy) ∧
  (∀ e h, Forms2 (.take · · · e h) .copy) ∧ (∀ n, Forms1 (.cbcfg · · n) .copy) ∧ (∀ n, Forms0 (.cbpush · n) .copy) ∧
  (∀ n : BitVec 3, FormsResult (.cbpop · · n) .copy (some n.toNat)) ∧
  FormsResult .cpyst .copy none ∧
  (∀ (s : State) (g : Guard) (a b : RegF) (m : BitVec 2) (k : BitVec 1),
    (s.fg.priv = false →
      exec (.ttinv g a b m) s =
        .next { s.enterTrap ⟨0x03, 4, s.col, false, false, false, s.ctl.bodyEnd⟩ with issue := [], ctl := Ctl.none } ∧
      exec (.beadld g a b k m) s =
        .next { s.enterTrap ⟨0x03, 4, s.col, false, false, false, s.ctl.bodyEnd⟩ with issue := [], ctl := Ctl.none }) ∧
    (s.fg.priv = true → s.guard g = true →
      let x := (s.takeI a).1
      let y := ((s.takeI a).2.takeI b).1
      exec (.ttinv g a b m) s = .next (((s.takeI a).2.takeI b).2.formRec (.ttinv g a b m) .copy x y 0 0 0) ∧
      exec (.beadld g a b k m) s = .next (((s.takeI a).2.takeI b).2.formRec (.beadld g a b k m) .fabric x y 0 0 0)))

/-- The bank words and PUT. -/
def Obligations.BankWords : Prop :=
  (∀ (b : RegF) (c : BitVec 4) (z : BitVec 2) (u : BitVec 1),
    let n := if z = 0 then 8 else 4
    FormsBank (.badd · · b c z) (some b) false c n false ∧ FormsBank (.bmin · · b c u z) (some b) false c n false ∧
    FormsBank (.bmax · · b c u z) (some b) false c n false ∧ FormsBank (.band · · b c z) (some b) false c n false ∧
    FormsBank (.bor · · b c z) (some b) false c n false ∧ FormsBank (.bxor · · b c z) (some b) false c n false ∧
    FormsBank (.bswp · · b c z) (some b) false c n true ∧ FormsBank (.bcas · · b c z) (some b) true c n true ∧
    FormsBank (.bfaa · · b c z) (some b) false c n true ∧
    FormsBank (.bfadd · · b c z) (some b) false c (if z = 0 then 4 else 2) false ∧
    FormsBank (.tktake · · c) none false c 8 true ∧ FormsBank (.tknext · · c u) none false c 8 false) ∧
  (∀ (s : State) (g : Guard) (a b : RegF) (c : BitVec 4) (z : BitVec 2) (u : BitVec 1), s.guard g = true →
    (∃ t, exec (.badd g a b c z) s = .next t) ∧ (∃ t, exec (.bmin g a b c u z) s = .next t) ∧
    (∃ t, exec (.bmax g a b c u z) s = .next t) ∧ (∃ t, exec (.band g a b c z) s = .next t) ∧
    (∃ t, exec (.bor g a b c z) s = .next t) ∧ (∃ t, exec (.bxor g a b c z) s = .next t) ∧
    (∃ t, exec (.bswp g a b c z) s = .next t) ∧ (∃ t, exec (.bcas g a b c z) s = .next t) ∧
    (∃ t, exec (.bfaa g a b c z) s = .next t) ∧ (∃ t, exec (.bfadd g a b c z) s = .next t) ∧
    (∃ t, exec (.tktake g a c) s = .next t) ∧ (∃ t, exec (.tknext g a c u) s = .next t) ∧
    (∃ t, exec (.put g a b c z) s = .next t)) ∧
  (∀ (s : State) (g : Guard) (a b : RegF) (c : BitVec 4) (z : BitVec 2), s.guard g = true →
    let n := if z = 0 then 8 else if z = 1 then 4 else if z = 2 then 2 else 1
    let x := (s.takeI a).1
    let y := ((s.takeI a).2.takeI b).1
    ∃ t, exec (.put g a b c z) s = .next t ∧
      slipAfter s t ⟨s.nid + 1, s.fg.key, s.col, .put g a b c z, x, y, 0, [], (s.unit s.fg.unit).count, s.nid, 0, 0⟩ ∧
      (∃ home adr ord, t.fg.accs = s.fg.accs ++ [⟨s.nid, c.toNat, false, true, home, adr, n, bytesOf n x.toNat, ord⟩] ∧
        ∀ t0, s.putTarget s.fg.launch (y.toNat / 2 ^ 28 % 2 ^ 32) = some t0 →
          let off := y.toNat % 2 ^ 28 - y.toNat % 2 ^ 28 % n
          (y.getLsbD 63 = true → off + n ≤ vget 0 (s.vf s.fg.vf).dmSize t0.die → home = .dm t0.die ∧
            adr = dmNo t0.die (vget 0 (s.vf s.fg.vf).dmBase t0.die * 32768 + off)) ∧
          (y.getLsbD 63 = false → t0.hasLs = true → y.toNat / 2 ^ 22 % 2 ^ 6 = 0 →
            off + n ≤ (s.launchOf s.fg).lsTiles * 4096 → home = .ls (t0.unit / 4) ∧
            adr = lsNo (t0.unit / 4) (t0.lsBase * 4096 + off))) ∧
      .commandRecordEntry s.fg.unit .bank ∈ t.agenda ∧ t.mem = s.mem)

/-- The fabric's words. -/
def Obligations.FabricWords : Prop :=
  (∀ (c : BitVec 4) (r w : BitVec 1) (z : BitVec 2),
    let n := if w = 1 then 4 else 8
    let m := if z = 0 then 8 else if z = 1 then 4 else if z = 2 then 2 else 1
    FormsRemote (.radd · · · c r w) false c n (decide (r = 1)) true (decide (r = 1)) false ∧
    FormsRemote (.rcas · · · c w) true c n true true true false ∧
    FormsRemote (.rswp · · · c w) false c n true true true false ∧
    FormsRemote (.rget · · · c z) false c m true false true false ∧
    FormsRemote (.rput · · · c z) false c m false true false true ∧
    FormsRemote (.rred · · · c z) false c 128 false true false false) ∧
  (∀ (s : State) (g : Guard) (a b : RegF) (c : BitVec 4) (r w : BitVec 1) (z : BitVec 2), s.guard g = true →
    (∃ t, exec (.radd g a b c r w) s = .next t) ∧ (∃ t, exec (.rcas g a b c w) s = .next t) ∧
    (∃ t, exec (.rswp g a b c w) s = .next t) ∧ (∃ t, exec (.rget g a b c z) s = .next t) ∧
    (∃ t, exec (.rput g a b c z) s = .next t) ∧ (∃ t, exec (.rred g a b c z) s = .next t) ∧
    (∃ t, exec (.pnew g a b) s = .next t) ∧ (∃ t, exec (.pgrow g a b) s = .next t) ∧
    (∃ t, exec (.ptrim g a b) s = .next t)) ∧
  (∀ (m d : BitVec 1) (n : BitVec 3), m = 0 ∨ d = 1 → Forms1 (.lqbind · · 0 m d n) .fabric) ∧
  (∀ (u m d : BitVec 1) (n : BitVec 3), u = 1 ∨ (m = 1 ∧ d = 0) → ∀ (s : State) (g : Guard) (a : RegF), s.guard g = true →
    exec (.lqbind g a u m d n) s = .next (s.formRec (.lqbind g a u m d n) .fabric 0 0 0 0 0)) ∧
  FormsParcel .pnew false ∧ FormsParcel .pgrow true ∧ FormsParcel .ptrim true ∧ Forms1 .pfree .fabric

/-- POST: sealed in one step after the scan of its marked words, once the accesses and parcel commands of earlier bundles are
done; PRECV: the oldest parcel, or sleep. -/
def Obligations.ParcelDelivery : Prop :=
  (∀ (s : State) (g : Guard) (a b : RegF), s.guard g = true →
    let x := (s.takeI a).1
    let y := ((s.takeI a).2.takeI b).1
    let h := x.toNat % 65536
    let p := s.parcel s.fg.vf h
    s.pastAccs = [] → (∀ r, r ∈ (s.unit s.fg.unit).recs → r.task ≠ s.fg.key ∨ s.earlier r.id = false) →
    (p.st ≠ .localP → exec (.post g a b) s = .next (s.trapNow 0x31 4)) ∧
    (p.st = .localP → ∀ n, p.marks.find? (fun n => decide (p.len ≤ s.parcelWord s.fg.vf h p n)) = some n →
      exec (.post g a b) s = .next (State.trapNow { s with
        fg := { s.fg with pclFault := BitVec.ofNat 64 (2 ^ 62 + 8 * n % 2 ^ 24 * 65536 + h % 65536) } } 0x30 4)) ∧
    (p.st = .localP → (∀ n ∈ p.marks, s.parcelWord s.fg.vf h p n < p.len) → s.wordPkg y = some s.ownPkg →
      s.mboxRefuses s.fg.vf (bits y.toNat 51 48) (bits y.toNat 7 0) p.len = false →
      h < 49152 → h % 4096 < (s.vf s.fg.vf).pclCount →
      ∃ t, exec (.post g a b) s = .next t ∧ (t.parcel s.fg.vf h).st = .sealedP ∧ (t.parcel s.fg.vf h).len = p.len ∧
        t.xfers = s.xfers ++ [⟨2 * s.nid, none, s.fg.vf, h, s.fg.key, bits y.toNat 51 48, bits y.toNat 7 0, p.len, [], [],
          none⟩] ∧
        .mailboxGrant (2 * s.nid) none ∈ t.agenda)) ∧
  (∀ (s : State) (g : Guard) (a b : RegF), s.guard g = true →
    let box := (s.takeI b).1.toNat % 256
    box < (s.vf s.fg.vf).mbxCount →
    (∀ h rest, s.arrivedAt s.fg.vf s.fg.die box = h :: rest → h < 49152 → h % 4096 < (s.vf s.fg.vf).pclCount →
      (s.parcel s.fg.vf h).st = .arrived →
      ∃ t, exec (.precv g a b) s = .next t ∧ (t.parcel s.fg.vf h).st = .localP ∧
        t.arrivedAt s.fg.vf s.fg.die box = rest ∧
        t.fg.results = s.fg.results ++ [⟨s.nid, s.col, false, s.bank.physI a,
          some ((parcelResult 0 (s.parcel s.fg.vf h).len h).setWidth 1024), none⟩] ∧
        .deliveredResultWrite s.fg.key ∈ t.agenda) ∧
    (s.arrivedAt s.fg.vf s.fg.die box = [] → s.fg.expired = false →
      ∀ t0, (s.takeI b).2.claspInsert (objWord 4 s.fg.die box) none = .ok t0 →
      exec (.precv g a b) s = .next { t0 with
        fg := { t0.fg with waitStat := s.fg.waitStat, recv := t0.fg.recv ++ [⟨box, s.col, s.bank.physI a⟩] },
        ctl := { t0.ctl with slept := true } }))

/-! Waits and the scheduler's words. -/

/-- WAITV and WAITT: a test that holds, a diverted task, a limit that has passed, and the sleep with its monitor; a trap leaves
what the word popped from link registers where it was; what the end of a wait and a sleep write. -/
def Obligations.ValueWaits : Prop :=
  (∀ (s : State) (g : Guard) (d a b : RegF), s.guard g = true →
    let s1 := ((s.takeI a).2.takeI b).2
    let s2 := (s1.takeI d).2
    let x := (s.takeI a).1
    let v := ((s.takeI a).2.takeI b).1
    let limit := (s1.takeI d).1.toNat
    let off := x.toNat % 2 ^ 28 / 8 * 8
    let m := dmNo s.fg.die (vget 0 (s.vf s.fg.vf).dmBase s.fg.die * 32768 + off)
    let w := BitVec.ofNat 64 (s.num m 8)
    let cond := x.toNat / 2 ^ 60 % 8
    let holds : Prop := condition cond w v = true
    (s.fg.dmSize < off + 8 →
      exec (.waitv g a b) s = .next (s.trapNow 0x11 0) ∧ exec (.waitt g d a b) s = .next (s.trapNow 0x11 0)) ∧
    (off + 8 ≤ s.fg.dmSize →
      (holds → exec (.waitv g a b) s = .next (s1.status 0) ∧ exec (.waitt g d a b) s = .next (s2.status 0)) ∧
      (¬ holds → s.fg.expired = true →
        exec (.waitv g a b) s = .next (s1.status 4) ∧ exec (.waitt g d a b) s = .next (s2.status 4)) ∧
      (¬ holds → s.fg.expired = false →
        (limit ≤ s.now → exec (.waitt g d a b) s = .next (s2.status 1)) ∧
        (∀ t0, s1.claspInsert (objWord 1 s.fg.die off) none = .ok t0 →
          exec (.waitv g a b) s = .next ((t0.arm s.fg.key s.fg.die m).sleepOn (.word s.fg.die m) v none cond)) ∧
        (∀ t0, s.now < limit → s2.claspInsert (objWord 1 s.fg.die off) none = .ok t0 →
          exec (.waitt g d a b) s = .next ((t0.arm s.fg.key s.fg.die m).sleepOn (.word s.fg.die m) v (some limit) cond)) ∧
        (∀ t0, s1.claspInsert (objWord 1 s.fg.die off) none = .dead t0 →
          exec (.waitv g a b) s = .next (heldTrap s t0 0x20)) ∧
        (∀ t0, s1.claspInsert (objWord 1 s.fg.die off) none = .full t0 →
          exec (.waitv g a b) s = .next (if (t0.vf t0.fg.vf).claspTrap then heldTrap s t0 0x21 else t0.status 3))))) ∧
  (∀ (s : State) (k die pd : Nat), die < 12 → pd < 2 ^ 27 →
    let b := die * 512 + pd / 64 % 512
    let t := s.arm k die (dmNo die pd)
    ((fget [] s.monitors b).length < 16 → t = { s with monitors := t.monitors } ∧
      fget [] t.monitors b = fget [] s.monitors b ++ [k]) ∧
    (16 ≤ (fget [] s.monitors b).length → t = { s with overflow := t.overflow } ∧
      fget [] t.overflow die = fget [] s.overflow die ++ [(b, k)])) ∧
  (∀ (s : State) (code : Nat), code < 8 → ∃ w : Word, s.status code = { s with
      fg := { s.fg with waitStat := w, first := false } } ∧
    w.toNat % 8 = code ∧ w.toNat / 8 = s.fg.waitStat.toNat / 8) ∧
  (∀ (s : State) (o : WaitObj) (v : Word) (limit : Option Nat) (cond : Nat), s.sleepOn o v limit cond = { s with
      fg := { s.fg with sleep := some ⟨o, v, limit, cond, s.fg.pc, s.fg.follower, s.fg.mrep⟩, first := false },
      ctl := { s.ctl with slept := true } })

/-- LOCK and UNLOCK. -/
def Obligations.Locks : Prop :=
  ∀ (s : State) (g : Guard) (a : RegF), s.guard g = true →
    let s1 := (s.takeI a).2
    let off := (s.takeI a).1.toNat % 2 ^ 28 / 8 * 8
    let die := s.fg.die
    let vf := s.fg.vf
    let m := dmNo die (vget 0 (s.vf vf).dmBase die * 32768 + off)
    (s.fg.dmSize < off + 8 →
      exec (.lock g a) s = .next (s.trapNow 0x11 0) ∧ exec (.unlock g a) s = .next (s.trapNow 0x11 0)) ∧
    (off + 8 ≤ s.fg.dmSize → s.lockThere vf die off = false →
      exec (.lock g a) s = .next (s1.status 2) ∧ exec (.unlock g a) s = .next (s1.status 2)) ∧
    (off + 8 ≤ s.fg.dmSize → s.lockThere vf die off = true →
      (s.num m 8 = 0 → (s.claspOf die).length < 1024 →
        ∃ t, exec (.lock g a) s = .next t ∧ t.num m 8 = s.fg.taskId.toNat ∧ t.fg.waitStat.toNat % 8 = 0 ∧
          (⟨.hold, objWord 0 die off, vf, s.fg.key⟩ : ClaspE) ∈ t.claspOf die) ∧
      (s.num m 8 ≠ 0 → s.num m 8 = s.fg.taskId.toNat → exec (.lock g a) s = .next (s1.status 0)) ∧
      (s.num m 8 ≠ 0 → s.num m 8 ≠ s.fg.taskId.toNat → s.fg.expired = true → exec (.lock g a) s = .next (s1.status 4)) ∧
      (s.num m 8 ≠ 0 → s.num m 8 ≠ s.fg.taskId.toNat → s.fg.expired = false →
        ∀ t0, s1.claspInsert (objWord 0 die off) none = .ok t0 →
          exec (.lock g a) s = .next (t0.sleepOn (.lock die m) 0 none 0)) ∧
      (s.num m 8 ≠ s.fg.taskId.toNat → exec (.unlock g a) s = .next (s1.status 2)) ∧
      (s.num m 8 = s.fg.taskId.toNat → s.pastAccs ≠ [] → exec (.unlock g a) s = .next { s with issue := [], ctl := Ctl.none }) ∧
      (s.num m 8 = s.fg.taskId.toNat → s.pastAccs = [] → s.lockSleepers vf die m = [] →
        ∃ t, exec (.unlock g a) s = .next t ∧ t.num m 8 = 0 ∧ t.fg.waitStat.toNat % 8 = 0))

/-- TKWAIT, WOBJ, WDROP. -/
def Obligations.TicketsAndRegistration : Prop :=
  ∀ (s : State) (g : Guard) (a b : RegF), s.guard g = true →
    let x := (s.takeI a).1
    let s1 := (s.takeI a).2
    let vf := s.fg.vf
    let die := s.fg.die
    (let n := x.toNat % 2048
     let k := (s.vf vf).tkBase + n
     let c := s.ticket die k
     let y := (s1.takeI b).1
     let ahead := (y.toNat % 2 ^ 32 + (2 ^ 32 - c.serving)) % 2 ^ 32
     ((s.vf vf).tkCount ≤ n → exec (.tkwait g a b) s = .next (s.trapNow 0x11 0)) ∧
     (n < (s.vf vf).tkCount → c.serving < 2 ^ 32 →
       (ahead = 0 ∨ 2 ^ 31 ≤ ahead → exec (.tkwait g a b) s = .next ((s1.takeI b).2.status 0)) ∧
       (¬ (ahead = 0 ∨ 2 ^ 31 ≤ ahead) → s.fg.expired = true →
         exec (.tkwait g a b) s = .next ((s1.takeI b).2.status 4)) ∧
       (¬ (ahead = 0 ∨ 2 ^ 31 ≤ ahead) → s.fg.expired = false → c.taker = none →
         ∀ t0, (s1.takeI b).2.claspInsert (objWord 2 die k) none = .ok t0 →
           exec (.tkwait g a b) s = .next (t0.sleepOn (.ticket die k) y none 0)))) ∧
    (let kind := x.toNat / 2 ^ 60
     let off := x.toNat % 2 ^ 28 / 8 * 8
     let o := objWord kind die off
     (2 ≤ kind → exec (.wobj g a) s = .next (s1.status 2) ∧ exec (.wdrop g a) s = .next (s1.status 2)) ∧
     (kind ≤ 1 → s.fg.dmSize < off + 8 →
       exec (.wobj g a) s = .next (s.trapNow 0x11 0) ∧ exec (.wdrop g a) s = .next (s.trapNow 0x11 0)) ∧
     (kind ≤ 1 → off + 8 ≤ s.fg.dmSize → (s.claspOf die).length + 2 ≤ 1024 →
       ∃ t, exec (.wobj g a) s = .next t ∧ t.fg.waitStat.toNat % 8 = 0 ∧ (⟨.obj, o, vf, 0⟩ : ClaspE) ∈ t.claspOf die ∧
         (kind = 1 → (⟨.hold, o, vf, s.fg.key⟩ : ClaspE) ∈ t.claspOf die)) ∧
     (kind = 0 → off + 8 ≤ s.fg.dmSize → s.lockThere vf die off = false → exec (.wdrop g a) s = .next (s1.status 2)) ∧
     (kind = 1 → off + 8 ≤ s.fg.dmSize → (⟨.hold, o, vf, s.fg.key⟩ : ClaspE) ∈ s.claspOf die →
       ∃ t, exec (.wdrop g a) s = .next t ∧ t.fg.waitStat.toNat % 8 = 0 ∧
         (⟨.hold, o, vf, s.fg.key⟩ : ClaspE) ∉ t.claspOf die))

/-- BAR and SSTEP once their waiter edge stands and the accesses of earlier bundles in their instance have performed: the
arrival, then the end or the sleep. -/
def Obligations.Barriers : Prop :=
  ∀ (s : State) (g : Guard) (sc : BitVec 3) (step : Bool), s.guard g = true →
    (step = false → cappedScope (s.vf s.fg.vf).scopeCap sc.toNat = sc.toNat) →
    let i : Instr := if step then .sstep g sc else .bar g sc
    let b := s.openBar s.fg step sc.toNat
    let obj := s.barWord b (b.seq s.fg)
    let r := s.arriveBar s.fg b
    (∀ x, x ∈ s.pastAccs → s.fg.homeIn sc.toNat x.home = false) → (step = true → s.putsOut s.fg = false) →
    (s.fg.expired = false → ∀ t0, edged s b obj t0 →
      let q := t0.arriveBar t0.fg b
      (q.1 = true → ∃ t, exec i s = .next t ∧ t.fg.waitStat.toNat % 8 = 0 ∧ t.bars = q.2.bars ∧
        t.fg.comm = (if step then !s.fg.comm else s.fg.comm) ∧ t.fg.first = false) ∧
      (q.1 = false → ∃ t, exec i s = .next t ∧ t.bars = q.2.bars ∧ t.ctl.slept = true ∧
        ∃ sl, t.fg.sleep = some sl ∧ sl.pc = s.fg.pc ∧
          sl.obj = (if step then .super (s.barDie b) (bits obj.toNat 55 0) else .barrier (s.barDie b) (bits obj.toNat 55 0)))) ∧
    (s.fg.expired = true → ∃ t, exec i s = .next t ∧ t.bars = r.2.bars ∧
      t.fg.waitStat.toNat % 8 = (if r.1 then 0 else 4)) ∧
    (s.fg.first = false → s.fg.expired = false → ∀ t0, (s.metBar b).claspInsert obj none = .dead t0 →
      exec i s = .next (heldTrap s t0 0x20))

/-- PRIO, GETTIME, DLINFO, VALID. -/
def Obligations.SchedulerWords : Prop :=
  ∀ (s : State) (g : Guard), s.guard g = true →
    let t := s.fg
    let l := s.launchOf t
    (∀ im : BitVec 7, ∃ t', exec (.prio g im) s = .next t' ∧
      t'.fg = { s.fg with pend := insPend ⟨t.dist + 1, s.col, .sr 0 (BitVec.ofNat 64 (min (im.toNat % 4) l.cls)), 0⟩ t.pend } ∧
      .schedulingPoint t.die ∈ t'.agenda ∧ t'.mem = s.mem) ∧
    (∀ d : RegF, exec (.gettime g d) s = .next (s.putI d 2 (BitVec.ofNat 64 (s.tai + s.cycle / 2)))) ∧
    (∀ d : RegF,
      exec (.dlinfo g d 0) s = .next (s.putI d 2 (match l.deadline with | some x => BitVec.ofNat 64 x | none => -1)) ∧
      exec (.dlinfo g d 1) s = .next (s.putI d 2 (BitVec.ofInt 64 (s.slack t))) ∧
      exec (.dlinfo g d 2) s = .next (s.putI d 2 (BitVec.ofNat 64 (t.wrapLeft.getD (l.budget + 1)))) ∧
      exec (.dlinfo g d 3) s = .next (s.putI d 2 (BitVec.ofNat 64 (l.estimate - t.used)))) ∧
    (∀ (a : RegF) (c : BitVec 2),
      let n := (s.takeI a).1.toNat
      let m := l.vmap + 8 * (n / 32)
      ((l.xm + 1) * (l.ym + 1) * (l.zm + 1) ≤ n → exec (.valid g c a) s = .next { (s.takeI a).2 with
        ctl := { s.ctl with trap := some 0x11, place := (0, 0) } }) ∧
      (n < (l.xm + 1) * (l.ym + 1) * (l.zm + 1) → s.pastAccs ≠ [] →
        exec (.valid g c a) s = .next { s with issue := [], ctl := Ctl.none }) ∧
      (n < (l.xm + 1) * (l.ym + 1) * (l.zm + 1) → s.pastAccs = [] → ∀ old, s.vfNum l.vf m 8 = some old →
        ∃ t' new, exec (.valid g c a) s = .next t' ∧ t'.vfNum l.vf m 8 = some new ∧
          new / 4 ^ (n % 32) % 4 = c.toNat ∧ ∀ k, k < 32 → k ≠ n % 32 → new / 4 ^ k % 4 = old / 4 ^ k % 4))

/-! Events of the issue of bundles. -/

/-- A cycle, a stalled turn, a deferred trap, writes that take effect, and the events of a core's registers and
segments. An event happens when a step takes it off the agenda (log 3). -/
def Obligations.PresentationEvents : Prop :=
  (∀ (s : State) (u : Nat), s.turns = [] → Becomes .bundlePresentation (.bundlePresentation u) s (fun t =>
    t.cycle = s.cycle + 1 ∧ t.mem = s.mem ∧
    t.turns = (s.busyUnits.filter (fun u => !s.frozen (u / 4))).flatMap
      (fun u => if (s.unit u).sec = 0 then [(u, false)] else [(u, false), (u, true)]))) ∧
  (∀ (s : State) (u : Nat) (r : List (Nat × Bool)), s.turns = (u, false) :: r → (s.unit u).prim = s.fg.key → s.fg.key ≠ 0 →
    s.fg.unit = u → s.fg.wrapLeft = none → s.fg.divDue = false → (s.unit u).slip = [] → s.fg.exiting = false →
    s.fg.stop = .run → 0 < s.fg.idle → s.fg.pend = [] → s.fg.land = [] →
    Becomes .bundlePresentation (.bundlePresentation u) s (fun t => t.turns = r ∧ t.mem = s.mem ∧
      t.fg = { s.fg with idle := s.fg.idle - 1, used := s.fg.used + 1, dist := s.fg.dist + 1 })) ∧
  (∀ (s : State) (d : DTrap) (r : List DTrap) (h : Nat), s.fg.resident = true → s.fg.stop = .run → s.fg.idle = 0 →
    s.fg.waiting = false → s.fg.exiting = false → s.fg.divert = false → s.fg.resumeAt = none →
    s.fg.lateLanding = false → s.frozen (s.fg.unit / 4) = false →
    let w := s.writeBack s.fg.key
    w.fg.first = false → w.fg.deferred = d :: r → w.fg.active = false → w.handler w.fg d.cause = some h →
    (w.fenceHeld = false → Becomes .deferredTrap (.deferredTrap s.fg.key) s (fun t =>
      t.fg = Task.trapTo { w.fg with deferred := r } ⟨d.cause, 0, d.col, true, true, false, false⟩ h ∧ t.mem = s.mem)) ∧
    (w.fenceHeld = true → Becomes .deferredTrap (.deferredTrap s.fg.key) s (fun t => t.fg = w.fg ∧ t.mem = s.mem))) ∧
  (∀ (s : State) (x : Pend) (n : Nat) (w : Word), s.fg.pend = [x] → x.w = .i n w → n < 56 → x.col < 4 → s.fg.land = [] →
    (x.due ≤ s.fg.dist → Becomes .latencyWriteback (.latencyWriteback s.fg.key) s (fun t =>
      t.fg.pend = [] ∧ vget 0 (t.fg.bank x.col).ireg n = w)) ∧
    (s.fg.dist < x.due → Becomes .latencyWriteback (.latencyWriteback s.fg.key) s (fun t => t.fg = s.fg))) ∧
  (∀ (s : State) (x : Landing), x ∈ s.fg.land → x.data = none → 65536 ≤ x.frozen →
    Becomes .freezeTimeout (.freezeTimeout s.fg.key x.id) s (fun t =>
      ∀ y, y ∈ t.fg.land → y.id = x.id → y.data = some 0 ∧ y.trap = some 0x12)) ∧
  (∀ (s : State) (u : Nat), 4095 ≤ (s.unit u).secIdle →
    Becomes .secondaryForcedIssue (.secondaryForcedIssue u) s (fun t => t.unit u = { s.unit u with secIdle := 4096 })) ∧
  (∀ (s : State) (u n : Nat) (h : Bool) (bs : List Byte), vget 0 (s.unit u).segBusy h.toNat = n + 1 →
    let l := s.launchOf (s.task (n / 64))
    let e := lget (0, 0) l.segs (n % 64)
    (e.2 / 2 ^ 11 % 2 = h.toNat → s.vfRead l.vf (e.1 % 2 ^ 44) (24 * (e.2 % 2048 + 1) * l.width) = some bs →
      Becomes .segmentCopyComplete (.segmentCopyComplete u h) s (fun t =>
        vget 0 (t.unit u).segBusy h.toNat = 0 ∧ vget 0 (t.unit u).segOf h.toNat = n % 64 + 1)) ∧
    (s.vfRead l.vf (e.1 % 2 ^ 44) (24 * (e.2 % 2048 + 1) * l.width) = none →
      Becomes .segmentCopyComplete (.segmentCopyComplete u h) s (fun t => t.mem = s.mem ∧
        t.out = s.out ++ [.host l.vf 1 [n / 64]] ∧
        (t.task (n / 64)).deferred = (s.task (n / 64)).deferred ++ [⟨0x11, 0⟩]))) ∧
  (∀ (s : State) (c : Nat) (w : Lane),
    let k := w.toNat % 8
    let full := (List.range 4).any (fun n => !(s.unit (c * 4 + n)).residents.isEmpty)
    (¬ (k = 1 ∨ k = 2 ∨ k = 4) → full = false →
      Becomes .coreSplitWrite (.coreSplitWrite c w) s (fun t => t.core c = s.core c)) ∧
    (full = true → Becomes .coreSplitWrite (.coreSplitWrite c w) s (fun t =>
      t.core c = { s.core c with split := (s.core c).split ||| 8 })) ∧
    (k = 1 ∨ k = 2 ∨ k = 4 → full = false → s.pmap.splitFits c k = true →
      Becomes .coreSplitWrite (.coreSplitWrite c w) s (fun t =>
        t.core c = { s.core c with split := BitVec.ofNat 32 k })) ∧
    (k = 1 ∨ k = 2 ∨ k = 4 → full = false → s.pmap.splitFits c k = false →
      Becomes .coreSplitWrite (.coreSplitWrite c w) s (fun t =>
        t.core c = s.core c ∧ t.out = s.out ++ [.host 0x3FF 7 [0x3FF, 0, 2]]))) ∧
  (∀ (s : State) (c n : Nat) (w : Lane) (a : Word), n < 8 →
    let inside := a.toNat % 1024 ≤ 128 * n ∧ 128 * n + 128 ≤ a.toNat % 1024 + a.toNat / 65536 % 2048
    (inside → w.toNat % 16 ≤ 11 → Becomes .bankFmtWrite (.bankFmtWrite c n w a) s (fun t =>
      vget 0 (t.core c).fmt n = BitVec.ofNat 32 (w.toNat % 16))) ∧
    (¬ inside ∨ 11 < w.toNat % 16 → Becomes .bankFmtWrite (.bankFmtWrite c n w a) s (fun t =>
      vget 0 (t.core c).fmt n = vget 0 (s.core c).fmt n ||| 16))) ∧
  (∀ (s : State) (k n : Nat) (f : Flight),
    s.flight.find? (fun f => decide (f.task = k) && decide (f.id = n)) = some f → (s.task k).key = k →
    Becomes .landingDataArrival (.landingDataArrival k n) s (fun t => t.task k = (s.task k).arrive n f.data f.trap ∧
      ∀ g, g ∈ t.flight → ¬ (g.task = k ∧ g.id = n)))

/-- The entry of records into their queues, tile flips, circular buffers, delivered results, and the ends of copies.
An event happens when a step takes it off the agenda (log 3). -/
def Obligations.CommandEvents : Prop :=
  (∀ (s : State) (u : Nat) (r : Rec) (rest : List Rec), (s.unit u).slip = r :: rest → queueOf r.ins = some .fabric →
    (∀ x, x ∈ rest → x.id ≠ r.id) →
    ((s.unit u).qFabric.length < 16 → s.prompt (.commandRecordEntry u .fabric) = true ∧
      Becomes .commandRecordEntry (.commandRecordEntry u .fabric) s (fun t =>
        (t.unit u).slip = rest ∧ (t.unit u).qFabric = (s.unit u).qFabric ++ [{ r with ent := s.nid }] ∧ t.nid = s.nid + 1 ∧
        .commandRecordEntry u .fabric ∈ t.agenda)) ∧
    (16 ≤ (s.unit u).qFabric.length → Becomes .commandRecordEntry (.commandRecordEntry u .fabric) s (fun t =>
      t.unit u = s.unit u ∧ .requestInject u ∈ t.agenda))) ∧
  (∀ (s : State) (u : Nat) (r : Rec), r ∈ (s.unit u).slip → r.born + 16 < (s.unit u).count →
    Becomes .slipStop (.slipStop u) s (fun t =>
      t.unit u = { s.unit u with stopped := true } ∧ t.fg = s.fg ∧ t.issue = s.issue)) ∧
  (∀ (s : State) (c : Nat) (r : Rec) (g : Guard) (a b : RegF) (e : BitVec 3) (h : BitVec 2), (s.chan c).run = none →
    (s.unit (s.unitOfCol c).1).qCopy.find? (fun r => decide (r.col = (s.unitOfCol c).2)) = some r → r.ins = .take g a b e h →
    let t0 := s.task r.task
    let core := coreOf t0.unit
    let first := r.s1.toNat % 1024
    let n := r.s2.toNat % 2048
    let mine := ownerByte e.toNat h.toNat (t0.unit % 4)
    1 ≤ n → n ≤ 1024 → first + n ≤ t0.lsSize →
    (∀ k, k < n → s.agentBusy t0 mine (first + k) (fun q => decide (q.ent < r.ent)) true false = false) →
    ((∀ k, k < n → s.owner core (t0.lsBase + (first + k)) = mine) → Becomes .takeFlip (.takeFlip c) s (fun t =>
      ∀ k, k < n → t.owner core (t0.lsBase + (first + k)) = coreOwner t0.unit)) ∧
    (∀ k, k < n → s.owner core (t0.lsBase + (first + k)) ≠ mine → Becomes .takeFlip (.takeFlip c) s (fun t =>
      t.lsOwn = s.lsOwn ∧ deferredNow s t r.task 0x14 r.col))) ∧
  (∀ (s : State) (c : Nat) (r : Rec) (g : Guard) (a : RegF) (n : BitVec 3), (s.chan c).run = none →
    (s.unit (s.unitOfCol c).1).qCopy.find? (fun r => decide (r.col = (s.unitOfCol c).2)) = some r → r.ins = .cbcfg g a n →
    let u := (s.task r.task).unit
    let image := putBits (putBits (putBits r.s1 27 19 0) 36 28 0) 63 55 0
    let holder := vget 0 (s.unit u).cbTask n.toNat
    (holder = 0 ∨ holder = r.task → cbImageOk (s.task r.task) image = true → (∀ p, (n.toNat, p) ∉ (s.unit u).cbDue) →
      vget none (s.unit u).cbGrant n.toNat = none → (∀ p, s.sideOpen u n.toNat p = false) →
      Becomes .cbcfgApply (.cbcfgApply c) s (fun t =>
        t.cb u n.toNat = image ∧ vget 0 (t.unit u).cbTask n.toNat = r.task ∧ .cbpopGrant u n.toNat ∈ t.agenda)) ∧
    (holder ≠ 0 → holder ≠ r.task → Becomes .cbcfgApply (.cbcfgApply c) s (fun t =>
      (t.unit u).cb = (s.unit u).cb ∧ deferredNow s t r.task 0x14 r.col))) ∧
  (∀ (s : State) (u n : Nat), n < 8 → 0 < cbCount (s.cb u n) → cbCount (s.cb u n) ≤ 256 → (s.unit u).qCopy = [] →
    (∀ e ∈ s.chans, e.2.run = none) →
    ((n, true) ∈ (s.unit u).cbDue →
      Becomes .cbProducerCompletion (.cbProducerCompletion u n) s (fun t => advanced s t u n true)) ∧
    ((n, false) ∈ (s.unit u).cbDue →
      Becomes .cbConsumerCompletion (.cbConsumerCompletion u n) s (fun t => advanced s t u n false))) ∧
  (∀ (s : State) (u n : Nat) (r : Rec) (rest : List Rec) (g : Guard) (a : RegF) (m : BitVec 3) (side : Bool),
    (s.unit u).pops = r :: rest → r.ins = .cbpop g a m → m.toNat = n →
    (cbCoreSide (s.cb u n) = some side → s.cbMine (s.task r.task) n = true →
      vget none (s.unit u).cbGrant n = none → s.cbReady u n side = true →
      Becomes .cbpopGrant (.cbpopGrant u n) s (fun t => vget none (t.unit u).cbGrant n = some r.task ∧
        resulted t r.task r.id (BitVec.ofNat 64 (4096 * cbTile (s.cb u n) (cbPtr (s.cb u n) side))))) ∧
    (cbCoreSide (s.cb u n) = none ∨ s.cbMine (s.task r.task) n = false →
      Becomes .cbpopGrant (.cbpopGrant u n) s (fun t => deferredNow s t r.task 0x14 r.col ∧
        (t.unit u).cbGrant = (s.unit u).cbGrant ∧ ∀ x, x ∈ (t.task r.task).results → x.id ≠ r.id))) ∧
  (∀ (s : State) (k : Nat) (x : PendRes) (v : VWord), (s.task k).key = k → (s.task k).resident = true → (s.task k).stop = .run →
    (s.task k).results = [x] → x.val = some v → x.vec = false → x.reg < 56 → x.col < 4 →
    Becomes .deliveredResultWrite (.deliveredResultWrite k) s (fun t => (t.task k).results = [] ∧
      vget 0 ((t.task k).bank x.col).ireg x.reg = v.setWidth 64)) ∧
  (∀ (s : State) (c : Nat) (q : Run) (g : Guard) (keep : BitVec 1), (s.chan c).run = some q → q.cmd.ins = .cpy g keep →
    (s.chan c).page = false → q.ents = [] → (s.unit q.unit).cbDue = [] → s.lsStores (c / 4) = false →
    (s.task q.cmd.task).exiting = false →
    let t0 := s.task q.cmd.task
    let w := lget 0 q.cmd.stag 4
    let home := dmNo t0.die (vget 0 (s.vf t0.vf).dmBase t0.die * 32768 + w.toNat % 2 ^ 28)
    (q.fail = none → q.stop = true → Becomes .completionRecord (.completionRecord c) s (fun t => channelEnded t c 3 q.fin ∧
      (w.getLsbD 63 = false → t.mem = s.mem))) ∧
    (q.fail = none → q.stop = false → q.tot ≤ q.n → Becomes .completionRecord (.completionRecord c) s (fun t => channelEnded t c 0 1 ∧
      (t.chan c).fault = false ∧ (w.getLsbD 63 = false → t.mem = s.mem) ∧
      (w.getLsbD 63 = true → awake s → t.num home 8 =
        2 ^ 63 + q.pois.toNat * 2 ^ 59 + 2 ^ 32 + q.cnt / 8 % 2 ^ 32))) ∧
    (∀ cause index, q.fail = some (1, cause, index, false) →
      Becomes .completionRecord (.completionRecord c) s (fun t => channelEnded t c 1 index ∧ (t.chan c).fault = true ∧
        (t.chan c).cause = cause ∧ deferredNow s t q.cmd.task cause q.cmd.col ∧
        (w.getLsbD 63 = false → t.mem = s.mem) ∧
        (w.getLsbD 63 = true → awake s → t.num home 8 =
          2 ^ 63 + 2 ^ 60 + q.pois.toNat * 2 ^ 59 + cause % 256 * 2 ^ 48 + index % 65536 * 2 ^ 32 + q.cnt / 8 % 2 ^ 32)))) ∧
  (∀ (s : State) (c : Nat) (q : Run) (g : Guard) (a b : RegF) (m : BitVec 2), (s.chan c).run = some q →
    q.cmd.ins = .ttinv g a b m → (s.task q.cmd.task).exiting = false →
    let vf := q.cmd.s1.toNat / 65536 % 1024
    let tid := q.cmd.s1.toNat % 65536
    let first := q.cmd.s2.toNat % 2 ^ 32
    let count := q.cmd.s2.toNat / 2 ^ 32
    Becomes .ttinvCompletion (.ttinvCompletion c) s (fun t => channelEnded t c 0 1 ∧
      ∀ p e, e ∈ (t.port p).tile → e.vf = vf →
        (m = 0 → e.tid = tid → e.tile < first ∨ first + count ≤ e.tile) ∧ (m = 1 → e.tid ≠ tid) ∧ m ≠ 2))

/-- Accesses at their ports, banks and dispensers, page requests and answers, memory errors, PUT. An event happens
when a step takes it off the agenda (log 3). -/
def Obligations.MemoryEvents : Prop :=
  (∀ (s : State) (r : Req), s.req r.id = some r → r.tag = none → (s.task r.task).may r.id = .home →
    s.lsWaiting r.task = false →
    let go := Becomes .portAccess (.portAccess r.id) s
    let walk := s.translate r.die r.vf r.ag.tid.toNat r.ag.coord (decide (r.kind = .tnStore)) r.size
    let key := s.keyNo r.vf
    (∀ p tile d e hd pa, walk = .ok p tile d e hd pa false → r.kind = .tnLoad → go (fun t =>
      flies t r (landVal (s.hbmBytes key (hbmNo hd pa) r.size)) none ∧ t.mem = s.mem)) ∧
    (∀ p tile d e hd pa, walk = .ok p tile d e hd pa true → r.kind = .tnLoad → go (fun t =>
      flies t r 0 (some 0x12) ∧ t.mem = s.mem)) ∧
    (∀ p tile d e hd pa po, walk = .ok p tile d e hd pa po → r.kind = .tnStore → teDirty e = true → go (fun t =>
      t.req r.id = none ∧
      (∀ k, k < r.val.length → t.hbmByte key (hbmNo hd pa + k) = r.val.getD k 0) ∧
      ∀ a, a < hbmNo hd pa ∨ hbmNo hd pa + r.val.length ≤ a → t.hbmByte key a = s.hbmByte key a)) ∧
    (∀ cause ev, walk = .fault cause ev → r.kind = .tnLoad → go (fun t => flies t r 0 (some cause) ∧ t.mem = s.mem)) ∧
    (∀ cause ev, walk = .fault cause ev → r.kind = .tnStore → go (fun t =>
      deferredNow s t r.task cause r.col ∧ t.req r.id = none ∧ t.mem = s.mem)) ∧
    (let h := r.ag.tid.toNat
     let p := s.parcel r.vf h
     (r.kind = .pcLoad false → p.st ≠ .localP → s.sealing r = false →
       go (fun t => flies t r 0 (some 0x31) ∧ t.mem = s.mem)) ∧
     (r.kind = .pcLoad false → p.st = .localP → p.len < r.addr + r.size → go (fun t => flies t r 0 (some 0x11) ∧ t.mem = s.mem)) ∧
     (r.kind = .pcLoad false → p.st = .localP → r.addr + r.size ≤ p.len → s.parcelPoison r.vf h p r.addr = false →
       go (fun t => flies t r (landVal (s.parcelRead r.vf h p r.addr r.size)) none ∧ t.mem = s.mem)) ∧
     (r.kind = .pcStore → p.st = .localP → r.addr + r.size ≤ p.len → h < 49152 → h % 4096 < (s.vf r.vf).pclCount →
       go (fun t => (t.parcel r.vf h).marks = p.marks.filter (fun n => decide (n ≠ r.addr / 8)) ∧ t.req r.id = none ∧
         ∀ t0, s.vfWrite r.vf (s.parcelAddr r.vf h p r.addr) r.val = some t0 → t.mem = t0.mem)))) ∧
  (∀ (s : State) (r : Req) (p tid tile e : Nat) (d : DescE), s.req r.id = some r →
    s.translate r.die r.vf r.ag.tid.toNat r.ag.coord (decide (r.kind = .tnStore)) r.size = .miss p tid tile d →
    s.vfNum r.vf (d.base + 8 * tile) 8 = some e → (∀ m, (s.port p).missOf r.vf tid tile = some m → m.tag = none) →
    let go := Becomes .tileTableMiss (.tileTableMiss r.id) s
    (tePresent e = true → go (fun t => t.cached p r.vf tid tile = some e ∧ .portAccess r.id ∈ t.agenda)) ∧
    (tePresent e = false → s.pages = [] → s.missFull p r.vf tid tile = false → p / 8 ∉ s.fw.down → 0 ∉ s.fw.down →
      go (fun t => ∃ tag,
      t.pages = [⟨tag, p, r.vf, tid, tile, decide (r.kind = .tnStore), [r.id], []⟩] ∧
      t.out = s.out ++ [.host r.vf 2 [tag, r.vf, tid, tile, (decide (r.kind = .tnStore)).toNat, p / 8]]))) ∧
  (∀ (s : State) (p : PageReq) (w : Word), s.pages = [p] → p.port / 8 ∉ s.fw.down → 0 ∉ s.fw.down →
    (p.reqs = [] → p.chans = [] → ∀ ok, Becomes .pageAnswer (.pageAnswer p.tag ok w) s (fun t => t.pages = [] ∧
      t.out = s.out ++ [.host p.vf 3 [p.tag]] ∧ t.mem = s.mem)) ∧
    (∀ c d t0, p.reqs = [] → p.chans = [c] → tePresent w.toNat = true → s.readDesc p.vf p.tid = .ok d →
      s.vfWrite p.vf (d.base + 8 * p.tile) (bytesOf 8 w.toNat) = some t0 →
      Becomes .pageAnswer (.pageAnswer p.tag true w) s (fun t => t.pages = [] ∧ t.mem = t0.mem ∧
        (t.chan c).page = false ∧ (t.chan c).noPage = false ∧ .completionRecord c ∈ t.agenda)) ∧
    (∀ r, p.reqs = [r.id] → p.chans = [] → s.req r.id = some r → r.task = s.fg.key → s.fg.stop = .page →
      s.fg.pages = [p.tag] → s.fg.resumeAt = none → s.lsWaiting r.task = false →
      s.fg.state = .primary → (∀ x, x ∈ fvals s.bg → x.key ≠ s.fg.key) →
      Becomes .pageAnswer (.pageAnswer p.tag false w) s (fun t => t.pages = [] ∧ t.req r.id = none ∧
        t.fg.resumeAt = some (r.addr, r.col) ∧ t.fg.stop = .run ∧ t.mem = s.mem))) ∧
  (∀ (s : State) (die f : Nat),
    let n := die * 8 + f % 8
    (f ∈ (s.port n).poison → Becomes .uncorrectableHbmError (.uncorrectableHbmError die f) s (fun t =>
      t.port n = s.port n ∧ t.out = s.out)) ∧
    (f ∉ (s.port n).poison → (s.port n).poison.length < 4096 →
      Becomes .uncorrectableHbmError (.uncorrectableHbmError die f) s (fun t =>
        (t.port n).poison = (s.port n).poison ++ [f] ∧ t.out = s.out ++ [.host 0 4 [die, f]]))) ∧
  (∀ (s : State) (r : Req), s.req r.id = some r → (s.task r.task).may r.id = .home → s.lsWaiting r.task = false →
    let go := Becomes .bankAccess (.bankAccess r.id) s
    (r.kind = .dmLoad → s.dmPoisoned r.addr r.size = false → go (fun t =>
      flies t r (landVal (s.bytes r.addr r.size)) none ∧ t.mem = s.mem)) ∧
    (r.kind = .dmLoad → s.dmPoisoned r.addr r.size = true → go (fun t => flies t r 0 (some 0x12) ∧ t.mem = s.mem)) ∧
    (r.kind = .dmStore → awake s → go (fun t => t.req r.id = none ∧ t.bytes r.addr r.val.length = r.val ∧
      ∀ a, a < r.addr ∨ r.addr + r.val.length ≤ a → t.byte a = s.byte a)) ∧
    (r.kind = .bank → r.addr % r.size = 0 →
      let a := dmNo r.die (vget 0 (s.vf r.vf).dmBase r.die * 32768 + r.addr)
      let old := s.num a r.size
      let m := 2 ^ (8 * r.size)
      let v := r.v.toNat % m
      let rmw (new : Nat) (ret : Bool) : Prop := go (fun t => t.num a r.size = new ∧
        (ret = true → flies t r (BitVec.ofNat 1024 old) none) ∧ t.req r.id = none ∧
        ∀ b, b < a ∨ a + r.size ≤ b → t.byte b = s.byte b)
      (vget 0 (s.vf r.vf).dmSize r.die < r.addr + r.size → bankReturns r.ins = false → go (fun t =>
        deferredNow s t r.task 0x11 r.col ∧ t.mem = s.mem)) ∧
      (r.addr + r.size ≤ vget 0 (s.vf r.vf).dmSize r.die → s.dmPoisoned a r.size = true → bankReturns r.ins = false → go (fun t =>
        deferredNow s t r.task 0x12 r.col ∧ t.mem = s.mem)) ∧
      (r.addr + r.size ≤ vget 0 (s.vf r.vf).dmSize r.die → s.dmPoisoned a r.size = false → awake s → 0 < r.size →
        (∀ g x y c z, (r.ins = .badd g x y c z → rmw ((old + v) % m) false) ∧ (r.ins = .bfaa g x y c z → rmw ((old + v) % m) true) ∧
          (r.ins = .band g x y c z → rmw (old &&& v) false) ∧ (r.ins = .bor g x y c z → rmw (old ||| v) false) ∧
          (r.ins = .bxor g x y c z → rmw (old ^^^ v) false) ∧ (r.ins = .bswp g x y c z → rmw v true) ∧
          (r.ins = .bcas g x y c z → rmw (if old = r.e.toNat % m then v else old) true)) ∧
        (∀ g x y c z, (r.ins = .bmin g x y c 1 z → rmw (min old v) false) ∧ (r.ins = .bmax g x y c 1 z → rmw (max old v) false) ∧
          (r.ins = .bmin g x y c 0 z → rmw (if (BitVec.ofNat (8 * r.size) v).toInt < (BitVec.ofNat (8 * r.size) old).toInt then v else old) false) ∧
          (r.ins = .bmax g x y c 0 z → rmw (if (BitVec.ofNat (8 * r.size) old).toInt < (BitVec.ofNat (8 * r.size) v).toInt then v else old) false))))) ∧
  (∀ (s : State) (die line : Nat), line < 2097152 → die < 12 →
    let k := (dmNo die 0) / 64 + line
    (fget false s.dmPois k = false → Becomes .dmUncorrectableError (.dmUncorrectableError die line) s (fun t =>
      fget false t.dmPois k = true ∧ t.out = s.out ++ [.host 0 5 [die, line]])) ∧
    (fget false s.dmPois k = true → Becomes .dmUncorrectableError (.dmUncorrectableError die line) s (fun t =>
      t.dmPois = s.dmPois ∧ t.out = s.out))) ∧
  (∀ (s : State) (r : Req), s.req r.id = some r →
    let go := Becomes .dispenserAccess (.dispenserAccess r.id) s
    let k := (s.vf r.vf).tkBase + r.addr
    let x := s.ticket r.die k
    ((s.vf r.vf).tkCount ≤ r.addr → go (fun t => t.tickets = s.tickets ∧ deferredNow s t r.task 0x11 r.col)) ∧
    (r.addr < (s.vf r.vf).tkCount → r.kind = .tkTake → (s.task r.task).may r.id = .home → go (fun t =>
      (t.ticket r.die k).next = (x.next + 1) % 2 ^ 32 ∧ (t.ticket r.die k).serving = x.serving ∧
      flies t r (BitVec.ofNat 1024 x.next) none)) ∧
    (r.addr < (s.vf r.vf).tkCount → before (s.task r.task).accs r.id = [] →
      (r.kind = .tkNext false → go (fun t => (t.ticket r.die k).serving = (x.serving + 1) % 2 ^ 32 ∧
        (t.ticket r.die k).next = x.next)) ∧
      (r.kind = .tkNext true → go (fun t => t.ticket r.die k = Ticket.zero)))) ∧
  (∀ (s : State) (r : Req) (t0 : Task), s.req r.id = some r → (s.task r.task).may r.id = .home → r.val.length = r.size →
    s.lsWaiting r.task = false →
    let l := s.launchOf (s.task r.task)
    let idx := r.addr / 2 ^ 28 % 2 ^ 32
    let off := r.addr % 2 ^ 28
    let go := Becomes .putArrival (.putArrival r.id) s
    off % r.size = 0 → 0 < r.size →
    ((l.xm + 1) * (l.ym + 1) * (l.zm + 1) ≤ idx → go (fun t => deferredNow s t r.task 0x11 r.col ∧ t.mem = s.mem)) ∧
    (idx < (l.xm + 1) * (l.ym + 1) * (l.zm + 1) → s.putTarget (s.task r.task).launch idx = some t0 →
      (r.addr / 2 ^ 63 % 2 = 1 → off + r.size ≤ vget 0 (s.vf r.vf).dmSize t0.die → awake s → go (fun t => t.req r.id = none ∧
        t.bytes (dmNo t0.die (vget 0 (s.vf r.vf).dmBase t0.die * 32768 + off)) r.size = r.val)) ∧
      (r.addr / 2 ^ 63 % 2 = 0 → off < 2 ^ 22 → off + r.size ≤ l.lsTiles * 4096 → t0.state = .primary →
        (s.owner (coreOf t0.unit) (t0.lsBase + off / 4096)).getLsbD 7 = false → go (fun t => t.req r.id = none ∧
          t.bytes (lsNo (coreOf t0.unit) (t0.lsBase * 4096 + off)) r.size = r.val)) ∧
      (r.addr / 2 ^ 63 % 2 = 0 → off < 2 ^ 22 → off + r.size ≤ l.lsTiles * 4096 → t0.state = .pending → go (fun t =>
        t.heldPuts = s.heldPuts ++ [r] ∧ t.mem = s.mem))))

/-- Wakes, completed barriers and supersteps, passed limits, cycles found by firmware, and the steps of a parcel's
way. An event happens when a step takes it off the agenda (log 3). -/
def Obligations.SynchronisationEvents : Prop :=
  (∀ (s : State) (k d a : Nat) (sl : Sleep), (s.task k).key = k → (s.task k).sleep = some sl → sl.obj = .word d a →
    let holds := waitTest sl.cond (BitVec.ofNat 64 (s.num a 8)) sl.val
    (holds = true → Becomes .monitorWake (.monitorWake k) s (fun t => woken t k 0)) ∧
    (holds = false → Becomes .monitorWake (.monitorWake k) s (fun t => t.tasks = s.tasks)) ∧
    (∀ n, sl.limit = some n →
      (n ≤ s.now / 8 * 8 → holds = true → Becomes .waittLimitExpiry (.waittLimitExpiry k) s (fun t => woken t k 0)) ∧
      (n ≤ s.now / 8 * 8 → holds = false → Becomes .waittLimitExpiry (.waittLimitExpiry k) s (fun t => woken t k 1)) ∧
      (s.now / 8 * 8 < n → Becomes .waittLimitExpiry (.waittLimitExpiry k) s (fun t => t.tasks = s.tasks)))) ∧
  (∀ (s : State) (die obj : Nat) (sl : Sleep) (b : Barr), s.barOf (objWord 3 die obj) = some b → obj % 2 ^ 32 < b.count →
    s.fg.sleep = some sl → (∀ x, x ∈ fvals s.bg → x.key ≠ s.fg.key) →
    (b.step = false → sl.obj = .barrier die obj → Becomes .barrierCompletion (.barrierCompletion die obj) s (fun t =>
      woken t s.fg.key 0 ∧ t.fg.comm = s.fg.comm)) ∧
    (b.step = true → sl.obj = .super die obj → Becomes .superstepCompletion (.superstepCompletion die obj) s (fun t =>
      woken t s.fg.key 0 ∧ t.fg.comm = !s.fg.comm))) ∧
  (∀ (s : State) (sl : Sleep) (x : Word) (cyc : List (Nat × Word)) (h : Nat), s.ev = .firmwareCycleWalk s.fg.key →
    s.fg.sleep = some sl → s.sleepWord s.fg = some x → s.fg.waitStat.getLsbD 3 = true →
    (s.walk s.fg x (2 ^ 64) (s.tasks.length + 1) [(x, [(s.fg.key, x)])] 0).2.1 = some cyc →
    s.fg.pend = [] → s.fg.land = [] → s.fg.divDue = false → s.frozen (s.fg.unit / 4) = false →
    s.fg.active = false → s.handler s.fg 0x20 = some h →
    ∃ t, exec .firmwareCycleWalk s = .next t ∧ t.fg.sleep = none ∧ t.fg.pc = h ∧ t.fg.trapCause.toNat % 256 = 0x20 ∧
      t.fg.trapCause.toNat / 2 ^ 16 % 4096 = sl.pc % 4096) ∧
  (∀ (s : State) (n : Nat) (p : ParcelIn) (m : Mig), s.migs = [m] → m.vf = p.vf → m.round = 3 →
    Becomes .mailboxGrant (.mailboxGrant n (some p)) s (fun t => t.xfers = s.xfers ∧ t.out = s.out ++ [.offerMoved p.pkg n m.dest])) ∧
  (∀ (s : State) (n : Nat) (p : ParcelIn), s.mboxRefuses p.vf p.die p.mbox p.len = true →
    (∀ m, m ∈ s.migs → m.vf = p.vf → m.round ≠ 3) →
    (∀ x, x ∈ s.xfers → x.id ≠ 2 * (p.pkg * 2 ^ 64 + n) + 1) →
    Becomes .mailboxGrant (.mailboxGrant n (some p)) s (fun t => t.xfers = s.xfers ∧ t.out = s.out ++ [.grant p.pkg n false])) ∧
  (∀ (s : State) (x : Xfer) (h : Nat), s.xfers = [x] → x.far = none → x.dst = none → x.id % 2 = 0 → s.leaving x.vf = false →
    s.freeHandle x.vf x.die = some h → h < 49152 → h % 4096 < (s.vf x.vf).pclCount → h ≠ x.src →
    (s.arrivedAt x.vf x.die x.mbox).length < 16 → pagesOf x.len ≤ (s.freePages x.vf x.die).length →
    (∀ a, a ∈ (s.task x.task).accs → x.id / 2 ≤ a.id) →
    Becomes .mailboxGrant (.mailboxGrant x.id none) s (fun t => t.xfers = [{ x with dst := some h }] ∧
      (t.parcel x.vf h).st = .transit ∧ (t.parcel x.vf h).len = x.len ∧ .parcelArrival x.id ∈ t.agenda)) ∧
  (∀ (s : State) (x : Xfer) (h : Nat), s.xfers = [x] → x.dst = some h → x.id % 2 = 0 → h < 49152 →
    h % 4096 < (s.vf x.vf).pclCount →
    (∀ e, e ∈ s.claspOf x.die → ¬ (e.sort = .wait ∧ e.obj = objWord 4 x.die x.mbox ∧ e.vf = x.vf)) →
    Becomes .parcelArrival (.parcelArrival x.id) s (fun t => (t.parcel x.vf h).st = .arrived ∧
      t.arrivedAt x.vf x.die x.mbox = s.arrivedAt x.vf x.die x.mbox ++ [h] ∧ .parcelDeliveryAck x.id 0 ∈ t.agenda)) ∧
  (∀ (s : State) (x : Xfer) (pkg : Nat), s.xfers = [x] → x.far = some pkg → x.id % 2 = 0 → x.src < 49152 →
    x.src % 4096 < (s.vf x.vf).pclCount →
    Becomes .parcelDeliveryAck (.parcelDeliveryAck x.id 0) s (fun t => t.xfers = [] ∧ (t.parcel x.vf x.src).st = .freed ∧
      resulted t x.task (x.id / 2) (parcelResult 0 x.len x.src)) ∧
    Becomes .parcelDeliveryAck (.parcelDeliveryAck x.id 2) s (fun t => t.xfers = [] ∧ (t.parcel x.vf x.src).st = .localP ∧
      resulted t x.task (x.id / 2) (parcelResult 2 x.len x.src)) ∧
    (∀ c far, c < 4096 → s.wordPkg (BitVec.ofNat 64 (c * 2 ^ 52)) = some far → far ≠ s.ownPkg →
      Becomes .parcelDeliveryAck (.parcelDeliveryAck x.id (4096 + c)) s (fun t => t.xfers = [{ x with far := some far }] ∧
        t.parcels = s.parcels ∧ t.out = s.out ++ [.offer x.vf far x.die x.mbox x.len (x.id / 2)])))

/-- Pairs and groups, charms, bound queues and LS transfers of a strip. An event happens when a step takes it off the
agenda (log 3). -/
def Obligations.ChainEvents : Prop :=
  (∀ (s : State) (c : Nat) (r : Rec) (g : Guard) (a : RegF) (i : BitVec 1), (s.strip c).run = some r →
    r.ins = .chain g a i → (s.strip c).fired = false → 0 < (s.strip c).passes →
    let x := s.strip c
    let ka := heads s c false
    let vb := heads s c true
    let go := Becomes .pairFire (.pairFire c) s
    ((s.task r.task).stop = .debug → go (fun t => t.strips = s.strips ∧ .pairFire c ∈ t.agenda)) ∧
    ((s.task r.task).stop ≠ .debug → x.cancel = true → (s.task r.task).exiting = false → go (fun t => stripEnded t c 2)) ∧
    ((s.task r.task).stop ≠ .debug → x.cancel = false →
      (ka.length < x.passes ∨ vb.length < x.passes → go (fun t => t.strips = s.strips ∧ .pairFire c ∈ t.agenda)) ∧
      (ka.length = x.passes → vb.length = x.passes → (∃ n, n < 65 ∧ 0 < n ∧ fit ka x.kfmt n ∧ fit vb x.vfmt n) → go (fun t =>
        t.strip c = { x with fired := true } ∧ .chainCommit c ∈ t.agenda)) ∧
      (ka.length = x.passes → vb.length = x.passes → (∀ e, e ∈ ka ++ vb → e.pois = false) →
        (¬ ∃ n, n < 65 ∧ 0 < n ∧ fit ka x.kfmt n ∧ fit vb x.vfmt n) → (s.task r.task).exiting = false →
        go (fun t => stripEnded t c 1 ∧ (t.strip c).lastCause = 0x40 ∧ deferredNow s t r.task 0x40 r.col)) ∧
      (ka.length = x.passes → vb.length = x.passes → (∃ e, e ∈ ka ++ vb ∧ e.pois = true) → (s.task r.task).exiting = false →
        go (fun t => stripEnded t c 1 ∧ (t.strip c).lastCause = 0x12 ∧ deferredNow s t r.task 0x12 r.col)))) ∧
  (∀ (s : State) (c : Nat) (r : Rec) (g : Guard) (a : RegF) (n : BitVec 3), (s.strip c).run = some r →
    r.ins = .mv g a n → (s.strip c).fired = false → (s.task r.task).stop ≠ .debug → (s.strip c).cancel = false →
    let x := s.strip c
    let ws := heads s c true
    let go := Becomes .pairFire (.pairFire c) s
    (ws.length < x.passes → go (fun t => t.strips = s.strips ∧ .pairFire c ∈ t.agenda)) ∧
    (∀ k, ws.length = x.passes → 0 < x.passes → 0 < k → k ≤ 64 → fit ws x.kfmt k →
      x.row + x.left * k ≤ (vget TileReg.zero x.treg (n.toNat % 2)).rows → go (fun t =>
        t.strip c = { x with fired := true } ∧ .mvGroupCommit c ∈ t.agenda))) ∧
  (∀ (s : State) (c : Nat) (r : Rec) (g : Guard) (a : RegF) (i : BitVec 1), (s.strip c).run = some r →
    r.ins = .chain g a i → (s.strip c).fired = true → (s.task r.task).stop ≠ .debug → (s.strip c).cancel = false →
    (s.task r.task).exiting = false → s.shares c = false → s.pairThere c r = true → noCopies s c →
    let x := s.strip c
    let ka := heads s c false
    let kn := match ka with | e :: _ => e.rows | [] => 0
    Becomes .chainCommit (.chainCommit c) s (fun t =>
      (∀ j, j < 16 →
        let new := chainRow x.scale2 ka (heads s c true) kn (x.qRow j) (fun _ => true) (vget 0 x.sm j) (vget 0 x.sl j) (x.oRow j)
        vget 0 (t.strip c).sm j = new.1 ∧ vget 0 (t.strip c).sl j = new.2.1 ∧ vget 0 (t.strip c).sc j = new.2.2.1) ∧
      (t.strip c).qa = x.qa.drop x.passes ∧ (t.strip c).qb = x.qb.drop x.passes ∧ (t.strip c).pairs = x.pairs + 1 ∧
      (x.left ≤ 1 → stripEnded t c 0) ∧
      (1 < x.left → (t.strip c).run = some r ∧ (t.strip c).left = x.left - 1 ∧ .pairFire c ∈ t.agenda))) ∧
  (∀ (s : State) (c : Nat) (r : Rec) (g : Guard) (a : RegF) (n : BitVec 3), (s.strip c).run = some r →
    r.ins = .mv g a n → (s.strip c).fired = true → (s.task r.task).stop ≠ .debug → (s.strip c).cancel = false →
    (s.task r.task).exiting = false → s.shares c = false → s.pairThere c r = true → noCopies s c →
    let x := s.strip c
    let ws := heads s c true
    let j := n.toNat % 2
    Becomes .mvGroupCommit (.mvGroupCommit c) s (fun t =>
      vget TileReg.zero (t.strip c).treg j = x.mvRows ws (vget TileReg.zero x.treg j) x.row ∧
      (t.strip c).qb = x.qb.drop x.passes ∧ (t.strip c).pairs = x.pairs + 1 ∧ (x.left ≤ 1 → stripEnded t c 0) ∧
      (1 < x.left → (t.strip c).run = some r ∧ (t.strip c).left = x.left - 1 ∧ .pairFire c ∈ t.agenda))) ∧
  (∀ (s : State) (c : Nat) (r : Rec) (k : CharmRun), (s.strip c).run = some r → (s.strip c).charm = some k →
    (s.task r.task).stop ≠ .debug → (s.task r.task).exiting = false → 16 ≤ k.num → noCopies s c →
    k.words ≠ [] → (lget 0 k.words k.pc).toNat / 2 ^ 60 = 0 →
    Becomes .charmCompletion (.charmCompletion c) s (fun t => stripEnded t c 0 ∧ (t.strip c).charm = none ∧
      ∀ j, j < 2 → vget TileReg.zero (t.strip c).treg j =
        (match vget none k.outs j with | some o => o | none => vget TileReg.zero (s.strip c).treg j))) ∧
  (∀ (s : State) (c : Nat) (r : Rec) (g : Guard) (a b : RegF), (s.strip c).run = some r → r.ins = .chld g a b →
    let n := r.s2.toNat % 256
    (∀ ws, s.chldWords r = .ok ws → (s.task r.task).exiting = false →
      (∀ k, k < 4 → ∀ q, (s.strip (c / 4 * 4 + k)).charm = some q → q.num ≠ n) →
      Becomes .charmWrite (.charmWrite c) s (fun t => (t.charm (c / 4) n).words = ws ∧
        (t.charm (c / 4) n).vf = (s.task r.task).vf ∧ stripEnded t c 0)) ∧
    ((∃ k q, k < 4 ∧ (s.strip (c / 4 * 4 + k)).charm = some q ∧ q.num = n) →
      Becomes .charmWrite (.charmWrite c) s (fun t => t.charms = s.charms ∧ .charmWrite c ∈ t.agenda))) ∧
  (∀ (s : State) (c n kn fmt : Nat) (qb : Bool) (w : Word) (rest : List Word), (s.strip c).bound qb = some (n, kn, fmt) →
    (s.task (s.strip c).holder).key = (s.strip c).holder → n < 8 → (s.unitOfCol c).2 < 4 →
    (vget Lq.none ((s.task (s.strip c).holder).bank (s.unitOfCol c).2).lq n).fifo = w :: rest →
    let k := (s.strip c).holder
    let go := Becomes .boundQueueWord (.boundQueueWord c qb) s
    ((s.strip c).queue qb = [] → 1 < boundWords kn fmt → go (fun t =>
      (t.strip c).queue qb = [⟨kn, 64, fmt, [], [], false, [w], false⟩] ∧
      (vget Lq.none ((t.task k).bank (s.unitOfCol c).2).lq n).fifo = rest ∧ .boundQueueWord c qb ∈ t.agenda)) ∧
    (4 ≤ ((s.strip c).queue qb).length → (∀ e, e ∈ (s.strip c).queue qb → e.done = true) → go (fun t =>
      t.strips = s.strips ∧ t.tasks = s.tasks))) ∧
  (∀ (s : State) (c : Nat) (r : Rec) (g : Guard) (a : RegF) (n : BitVec 3), (s.strip c).run = some r →
    r.ins = .tld g a n → (s.task r.task).state ≠ .killed → (s.task r.task).exiting = false → s.lsStores (c / 4) = false →
    let x := s.strip c
    let j := n.toNat % 2
    let reg := vget TileReg.zero x.treg j
    let go := Becomes .stripTransferCompletion (.stripTransferCompletion c) s
    (∀ m, x.holds r j = true → reg.type = 0xF → s.lsSpan (s.task r.task) 1 r.col r.s1 8 (8 * reg.rows) true = .ok m →
      go (fun t => stripEnded t c 0 ∧ t.mem = s.mem ∧
        vget TileReg.zero (t.strip c).treg j = reg.fill (s.packed m 64 reg.rows))) ∧
    (∀ cause, x.holds r j = true → reg.type = 0xF →
      s.lsSpan (s.task r.task) 1 r.col r.s1 8 (8 * reg.rows) true = .error cause →
      go (fun t => stripEnded t c 1 ∧ (t.strip c).lastCause = cause ∧ deferredNow s t r.task cause r.col ∧ t.mem = s.mem)))

/-- The steps of remote operations, circuits, endpoints, and the fabric's tables. An event happens when a step takes
it off the agenda (log 3). -/
def Obligations.FabricEvents : Prop :=
  (∀ (s : State) (u : Nat) (r : Rec) (rest : List Rec), (s.unit u).qFabric = r :: rest →
    let go := Becomes .requestInject (.requestInject u) s
    (∀ g a, r.ins = .pfree g a → (s.task r.task).exiting = false →
      (s.parcel (s.task r.task).vf (r.s1.toNat % 65536)).st = .localP → go (fun t => (t.unit u).qFabric = rest ∧
        (t.parcel (s.task r.task).vf (r.s1.toNat % 65536)).st = .unused)) ∧
    (∀ g a b c z, r.ins = .rput g a b c z → s.wordPkg r.s1 = some s.ownPkg → r.s1.toNat / 2 ^ 40 % 4 = 0 →
      r.s1.toNat / 2 ^ 48 % 16 < 12 → s.fab.out = [] → s.fab.pend = [] → s.path (s.task r.task).die s.ownPkg ≠ none →
      (s.task r.task).exiting = false →
      ((s.task r.task).may r.acc = .home → go (fun t => (t.unit u).qFabric = rest ∧
        ∃ q o, t.fab.out = [o] ∧ t.fab.wire = s.fab.wire ++ [q] ∧ o.req = q ∧ o.task = r.task ∧ o.acc = r.acc ∧
          q.op = .put ∧ q.addr = r.s1 ∧ q.val = r.s2 ∧ q.retx = false ∧ q.srcDie = (s.task r.task).die ∧
          q.size = (if z = 0 then 8 else if z = 1 then 4 else if z = 2 then 2 else 1) ∧ .remoteRequestReceive q ∈ t.agenda)) ∧
      ((s.task r.task).may r.acc ≠ .home → go (fun t => t.units = s.units ∧ t.fab = s.fab ∧ .requestInject u ∈ t.agenda)))) ∧
  (∀ (s : State) (r : RemoteReq) (m : Mig) (pkg : Nat), r.srcPkg ≠ s.ownPkg → (∀ q ∈ s.reqs, q.kind ≠ .lsStore) →
    s.migs = [m] → m.vf = r.vf → fget [] s.fab.replay (r.addr.toNat / 2 ^ 48 % 16) = [] → r.retx = false →
    (r.stub = true → (s.vf r.vf).iface = .run) →
    s.wordPkg (BitVec.ofNat 64 (m.dest * 2 ^ 52)) = some pkg →
    (0 < m.round → m.round < 3 → pkg ≠ s.ownPkg → s.fab.out = [] → s.fab.pend = [] →
      s.path (r.addr.toNat / 2 ^ 48 % 16) pkg ≠ none →
      Becomes .remoteRequestReceive (.remoteRequestReceive r) s (fun t => t.mem = s.mem ∧
        (∃ q o, t.out = s.out ++ [.request q pkg (q.addr.toNat / 2 ^ 48 % 16)] ∧ t.fab.out = [o] ∧ o.req = q ∧
          o.fwd = some (r.srcPkg, r.srcDie, r.xid) ∧
          (let home := r.addr.toNat / 2 ^ 48 % 16
           q = { r with srcPkg := s.ownPkg, srcDie := home, xid := q.xid, addr := putBits r.addr 63 52 m.dest, stub := true })) ∧
        fget [] t.fab.replay (r.addr.toNat / 2 ^ 48 % 16) = [⟨r.srcPkg, r.srcDie, r.xid, .forwarded⟩])) ∧
    (m.round = 3 → Becomes .remoteRequestReceive (.remoteRequestReceive r) s (fun t => t.mem = s.mem ∧
      t.out = s.out ++ [.reply r.srcPkg r.srcDie r.xid (.moved m.dest)]))) ∧
  (∀ (s : State) (r : RemoteReq), r.srcPkg ≠ s.ownPkg → (∀ q ∈ s.reqs, q.kind ≠ .lsStore) → r.stub = true →
    (s.vf r.vf).iface ≠ .run → fget [] s.fab.replay (r.addr.toNat / 2 ^ 48 % 16) = [] → s.fab.held = [] → r.retx = false →
    Becomes .remoteRequestReceive (.remoteRequestReceive r) s (fun t => t.mem = s.mem ∧ t.out = s.out ∧ t.fab.held = [r])) ∧
  (∀ (s : State) (r : RemoteReq), r.srcPkg ≠ s.ownPkg → s.migs = [] → (∀ q ∈ s.reqs, q.kind ≠ .lsStore) →
    (r.stub = true → (s.vf r.vf).iface = .run) →
    let die := r.addr.toNat / 2 ^ 48 % 16
    let off := r.addr.toNat % 2 ^ 28
    let a := dmNo die (vget 0 (s.vf r.vf).dmBase die * 32768 + off)
    let go := Becomes .remoteRequestReceive (.remoteRequestReceive r) s
    (∀ e, (fget [] s.fab.replay die).find? (fun e => decide (e.pkg = r.srcPkg) && decide (e.die = r.srcDie) &&
        decide (e.xid = r.xid)) = some e → e.kind ≠ .forwarded →
      go (fun t => t.mem = s.mem ∧ t.out = s.out ++ [.reply r.srcPkg r.srcDie r.xid e.kind])) ∧
    (fget [] s.fab.replay die = [] → r.retx = true → go (fun t => t.mem = s.mem ∧
      t.out = s.out ++ [.reply r.srcPkg r.srcDie r.xid .stale])) ∧
    (fget [] s.fab.replay die = [] → r.retx = false → die < 12 → r.addr.toNat / 2 ^ 40 % 4 = 0 → 0 < r.size → r.size ≤ 8 →
      off % r.size = 0 → off + r.size ≤ vget 0 (s.vf r.vf).dmSize die → s.dmPoisoned a r.size = false → awake s →
      let old := s.num a r.size
      let m := 2 ^ (8 * r.size)
      let rmw (new : Nat) : Prop := go (fun t => t.num a r.size = new ∧
        t.out = s.out ++ [.reply r.srcPkg r.srcDie r.xid (.done (BitVec.ofNat 64 old))] ∧
        (∃ e, fget [] t.fab.replay die = [e] ∧ e.xid = r.xid ∧ e.kind = .done (BitVec.ofNat 64 old)) ∧
        ∀ b, b < a ∨ a + r.size ≤ b → t.byte b = s.byte b)
      (r.op = .add → rmw ((old + r.val.toNat) % m)) ∧ (r.op = .swp ∨ r.op = .put → rmw (r.val.toNat % m)) ∧
      (r.op = .cas → rmw (if old = r.exp.toNat % m then r.val.toNat % m else old)) ∧ (r.op = .get → rmw old))) ∧
  (∀ (s : State) (o : Remote) (x : RemoteReply) (key : Nat × Nat × Nat) (old : Word), s.fab.out = [o] → s.fab.pend = [] →
    x.die = o.req.srcDie → x.xid = o.xid → o.fwd = some key → key.1 ≠ s.ownPkg → x.kind = .done old →
    Becomes .remoteReply (.remoteReply x) s (fun t => t.fab.out = [] ∧ t.mem = s.mem ∧
      t.out = s.out ++ [.reply key.1 key.2.1 key.2.2 (.done old)])) ∧
  (∀ (s : State) (o : Remote) (x : RemoteReply), s.fab.out = [o] → s.fab.pend = [] → x.die = o.req.srcDie → x.xid = o.xid →
    o.fwd = none → o.req.op ≠ .endpoint → o.task ≠ 0 → o.task < queueEdge 0 0 → o.id ≠ o.acc →
    (∀ old, x.kind = .done old → Becomes .remoteReply (.remoteReply x) s (fun t => t.fab.out = [] ∧
      resulted t o.task o.id old ∧ resulted t o.task o.acc 0)) ∧
    (∀ c, x.kind = .refused c → Becomes .remoteReply (.remoteReply x) s (fun t => t.fab.out = [] ∧
      resulted t o.task o.acc (BitVec.ofNat 64 (c % 256 * 256 + 2)) ∧ deferredNow s t o.task (c % 256) o.col))) ∧
  (∀ (s : State) (o : Remote), s.fab.out = [o] → s.fab.pend = [] → o.xid < 65536 → o.sent + 20000 ≤ s.now →
    let go := Becomes .retransmitTimeout (.retransmitTimeout (o.req.srcDie * 65536 + o.xid)) s
    (o.tries < 3 → o.pkg ≠ s.ownPkg → go (fun t => t.out = s.out ++ [.request { o.req with retx := true } o.pkg
        (o.req.addr.toNat / 2 ^ 48 % 16)] ∧ ∃ q, t.fab.out = [q] ∧ q.tries = o.tries + 1 ∧ q.sent = s.now)) ∧
    (3 ≤ o.tries → o.fwd = none → o.task ≠ 0 → o.task < queueEdge 0 0 → o.req.op ≠ .endpoint → o.id ≠ o.acc → go (fun t => t.fab.out = [] ∧
      resulted t o.task o.acc 3))) ∧
  (∀ (s : State) (die circ : Nat) (t0 : Task) (col n : Nat) (ws : List Word), s.fab.flits = [] → ws ≠ [] → ws.length ≤ 8 →
    s.lqs.find? (fun e => e.1.lqLive && decide (24 + e.1.die = 24 + die) &&
      decide ((e.1.lqAt e.2.1 e.2.2).bind = some (.recvCirc circ))) = some (t0, col, n) → s.task t0.key = t0 → col < 4 → n < 8 → (t0.lqAt col n).fifo.length + ws.length ≤ 64 →
    Becomes .circuitFlitArrival (.circuitFlitArrival (24 + die) circ ws) s (fun t => t.fab.flits = [] ∧
      ((t.task t0.key).lqAt col n).fifo = (t0.lqAt col n).fifo ++ ws)) ∧
  (∀ (s : State) (port circ : Nat) (ws : List Word), port < 24 → ws ≠ [] → ws.length ≤ 8 →
    Becomes .circuitFlitArrival (.circuitFlitArrival port circ ws) s (fun t =>
      t.fab.flits = s.fab.flits ++ [(port * 256, ws)] ∧ t.tasks = s.tasks)) ∧
  (∀ (s : State) (src die vf : Nat) (dst : Word) (t0 : Task) (col n : Nat) (ws : List Word), s.fab.pkts = [] → ws ≠ [] →
    s.endpoint dst vf = some (t0, col, n) → s.task t0.key = t0 → col < 4 → n < 8 →
    (t0.lqAt col n).fifo.length + ws.length ≤ 64 →
    Becomes .endpointPacketArrival (.endpointPacketArrival src die dst vf ws) s (fun t => t.fab.pkts = [] ∧
      ((t.task t0.key).lqAt col n).fifo = (t0.lqAt col n).fifo ++ ws ∧
      ((t.task t0.key).lqAt col n).src = (t0.lqAt col n).src ++ [(src / 16, src % 16, ws.length)])) ∧
  (∀ (s : State) (k col n circ : Nat), (s.task k).key = k → col < 4 → n < 8 →
    let q := (s.task k).lqAt col n
    let key := (24 + (s.task k).die) * 256 + circ
    q.bind = some (.sendCirc circ) → 16 ≤ q.quiet → q.fifo ≠ [] → q.fifo.length < 8 → q.lost = false →
    (∀ f, f ∈ s.fab.flits → f.1 ≠ key) →
    Becomes .sendFifoPartialFlush (.sendFifoPartialFlush k col n) s (fun t => ((t.task k).lqAt col n).fifo = [] ∧
      t.fab.flits = s.fab.flits ++ [(key, q.fifo)])) ∧
  (∀ (s : State) (l : List Nat), s.fab.pend = [] → Becomes .unsafeMapUpdate (.unsafeMapUpdate l) s (fun t =>
    t.fab = { s.fab with unsafeLinks := l })) ∧
  (∀ (s : State) (link : Nat) (out : Bool), link < 24 → 0 < s.lanesOf link out →
    Becomes .laneRetirement (.laneRetirement link out) s (fun t => t.lanesOf link out = s.lanesOf link out - 1)) ∧
  (∀ (s : State) (n : Nat), s.fab.commit = some n →
    (n ≤ s.now → Becomes .beadTableCommit .beadTableCommit s (fun t => t.fab.commit = none ∧ t.mem = s.mem ∧
      (fwf 0 s.fab.shadow = true → (∀ port, s.beadFits s.fab.shadow port = true) →
        ∀ k, fget 0 t.fab.bead k = fget 0 s.fab.shadow k) ∧
      ∀ f, f ∈ t.fab.flits ↔ f ∈ s.fab.flits ∧
        ((∃ port, namesInput s.fab.bead port f.1) → ∃ port, namesInput s.fab.bead port f.1 ∧ namesInput t.fab.bead port f.1))) ∧
    (s.now < n → Becomes .beadTableCommit .beadTableCommit s (fun t => t.fab = s.fab ∧ .beadTableCommit ∈ t.agenda)))

/-- Placement, set-aside, eviction, role swaps, raises, deadlines and the ends of launches. An event happens when a
step takes it off the agenda (log 3). -/
def Obligations.SchedulerEvents : Prop :=
  (∀ (s : State) (t0 : Task) (u half base : Nat), s.fw.down = [] → s.fw.phase = .ready →
    (∀ x, x ∈ s.tasks → x.die = t0.die → x.exiting = false) →
    (∀ m, m ∈ s.mail → m.die = t0.die → ∃ n, m.what = .record n) →
    (let told : State := { s with mail := s.mail.filter (fun m => decide (m.die ≠ t0.die)) }
     s.tasks.filter (fun x => decide (x.die = t0.die) && told.readyOut x) = [t0]) → s.task t0.key = t0 → t0.state = .pending →
    s.site t0 = some (u, half, base) →
    Becomes .schedulingPoint (.schedulingPoint t0.die) s (fun t => (∀ m, m ∈ t.mail ↔ m ∈ s.mail ∧ m.die ≠ t0.die) ∧
      (t.task t0.key).resident = true ∧
      (t.task t0.key).unit = u ∧ (t.task t0.key).lsBase = base ∧ (t.task t0.key).pc = 0 ∧
      (t.task t0.key).lsSize = (s.launchOf t0).lsTiles)) ∧
  (∀ (s : State) (k : Nat), (s.task k).key = k → (s.task k).resident = true → (s.task k).stop = .run → k ≠ 0 →
    (s.writeBack k).stopWaits ((s.writeBack k).task k) false = false →
    (s.unit (s.task k).unit).prim ≠ (s.unit (s.task k).unit).sec →
    Becomes .urgentStop (.urgentStop k .setAside) s (fun t => (t.task k).state = .aside ∧ (t.task k).hasLs = (s.task k).hasLs ∧
      (t.task k).pc = (s.task k).pc ∧ (t.task k).pend = [] ∧ k ∉ (t.unit (s.task k).unit).residents)) ∧
  (∀ (s : State) (u p q : Nat), (s.unit u).prim = p → (s.unit u).sec = q → p ≠ 0 → q ≠ 0 → p ≠ q → (s.unit u).swap = true →
    (s.task p).key = p → (s.task q).key = q → (s.task p).safeNow ≠ none → (s.task p).idle = 0 → (s.task p).evict = false →
    Becomes .roleSwap (.roleSwap u) s (fun t => (t.unit u).prim = q ∧ (t.unit u).sec = p ∧ (t.unit u).swap = false ∧
      (t.task q).state = .primary ∧ (t.task p).state = .secondary)) ∧
  (∀ (s : State) (k n : Nat), (s.task k).key = k → k ≠ 0 → (s.task k).safeNow = some n → (s.task k).evict = true →
    (s.task k).resident = true → (s.task k).idle = 0 → (s.task k).evictable = true → (s.task k).waiting = false →
    (s.task k).stop = .run →
    (s.writeBack k).quiet ((s.writeBack k).task k) = true → (s.writeBack k).lsWaiting k = false →
    (s.writeBack k).frozen (coreOf ((s.writeBack k).task k).unit) = false →
    ((s.writeBack k).task k).lateLanding = false → ((s.writeBack k).task k).divDue = false →
    (s.unit (s.task k).unit).prim ≠ (s.unit (s.task k).unit).sec →
    Becomes .sliceEndEviction (.sliceEndEviction k) s (fun t => (t.task k).state = .evicted ∧ (t.task k).hasLs = false ∧
      (t.task k).evict = false ∧ (t.task k).pend = [] ∧ (t.task k).accs = (s.task k).accs ∧
      (t.task k).fences = (s.task k).fences ∧ k ∉ (t.unit (s.task k).unit).residents)) ∧
  (∀ (s : State) (k : Nat), (s.task k).key = k →
    (1048576 * ((s.task k).raises + 1) ≤ (s.task k).ready →
      Becomes .antiStarvationRaise (.antiStarvationRaise k) s (fun t => (t.task k).raises = (s.task k).raises + 1)) ∧
    ((s.task k).ready < 1048576 * ((s.task k).raises + 1) →
      Becomes .antiStarvationRaise (.antiStarvationRaise k) s (fun t => t.tasks = s.tasks))) ∧
  (∀ (s : State) (n : Nat),
    let l := fget Launch.zero s.launches n
    l.live = true → l.left = [] → 0 ∉ s.fw.down → s.qcbDie l.vf l.queue ∉ s.fw.down →
    Becomes .launchEnd (.launchEnd n) s (fun t => (fget Launch.zero t.launches n).live = false ∧
      (∀ b, b ∈ t.bars → b.launch ≠ n) ∧ ∀ p, p ∈ (t.queue l.vf l.queue).run → ¬ (p.ty = 1 ∧ p.launch = n))) ∧
  (∀ (s : State) (n d : Nat),
    let l := fget Launch.zero s.launches n
    l.live = true → l.expired = false → l.deadline = some d →
    (d ≤ s.now / 8 * 8 → Becomes .deadlineExpiry (.deadlineExpiry n) s (fun t =>
      (fget Launch.zero t.launches n).expired = true)) ∧
    (s.now / 8 * 8 < d → Becomes .deadlineExpiry (.deadlineExpiry n) s (fun t =>
      t.launches = s.launches ∧ t.tasks = s.tasks))) ∧
  (∀ (s : State) (k : Nat), (s.task k).key = k → (s.task k).alive = true → (s.task k).wrapLeft = some 0 →
    (s.task k).expired = true → (s.task k).exiting = false → s.keptAway (s.task k) = false →
    Becomes .wrapupBudgetExpiry (.wrapupBudgetExpiry k) s (fun t => (t.task k).state = .killed))

/-- Doorbells, slots, packets, token buckets, the end of queues, host services and losses of the front end. An event
happens when a step takes it off the agenda (log 3). -/
def Obligations.FrontEndEvents : Prop :=
  (∀ (s : State) (vf q : Nat) (w : Lane) (c : Qcb), s.fw.phase = .ready → s.fw.down = [] → (s.vf vf).iface ≠ .error →
    (s.vf vf).rst = 0 → (s.vf vf).valid = true → q < 64 → (s.vf vf).qcbBase % 2 ^ 40 < 2 ^ 39 → s.qcb vf q = some c →
    let go := Becomes .doorbell (.doorbell vf q w) s
    let ahead := (w.toNat + 2 ^ 32 - c.write) % 2 ^ 32
    let all := (w.toNat + 2 ^ 32 - c.read) % 2 ^ 32
    (c.en = false → go (fun t => t.mem = s.mem ∧ fget 0 t.counters 123 = (fget 0 s.counters 123 + 1) % 2 ^ 64)) ∧
    (c.en = true → 4 ≤ c.log2n → c.st ≠ 3 → 2 ^ 31 ≤ ahead → go (fun t => t.mem = s.mem)) ∧
    (c.en = true → 4 ≤ c.log2n → c.st < 2 → ahead < 2 ^ 31 → all ≤ 2 ^ c.log2n → (s.queue vf q).mapped = true →
      go (fun t => qcbIs t vf q (fun d => d.write = w.toNat ∧ d.read = c.read ∧ d.st = c.st) ∧
        (w.toNat ≠ c.read → .nopPacket vf q ∈ t.agenda))) ∧
    (c.en = true → 4 ≤ c.log2n → c.st < 2 → ahead < 2 ^ 31 → all ≤ 2 ^ c.log2n → w.toNat ≠ c.read → (s.queue vf q).mapped = false →
      (s.queue vf q).want = false → (∀ m, m ∈ s.mail → m.what ≠ .askSlot vf q) →
      let home := c.ring / 2 ^ 40 % 16
      (home = 0 → go (fun t => (t.queue vf q).mapped = true ∨ (t.queue vf q).want = true)) ∧
      (home ≠ 0 → go (fun t => (⟨home, 0, .askSlot vf q⟩ : FeMsg) ∈ t.mail ∧ qcbIs t vf q (fun d => d.write = w.toNat)))) ∧
    (c.en = true → 4 ≤ c.log2n → c.st < 2 → ahead < 2 ^ 31 → 2 ^ c.log2n < all → c.read = c.write → (∀ e, e ∈ s.queues → e.2.want = false) →
      go (fun t => qcbIs t vf q (fun d => d.st = 2 ∧ d.err = 3) ∧ (t.queue vf q).mapped = false))) ∧
  (∀ (s : State) (vf q : Nat) (c : Qcb), q < 64 → (s.vf vf).qcbBase % 2 ^ 40 < 2 ^ 39 → s.qcb vf q = some c →
    (s.queue vf q).mapped = true → (s.queue vf q).run = [] → c.read = c.write → (s.queue vf q).since + 10000 ≤ s.now →
    (∀ e, e ∈ s.queues → e.2.want = false) →
    Becomes .queueIdleUnmap (.queueIdleUnmap vf q) s (fun t => (t.queue vf q).mapped = false ∧
      qcbIs t vf q (fun d => d.st = 0))) ∧
  (∀ (s : State) (vf q : Nat) (c : Qcb) (p : List Nat), q < 64 → (s.vf vf).qcbBase % 2 ^ 40 < 2 ^ 39 → s.qcb vf q = some c →
    lget 0 p 1 = 0 →
    (atHead s vf q 0 c p → Becomes .nopPacket (.nopPacket vf q) s (fun t =>
      qcbIs t vf q (fun d => d.read = (c.read + 1) % 2 ^ 32 ∧ d.st = c.st) ∧ (t.queue vf q).run = (s.queue vf q).run)) ∧
    (atHead s vf q 3 c p → (s.queue vf q).run = [] → ∀ a t0, s.sigAt (lget 0 p 2) = .hbm a → lget 0 p 3 < 2 ^ 64 →
      (started s vf q c).vfWrite vf a (bytesOf 8 (lget 0 p 3)) = some t0 →
      Becomes .signal (.signal vf q) s (fun t => t.mem = t0.mem)) ∧
    (s.head vf q = .packet c p → 5 < lget 0 p 0 % 256 → c.write = (c.read + 1) % 2 ^ 32 →
      (∀ e, e ∈ s.queues → e.2.want = false) → Becomes .nopPacket (.nopPacket vf q) s (fun t =>
        qcbIs t vf q (fun d => d.st = 2 ∧ d.err = 1) ∧ (t.queue vf q).mapped = false)) ∧
    (atHead s vf q 1 c p → ∀ o bs n, s.lnumFor vf q = some n →
      (started s vf q c).vfRead vf (lget 0 p 2 % 2 ^ 44) 128 = some bs →
      let d := (List.range 16).map (dword bs)
      (started s vf q c).launchOk vf d o = true →
      Becomes .launch (.launch vf q o) s (fun t => ∃ key, (⟨c.read, 1, 0, [], key, 0⟩ : Pkt) ∈ (t.queue vf q).run ∧
        (∀ die, die < 12 → lget 0 d 2 / 2 ^ 46 / 2 ^ die % 2 = 1 → .schedulingPoint die ∈ t.agenda ∧
          (c.ring / 2 ^ 40 % 16 ≠ die → (⟨c.ring / 2 ^ 40 % 16, die, .record key⟩ : FeMsg) ∈ t.mail)) ∧
        (let l := fget Launch.zero t.launches key
         l.live = true ∧ l.lnum = n ∧ l.vf = vf ∧ l.obj = o ∧ l.signal = lget 0 d 6 % 2 ^ 44 ∧ l.vmap = lget 0 d 7 % 2 ^ 44 ∧
         l.lsTiles = lget 0 d 2 / 2 ^ 34 % 2 ^ 11 ∧ l.cls = lget 0 d 2 / 2 ^ 58 % 4 ∧
         l.deadline = (if lget 0 d 3 = 0 then none else some (s.now + lget 0 d 3)) ∧
         l.left = List.range ((lget 0 d 1 % 65536 + 1) * (lget 0 d 1 / 65536 % 65536 + 1) * (lget 0 d 1 / 2 ^ 32 % 65536 + 1))))) ∧
    (atHead s vf q 2 c p → (p.drop 2).take 5 = [0, 0, 0, 0, 0] → (s.queue vf q).run = [] →
      Becomes .barrierAnd (.barrierAnd vf q) s (fun t => (t.queue vf q).run = [] ∧
        qcbIs t vf q (fun d => d.read = (c.read + 1) % 2 ^ 32))) ∧
    (atHead s vf q 3 c p → (s.queue vf q).run = [] → ∀ die off, s.sigAt (lget 0 p 2) = .dm die off → die < 12 →
      off + 8 ≤ vget 0 (s.vf vf).dmSize die → awake s → lget 0 p 3 < 2 ^ 64 →
      Becomes .signal (.signal vf q) s (fun t =>
        t.num (dmNo die (vget 0 (s.vf vf).dmBase die * 32768 + off)) 8 = lget 0 p 3)) ∧
    (atHead s vf q 4 c p → (s.queue vf q).run = [] → Becomes .copy (.copy vf q) s (fun t =>
      (t.queue vf q).run = [⟨c.read, 4, 0, [lget 0 p 2, lget 0 p 3, lget 0 p 4], 0, 0⟩] ∧ .copy vf q ∈ t.agenda)) ∧
    (atHead s vf q 5 c p → ∀ bs, (started s vf q c).vfRead vf (lget 0 p 3) (16 * lget 0 p 4) = some bs →
      Becomes .segtab (.segtab vf q) s (fun t =>
        (⟨vf, lget 0 p 2, (List.range (lget 0 p 4)).map (fun k => (dword bs (2 * k), dword bs (2 * k + 1)))⟩ : SegTab) ∈
          t.segs))) ∧
  (∀ (s : State) (vf q : Nat) (c : Qcb) (p : List Nat) (die off : Nat), q < 64 → (s.vf vf).qcbBase % 2 ^ 40 < 2 ^ 39 →
    s.qcb vf q = some c → awake s → die < 12 → off + 8 ≤ vget 0 (s.vf vf).dmSize die →
    let a := dmNo die (vget 0 (s.vf vf).dmBase die * 32768 + off)
    (atHead s vf q 0 c p → s.sigAt (lget 0 p 1) = .dm die off → Becomes .nopPacket (.nopPacket vf q) s (fun t =>
      t.num a 8 = (if s.num a 8 < 2 ^ 63 then 0 else s.num a 8))) ∧
    (∀ k n, (s.queue vf q).run = [k] → k.ty = 2 → s.sigAt k.sig = .dm die off → s.authorised n vf = true →
      (s.vf vf).iface ≠ .error → 0 ∉ s.fw.down → c.en = true → c.st ≠ 3 → (∀ e, e ∈ s.queues → e.2.want = false) →
      (∀ o, o ∈ s.fab.out ++ s.fab.pend → o.task ≠ queueEdge vf q) →
      Becomes .queueDestroy (.queueDestroy vf q n) s (fun t => t.queue vf q = QueueSt.zero ∧
        qcbIs t vf q (fun d => d.en = false ∧ d.st = 3) ∧ t.num a 8 = (if s.num a 8 < 2 ^ 63 then 2 ^ 64 - 2 else s.num a 8)))) ∧
  (∀ (s : State) (vf q : Nat), s.copied vf = true → Becomes .barrierAndEvaluation (.barrierAndEvaluation vf q) s (fun t =>
    t = { s with ev := t.ev })) ∧
  (∀ (s : State) (vf q : Nat) (k : Pkt), (s.queue vf q).run = [k] →
    (k.ty = 4 → (s.queue vf q).mapped = false → k.done + 64 < lget 0 k.ops 2 → ∀ bs t0,
      s.vfRead vf (lget 0 k.ops 0 + k.done) 64 = some bs → s.vfWrite vf (lget 0 k.ops 1 + k.done) bs = some t0 →
      Becomes .copy (.copy vf q) s (fun t => t.mem = t0.mem ∧ (t.queue vf q).run = [{ k with done := k.done + 64 }])) ∧
    (k.ty = 4 → k.sig = 0 → (s.queue vf q).mapped = false → lget 0 k.ops 2 ≤ k.done + 64 → ∀ bs t0,
      s.vfRead vf (lget 0 k.ops 0 + k.done) 64 = some bs → s.vfWrite vf (lget 0 k.ops 1 + k.done) bs = some t0 →
      Becomes .copy (.copy vf q) s (fun t => t.mem = t0.mem ∧ (t.queue vf q).run = [])) ∧
    (k.ty = 2 → k.sig = 0 → s.copied vf = false →
      let seen := (List.zip (k.ops.take 5) (k.ops.drop 5)).map (s.sigSeen vf)
      ((∀ v, v ∈ seen → v = some 0) → Becomes .barrierAndEvaluation (.barrierAndEvaluation vf q) s (fun t =>
        (t.queue vf q).run = [] ∧ t.mem = s.mem)) ∧
      ((∀ v, v ∈ seen → ∀ x, v = some x → 0 ≤ x) → (∃ v, v ∈ seen ∧ v ≠ some 0) →
        Becomes .barrierAndEvaluation (.barrierAndEvaluation vf q) s (fun t => t.mem = s.mem ∧
          ∃ y, (t.queue vf q).run = [y] ∧ y.ty = 2 ∧ y.sig = 0)) ∧
      (∀ c x, s.qcb vf q = some c → q < 64 → (s.vf vf).qcbBase % 2 ^ 40 < 2 ^ 39 → c.st < 2 → c.read = c.write →
        (∀ e, e ∈ s.queues → e.2.want = false) → some x ∈ seen → x < 0 →
        Becomes .barrierAndEvaluation (.barrierAndEvaluation vf q) s (fun t => (t.queue vf q).run = [] ∧
          qcbIs t vf q (fun d => d.st = 2 ∧ d.err = 2))))) ∧
  (∀ s : State,
    (s.feUp = true → s.queues = [] → (∀ x, x ∈ s.tasks → x.doom = false) →
      Becomes .frontEndTick .frontEndTick s (fun t => t.fw.tick = s.now ∧
        (s.fg.stop = .front → s.fg.die < 12 → .frontEndWake s.fg.key ∈ t.agenda))) ∧
    (s.feUp = true → s.queues = [] → (∀ x, x ∈ s.tasks → x.doom = false) → ∀ n v, s.vfs = [(n, v)] → v.valid = true →
      let top : Int := v.depth * 1000000
      let level : Int := max (-top) (min top (v.level + (s.now - s.fw.tick : Nat) * v.rate -
        ((s.now - s.fw.tick) * 1000 * s.unitCost n : Nat)))
      0 < level → Becomes .frontEndTick .frontEndTick s (fun t => (t.vf n).level = level)) ∧
    (s.feUp = false → Becomes .frontEndTick .frontEndTick s (fun t => t.fw = s.fw ∧ t.agenda = s.agenda))) ∧
  (∀ (s : State) (vf : Nat), (s.vf vf).dry = false →
    ((s.vf vf).level ≤ 0 → Becomes .tokenBucketEmpty (.tokenBucketEmpty vf) s (fun t => (t.vf vf).dry = true)) ∧
    (0 < (s.vf vf).level → Becomes .tokenBucketEmpty (.tokenBucketEmpty vf) s (fun t => t.vfs = s.vfs ∧ t.queues = s.queues))) ∧
  (∀ (s : State) (k : Nat), (s.task k).key = k → (s.task k).stop = .front →
    Becomes .frontEndWake (.frontEndWake k) s (fun t => t.task k =
      (if (s.task k).resident then (s.task k).resume else { s.task k with stop := .run }))) ∧
  (∀ (s : State) (vf q n : Nat) (c : Qcb), q < 64 → (s.vf vf).qcbBase % 2 ^ 40 < 2 ^ 39 → s.qcb vf q = some c →
    (s.authorised n vf = false → Becomes .queueReset (.queueReset vf q n) s (fun t => tells s t vf 7 [vf, 0, 5] ∧ t.mem = s.mem) ∧
      Becomes .queueDestroy (.queueDestroy vf q n) s (fun t => tells s t vf 7 [vf, 0, 5] ∧ t.mem = s.mem)) ∧
    ((s.vf vf).iface = .error → s.authorised n vf = true →
      Becomes .queueReset (.queueReset vf q n) s (fun t => t.mem = s.mem ∧ t.queues = s.queues ∧ t.out = s.out) ∧
      Becomes .queueDestroy (.queueDestroy vf q n) s (fun t => t.mem = s.mem ∧ t.queues = s.queues ∧ t.out = s.out)) ∧
    (s.authorised n vf = true → (s.vf vf).iface ≠ .error → 0 ∉ s.fw.down → (s.queue vf q).run = [] →
      (∀ o, o ∈ s.fab.out ++ s.fab.pend → o.task ≠ queueEdge vf q) →
      (c.st = 2 → Becomes .queueReset (.queueReset vf q n) s (fun t =>
        qcbIs t vf q (fun d => d.read = c.write ∧ d.st = 0 ∧ d.write = c.write))) ∧
      (c.st = 2 → (s.queue vf q).run ≠ [] → (∀ e, e ∈ s.queues → e.2.want = false) → Becomes .queueReset (.queueReset vf q n) s (fun t =>
        qcbIs t vf q (fun d => d.read = c.write ∧ d.write = c.write))) ∧
      (c.en = true → c.st ≠ 3 → (∀ e, e ∈ s.queues → e.2.want = false) →
        Becomes .queueDestroy (.queueDestroy vf q n) s (fun t => t.queue vf q = QueueSt.zero ∧
          qcbIs t vf q (fun d => d.en = false ∧ d.st = 3))))) ∧
  (∀ (s : State) (vf tid tile : Nat) (e : Word) (d : DescE) (t0 : State), s.fw.phase = .ready → (s.vf vf).iface ≠ .error → 0 ∉ s.fw.down →
    s.readDesc vf tid = .ok d →
    s.vfWrite vf (d.base + 8 * tile) (bytesOf 8 e.toNat) = some t0 →
    Becomes .tableUpdate (.tableUpdate vf tid tile e) s (fun t => t.mem = t0.mem ∧ tells s t vf 8 [tid, tile] ∧
      ∀ p, t.cached p vf tid tile = none)) ∧
  (∀ (s : State) (die : Nat), Becomes .lockstepMismatch (.lockstepMismatch die) s (fun t => die ∈ t.fw.down ∧
    .fatalEvent die .lockstep ∈ t.agenda ∧ t.mem = s.mem)) ∧
  (∀ (s : State) (die w : Nat), Becomes .workerFailure (.workerFailure die w) s (fun t => (die, w) ∈ t.fw.lostW ∧
    t.fw.down = s.fw.down ∧ t.mem = s.mem))

/-- VF records and interfaces, sessions, tile moves and migration. An event happens when a step takes it off the
agenda (log 3). -/
def Obligations.TenantEvents : Prop :=
  (∀ (s : State) (vf n : Nat) (ws : List Word),
    let w (k : Nat) : Nat := (lget 0 ws k).toNat
    let go := Becomes .vfRecord (.vfRecord vf ws n) s
    (1024 ≤ vf → go (fun t => t.vfs = s.vfs ∧ tells s t 1023 7 [1023, 0, 1])) ∧ (vf < 1024 →
    (s.authorised n vf = false → go (fun t => t.vfs = s.vfs ∧ tells s t vf 7 [vf, 0, 5])) ∧
    (s.authorised n vf = true → (s.vf vf).iface = .unlocked → (s.vf vf).rst = 0 →
      (∀ off code rest, s.recordBad vf w = (off, code) :: rest → go (fun t => t.vfs = s.vfs ∧ tells s t vf 7 [vf, off, code])) ∧
      (s.recordBad vf w = [] → go (fun t => tells s t vf 7 [vf, 0, 0] ∧
        (let v := t.vf vf
         v.valid = decide (w 0 / 2 ^ 63 % 2 = 1) ∧ v.part = w 0 / 2 ^ 59 % 16 ∧ v.scopeCap = w 0 / 2 ^ 56 % 8 ∧
         v.scopeTrap = decide (w 0 / 2 ^ 55 % 2 = 1) ∧ v.claspTrap = decide (w 0 / 2 ^ 54 % 2 = 1) ∧
         v.dbgOk = decide (w 0 / 2 ^ 53 % 2 = 1) ∧ v.qcbBase = w 0 % 2 ^ 44 ∧ v.tdtCount = w 1 / 2 ^ 44 % 2 ^ 17 ∧
         v.tdtBase = w 1 % 2 ^ 44 ∧ v.depth = w 2 / 2 ^ 32 ∧ v.rate = w 2 % 2 ^ 32 ∧ v.tkBase = w 3 / 2 ^ 53 ∧
         v.tkCount = w 3 / 2 ^ 41 % 2 ^ 12 ∧ v.mbxCount = w 3 / 2 ^ 32 % 2 ^ 9 ∧ v.thresh = w 3 % 2 ^ 32 ∧
         v.pclCount = w 4 % 2 ^ 13 ∧ v.iface = .unlocked ∧
         ∀ d, d < 12 → vget 0 v.pclSize d = w (8 + d) / 2 ^ 32 ∧ vget 0 v.pclBase d = w (8 + d) % 2 ^ 32 * 4096 ∧ vget 0 v.segBound d = w (20 + d) / 2 ^ 32 % 2 ^ 17 ∧
           vget 0 v.segBase d = w (20 + d) % 2 ^ 17 ∧ vget 0 v.dmSize d = w (32 + d) / 2 ^ 32 % 2 ^ 28 ∧
           vget 0 v.dmBase d = w (32 + d) % 2 ^ 12)))) ∧
    (s.authorised n vf = true → (s.vf vf).iface = .locked ∨ (s.vf vf).iface = .run → go (fun t =>
      (t.vf vf).iface = .error ∧ .host vf 7 [vf, 0, 4] ∈ t.out)))) ∧
  (∀ (s : State) (vf n : Nat), s.authorised n vf = true → (s.vf vf).rst = 0 →
    ((s.vf vf).iface = .unlocked → Becomes .interfaceLock (.interfaceLock vf n) s (fun t =>
      t.vf vf = { s.vf vf with iface := .locked, lockBy := some n })) ∧
    ((s.vf vf).iface = .locked → Becomes .interfaceStart (.interfaceStart vf n) s (fun t =>
      t.vf vf = { s.vf vf with iface := .run })) ∧
    (s.migs = [] → s.liveOf vf = [] → (∀ q, q < 64 → (match s.qcb vf q with | some c => c.en | none => false) = false) →
      ((s.vf vf).iface = .locked ∨ (s.vf vf).iface = .run → Becomes .interfaceStop (.interfaceStop vf n) s (fun t =>
        t.vf vf = { s.vf vf with iface := .unlocked, lockBy := none } ∧ t.mem = s.mem ∧
        (∀ p e, e ∈ (t.port p).tile → e.vf ≠ vf))) ∧
      Becomes .vfReset (.vfReset vf n) s (fun t =>
        t.vf vf = { s.vf vf with iface := .unlocked, lockBy := none, keyGen := (s.vf vf).keyGen + 1 } ∧ t.mem = s.mem ∧
        (∀ p e, e ∈ (t.port p).tile → e.vf ≠ vf)))) ∧
  (∀ (s : State) (vf n : Nat), s.authorised n vf = false → (s.vf vf).rst = 0 →
    Becomes .interfaceLock (.interfaceLock vf n) s (fun t => t.vfs = s.vfs ∧ tells s t vf 7 [vf, 0, 5]) ∧
    Becomes .interfaceStart (.interfaceStart vf n) s (fun t => t.vfs = s.vfs ∧ tells s t vf 7 [vf, 0, 5]) ∧
    Becomes .interfaceStop (.interfaceStop vf n) s (fun t => t.vfs = s.vfs ∧ tells s t vf 7 [vf, 0, 5]) ∧
    Becomes .vfReset (.vfReset vf n) s (fun t => t.vfs = s.vfs ∧ tells s t vf 7 [vf, 0, 5])) ∧
  (∀ (s : State) (n : Nat), s.migs = [] → Becomes .sessionEnd (.sessionEnd n) s (fun t =>
    t.fw.sess = s.fw.sess.filter (fun x => decide (x.num ≠ n)) ∧ (∀ e, e ∈ t.fw.keys ↔ e ∈ s.fw.keys ∧ e.2 ≠ n + 1) ∧
    ∀ vf, (vf, s.vf vf) ∈ s.vfs → (s.vf vf).iface = .locked ∨ (s.vf vf).iface = .run → (s.vf vf).lockBy = some n →
      (t.vf vf).iface = .error)) ∧
  (∀ s : State, Becomes .getMeasurements .getMeasurements s (fun t =>
    tells s t 1023 9 (s.fw.mlog ++ [Config.sign s.fw.mlog]) ∧ t.fw = s.fw)) ∧
  (∀ (s : State) (n : Nat) (b : Option Nat), s.fw.phase ≠ .recovery → (∀ x, x ∈ s.fw.sess → x.num ≠ n) →
    Becomes .spdmSessionStart (.spdmSessionStart n b) s (fun t => t.fw = { s.fw with sess := s.fw.sess ++ [⟨n, b⟩] })) ∧
  (∀ (s : State) (m : TileMove) (d : DescE) (e : Nat), s.authorised m.sess m.vf = true →
    (s.vf m.vf).iface = .locked ∨ (s.vf m.vf).iface = .run →
    (s.placeKey m.sess).isSome = true → s.readDesc m.vf m.tid = .ok d →
    let tile := d.tileNo (lget 0 m.coords)
    d.inside (lget 0 m.coords) = true → s.vfNum m.vf (d.base + 8 * tile) 8 = some e → tePresent e = true →
    let go := Becomes .tileMove (.tileMove m) s
    (m.send = true → ∀ bs, s.tileFrames m.vf d e = some bs → go (fun t => t.mem = s.mem ∧ ∃ n,
      let c := Config.sealBytes m.sess n bs
      t.out = s.out ++ [.sealed m.peer m.sess 10 [m.tid, tile] n (Config.sealTag m.sess n c) c])) ∧
    (m.send = false → Config.sealTag m.sess m.nonce m.data ≠ m.tag → go (fun t => t.mem = s.mem ∧
      tells s t m.vf 11 [m.tid, tile])) ∧
    (m.send = false → Config.sealTag m.sess m.nonce m.data = m.tag → teDirty e = true → ∀ t0,
      s.vfWrite m.vf (teAddr d e 0) ((Config.openBytes m.sess m.nonce m.data).take (4096 * 2 ^ d.tsz)) = some t0 →
      go (fun t => t.mem = t0.mem ∧ t.out = s.out ++ [.tileAck m.peer m.sess m.tid tile]))) ∧
  (∀ (s : State) (sess : Nat), (∀ e, e ∈ s.fw.keys → e.2 ≠ sess + 1) →
    ((∀ k, k < 1024 → fget 0 s.fw.keys (1024 + k) ≠ 0) → s.placeKey sess = none) ∧
    (∀ k, k < 1024 → fget 0 s.fw.keys (1024 + k) = 0 → (∀ j, j < k → fget 0 s.fw.keys (1024 + j) ≠ 0) →
      s.placeKey sess = some { s with fw := { s.fw with keys := fset 0 s.fw.keys (1024 + k) (sess + 1) } })) ∧
  (∀ (s : State) (m : TileMove), s.authorised m.sess m.vf = true → (s.vf m.vf).iface = .locked ∨ (s.vf m.vf).iface = .run →
    s.placeKey m.sess = none → Becomes .tileMove (.tileMove m) s (fun t => t.mem = s.mem ∧ tells s t m.vf 11 [m.tid, 0])) ∧
  (∀ (s : State) (n vf dest sess : Nat), s.migs = [] → s.authorised sess vf = true → (s.vf vf).iface = .run →
    (s.placeKey sess).isSome = true →
    Becomes .preCopyRound (.preCopyRound n vf dest sess) s (fun t => t.migs = [⟨n, vf, dest % 4096, sess, 0, (0, 0), 0⟩] ∧
      .preCopyRound n vf dest sess ∈ t.agenda)) ∧
  (∀ (s : State) (m : Mig), s.migs = [m] →
    (m.round = 0 → Becomes .finalRound (.finalRound m.num) s (fun t => t.migs = [{ m with round := 1, since := s.now }] ∧
      (s.fg.resident = true → s.fg.vf = m.vf → s.fg.evictable = true → t.fg.evict = true) ∧ .finalRound m.num ∈ t.agenda)) ∧
    (m.round = 2 → Becomes .activation (.activation m.num none m.sess) s (fun t => t.migs = [{ m with round := 3 }])) ∧
    (s.fab.pend = [] → (∀ o, o ∈ s.fab.out → o.fwd = none) → ∀ code,
      Becomes .migrationEnd (.migrationEnd m.num code) s (fun t => t.migs = [] ∧
        (m.round = 3 → (t.vf m.vf).rst = 1 ∧ .vfReset m.vf 0 ∈ t.agenda) ∧ tells s t m.vf 7 [m.vf, 0, code])) ∧
    (m.round < 3 → s.fab.pend = [] → ∀ o key code, s.fab.out = [o] → o.fwd = some key → o.req.vf = m.vf → key.1 ≠ s.ownPkg →
      o.req.op = .get → o.req.size = 8 →
      let home := o.req.addr.toNat / 2 ^ 48 % 16
      let off := o.req.addr.toNat % 2 ^ 28
      let a := dmNo home (vget 0 (s.vf m.vf).dmBase home * 32768 + off)
      home < 12 → o.req.addr.toNat / 2 ^ 40 % 4 = 0 → off % 8 = 0 → off + 8 ≤ vget 0 (s.vf m.vf).dmSize home →
      s.dmPoisoned a 8 = false →
      Becomes .migrationEnd (.migrationEnd m.num code) s (fun t => t.migs = [] ∧ t.fab.out = [] ∧
        t.out = s.out ++ [.reply key.1 key.2.1 key.2.2 (.done (BitVec.ofNat 64 (s.num a 8))), .host m.vf 7 [m.vf, 0, code]]))) ∧
  (∀ (s : State) (x : MigIn) (n sess : Nat), s.authorised sess x.vf = true → (s.vf x.vf).iface = .locked →
    (s.migFits x = true → Becomes .activation (.activation n (some x) sess) s (fun t => (t.vf x.vf).iface = .run)) ∧
    (s.migFits x = false → Becomes .activation (.activation n (some x) sess) s (fun t =>
      t.vfs = s.vfs ∧ t.tasks = s.tasks ∧ .activation n (some x) sess ∈ t.agenda)))

/-- The debug messages. An event happens when a step takes it off the agenda (log 3). -/
def Obligations.DebugEvents : Prop :=
  ∀ (s : State) (k n : Nat), (s.task k).key = k → (s.task k).alive = true → s.authorised n (s.task k).vf = true →
    (let v := s.vf (s.task k).vf
     v.iface = .unlocked ∨ ((v.iface = .locked ∨ v.iface = .run) ∧ v.dbgOk = true)) →
    ((s.task k).stop ≠ .debug → Becomes .debugHaltRequest (.debugHaltRequest k n) s (fun t =>
      t.task k = { s.task k with dbgReq := true })) ∧
    ((s.task k).stop = .debug → (s.task k).resident = true → (s.task k).pages = [] →
      Becomes .debugResume (.debugResume k n) s (fun t => t.task k = (s.task k).resume ∧ (t.task k).stop = .run)) ∧
    ((s.task k).stop = .debug → (s.task k).pages ≠ [] → Becomes .debugResume (.debugResume k n) s (fun t =>
      t.task k = { s.task k with stop := .page } ∧ .urgentStop k .park ∈ t.agenda)) ∧
    (∀ (col j : Nat) (v : VWord),
      Becomes .debuggerRegisterWrite (.debuggerRegisterWrite k col 18 j v n) s (fun t => t.tasks = s.tasks ∧
        tells s t (s.task k).vf 24 [k, 8 * (decide ((s.task k).stop = .debug)).toNat + 4 * (s.task k).dbgStep.toNat +
          2 * (s.task k).dbgBkpt.toNat]) ∧
      (v.getLsbD 0 = false → v.getLsbD 4 = false →
        Becomes .debuggerRegisterWrite (.debuggerRegisterWrite k col 16 j v n) s (fun t =>
          t.task k = { s.task k with dbgStep := v.getLsbD 2, dbgBkpt := v.getLsbD 1 }))) ∧
    (∀ x rest, (s.task k).dbgSel = 0 → (s.task k).work.pend = x :: rest → x.col = 0 → x.w.dest.1 < 8 → x ∉ rest →
      Becomes .locketCancel (.locketCancel k 1 n) s (fun t => (t.task k).work.pend = rest ∧
        (t.task k).work.land = (s.task k).work.land)) ∧
    (∀ (col j : Nat) (v : VWord), (s.task k).stop = .debug → col < 4 →
      (j < 56 → Becomes .debuggerRegisterWrite (.debuggerRegisterWrite k col 0 j v n) s (fun t =>
        vget 0 ((t.task k).bank col).ireg j = v.setWidth 64)) ∧
      (j < 32 → Becomes .debuggerRegisterWrite (.debuggerRegisterWrite k col 1 j v n) s (fun t =>
        vget 0 ((t.task k).bank col).vreg j = v)) ∧
      (j < 16 → Becomes .debuggerRegisterWrite (.debuggerRegisterWrite k col 4 j v n) s (fun t =>
        vget 0 ((t.task k).bank col).lreg j = v))) ∧
    (∀ (col j : Nat) (v : VWord), (s.task k).stop ≠ .debug →
      Becomes .debuggerRegisterWrite (.debuggerRegisterWrite k col 0 j v n) s (fun t => t.tasks = s.tasks))

/-- Bring-up and recovery, the timebase, health, fatal events, the dump and the reset of the package. An event happens
when a step takes it off the agenda (log 3). Whether a signature verifies is free (log 5). -/
def Obligations.PackageEvents : Prop :=
  (∀ (s : State) (img : BootImage),
    let loaded (i : Instr) (e : Event) : Prop := Becomes i e s (fun t =>
      if Config.verify img.bytes img.sig 0 then
        (img.badDies = [] → t.fw.phase = .ready ∧ t.out.getLast? = some (.host 1023 15 []) ∧ t.now = img.tai ∧
          (∃ x, t.fw.mlog = s.fw.mlog ++ [Config.digest img.bytes, x]) ∧
          (let e := img.extents
           let c := img.coord
           let ok := 1 ≤ e.1 ∧ e.1 ≤ 16 ∧ c.1 < e.1 ∧ 1 ≤ e.2.1 ∧ e.2.1 ≤ 16 ∧ c.2.1 < e.2.1 ∧ 1 ≤ e.2.2 ∧ e.2.2 ≤ 16 ∧ c.2.2 < e.2.2
           (ok → t.pod = ⟨e.1, e.2.1, e.2.2, c.1, c.2.1, c.2.2⟩) ∧
           (¬ ok → t.pod = s.pod ∧ .host 1023 7 [1023, 0, 1] ∈ t.out)) ∧
          ((∃ p, p ∈ img.tickets ∧ 12 ≤ p.1) → t.pmap = s.pmap ∧ .host 1023 7 [1023, 0, 2] ∈ t.out)) ∧
        ∀ d, d ∈ img.badDies → t.fw.phase = s.fw.phase ∧ .fatalEvent d .training ∈ t.agenda
      else t.fw = { s.fw with phase := .recovery } ∧ t.pod = s.pod)
    (s.fw.phase = .off → loaded .bringUp (.bringUp img)) ∧ (s.fw.phase = .recovery → loaded .recoveryBootImage (.recoveryBootImage img)) ∧
    (s.fw.phase ≠ .recovery → Becomes .recoveryBootImage (.recoveryBootImage img) s (fun t => t.fw = s.fw))) ∧
  (∀ (s : State) (x : Nat), s.fw.phase = .ready → Becomes .ptpSync (.ptpSync x) s (fun t =>
    t.fw.synced = s.now ∧ t.fw.slew = (x : Int) - s.now ∧ t.now = s.now ∧
    (s.fw.locked = false → -50 < (x : Int) - s.now → (x : Int) - s.now < 50 → t.fw.locked = true ∧ tells s t 1023 17 []) ∧
    (s.fw.locked = false → (x : Int) - s.now ≤ -50 ∨ 50 ≤ (x : Int) - s.now → t.fw.locked = false ∧ t.out = s.out))) ∧
  (∀ s : State, s.fw.locked = true →
    (s.fw.synced + 1000000000 ≤ s.now → Becomes .timeUnlocked .timeUnlocked s (fun t =>
      t.fw = { s.fw with locked := false, slew := 0 } ∧ tells s t 1023 16 [])) ∧
    (s.now < s.fw.synced + 1000000000 → Becomes .timeUnlocked .timeUnlocked s (fun t => t.fw = s.fw ∧ t.out = s.out))) ∧
  (∀ (s : State) (die p : Nat) (temps : List Nat) (bad : Bool) (ce : List (Nat × Nat)), die ∉ s.fw.down →
    s.fw.phase ≠ .off → s.fw.phase ≠ .recovery →
    let go := Becomes .healthMonitorSample (.healthMonitorSample die temps bad p ce) s
    go (fun t => .host 1023 19 [die, p] ∈ t.out) ∧
    (∀ n k, ce = [(n, k)] → n < 36 → go (fun t => fget 0 t.counters n = (fget 0 s.counters n + k) % 2 ^ 64 ∧
      ∀ j, j ≠ n → fget 0 t.counters j = fget 0 s.counters j)) ∧
    ((∃ x, x ∈ temps ∧ 95 ≤ x) → go (fun t => .host 1023 18 (die :: temps) ∈ t.out)) ∧
    (bad = true ∨ (∃ x, x ∈ temps ∧ 110 ≤ x) → go (fun t => .fatalEvent die .critical ∈ t.agenda)) ∧
    (bad = false → (∀ x, x ∈ temps → x < 95) → go (fun t => tells s t 1023 19 [die, p] ∧
      (.fatalEvent die .critical ∉ s.agenda → .fatalEvent die .critical ∉ t.agenda)))) ∧
  (∀ (s : State) (n : Nat),
    (s.packageWide n = true → Becomes .healthReport (.healthReport n) s (fun t => tells s t 1023 20 s.health)) ∧
    (s.packageWide n = false → Becomes .healthReport (.healthReport n) s (fun t => tells s t 1023 7 [1023, 0, 5]))) ∧
  (∀ (s : State) (die : Nat) (why : FatalWhy), s.fw.dumped = false →
    (s.fw.fatal = [] → Becomes .fatalEvent (.fatalEvent die why) s (fun t => t.fw.phase = .stopped ∧
      t.fw.fatal = [(s.now, die, why)] ∧ .fatalEvent die why ∈ t.agenda ∧ ∀ e, e ∈ t.launches → e.2.live = false)) ∧
    (∀ d, (∃ e, e ∈ s.fw.fatal ∧ e.2 = (die, why)) → s.pairs.head? = some d →
      Becomes .fatalEvent (.fatalEvent die why) s (fun t => t.fw.dumped = true ∧ ∃ ws, tells s t 1023 21 (d :: ws))) ∧
    ((∃ e, e ∈ s.fw.fatal ∧ e.2 = (die, why)) → s.pairs = [] →
      Becomes .fatalEvent (.fatalEvent die why) s (fun t => .fatalNodump ∈ t.agenda ∧ t.out = s.out))) ∧
  (∀ (s : State) (e : Nat × Nat × FatalWhy) (rest : List (Nat × Nat × FatalWhy)), s.fw.dumped = false → s.fw.fatal = e :: rest →
    s.pairs = [] →
    (e.1 + 10000000 ≤ s.now → Becomes .fatalNodump .fatalNodump s (fun t => t.fw.dumped = true ∧ tells s t 1023 22 [])) ∧
    (s.now < e.1 + 10000000 → Becomes .fatalNodump .fatalNodump s (fun t => t.fw = s.fw ∧ .fatalNodump ∈ t.agenda))) ∧
  (∀ (s : State) (n : Nat), s.packageWide n = true →
    (s.fw.phase = .stopped → Becomes .resetPackage (.resetPackage n) s (fun t => t.fw = FwSt.zero ∧ t.mem = s.mem ∧
      t.fg = Task.zero ∧ t.bg = [] ∧ t.launches = [] ∧ t.agenda = [] ∧
      ∀ vf, (vf, s.vf vf) ∈ s.vfs → (t.vf vf).keyGen = (s.vf vf).keyGen + 1)) ∧
    (s.fw.phase ≠ .stopped → Becomes .resetPackage (.resetPackage n) s (fun t => t.fw = s.fw ∧ t.tasks = s.tasks)))

/-! The machine as a whole. -/

/-- A step takes an event off the agenda, a prompt one first, or presents a bundle; a bundle that passes its checks
issues, and its words run in order, each as exec says; a word that holds or rejects the bundle is the only one to act,
and one that does so only after its bundle's earlier words traps or holds the bundle from the state before it.
The agenda and one bundle a step are the model's (log 3, log 6). -/
def Obligations.StepRunsTheBundle : Prop :=
  (∀ s : State, s.ended = false →
    (s.agenda = [] → ∃ t, exec .bundlePresentation { s with ev := .bundlePresentation s.nextUnit } = .next t ∧
      step s = if t.ctl.on then t.issueBundle else .next t) ∧
    (∀ e, s.agenda.find? s.prompt = some e → ∃ t, exec e.instr { s with agenda := s.agenda.erase e, ev := e } = .next t ∧
      step s = if t.ctl.on then t.issueBundle else .next t)) ∧
  (∀ (s : State) (u : Nat) (ws : List DWord), Ready s u → Presented (begun s u) ws →
    let b := begun s u
    let t := b.issueWords false (b.fetch b.fg) ws false
    (t.issue = ws.map (fun w => (w.1, w.2.2)) ∧ t.ctl.on = true ∧ t.fg.pc = s.fg.pc ∧ t.fg.trapCause = s.fg.trapCause ∧
      t.mem = s.mem ∧ t.bg = s.bg) ∧
    (∀ v, RunsTo t.issue { t with issue := [] } v →
      step s = .next (finishBundle (t.fg.accesses (t.issue.map (fun w => (w.1, 0, w.2)))) t.fg.pend v)) ∧
    (∀ c n i v, ws = [(c, n, i)] → exec i { t with issue := [], col := c, ev := .none } = .next v →
      step s = .next (finishBundle (if v.ctl.on then t.fg.accesses [(c, 0, i)] else []) t.fg.pend v))) ∧
  (∀ (s u v w : State) (x : Nat × Instr) (a b : List (Nat × Instr)), s.issue = a ++ x :: b →
    RunsTo a { s with issue := [] } u → exec x.2 { u with col := x.1, ev := .none } = .next v → v.ctl.on = false →
    exec x.2 { s with issue := [], col := x.1, ev := .none } = .next w →
    s.issueBundle = .next (finishBundle [] s.fg.pend (if w.ctl.on then State.together { s with issue := [] } v else w)))

/-- Words written out from the spec's encodings, and what they decode to. -/
def Obligations.TableWordsDecode : Prop :=
  decodeSlot .i 0x02014286 = .instr (.add 0 5 5 6) ∧ decodeSlot .i 0x4400FFFB = .instr (.li 0 3 0x3FFB) ∧
  decodeSlot .c 0x033FFFFC = .instr (.br 9 0x1FFFFC) ∧ decodeSlot .f 0x08184653 = .instr (.ffma 0 1 16 17 18 19) ∧
  decodeSlot .i 0x5C068C00 = .instr (.lds 0 3 2 12 0 0 0) ∧ decodeSlot .d 0x12020002 = .instr (.cbpop 0 8 2) ∧
  decodeSlot .c 0x66000205 = .instr (.waitv 0 4 5) ∧ decodeSlot .d 0xAA010000 = .instr (.pfree 0 4) ∧
  decodeSlot .m 0x2602C000 = .instr (.mpoll 0 11) ∧ decodeSlot .f 0x00000001 = .rejected .reservedBits

/-- Every well-formed instruction is what its own word decodes to in its slot, and a word decodes to nothing else: the
instruction a word decodes to is well formed, is of that slot, and has that word for its encoding. NOP stands in any slot. -/
def Obligations.EncodeDecode : Prop :=
  (∀ (i : Instr) (sl : Slot), i.wf = true → i.slot = some sl → decodeSlot sl (encode i) = .instr i) ∧
  (∀ (g : Guard) (sl : Slot), decodeSlot sl (encode (.nop g)) = .instr (.nop g)) ∧
  (∀ (sl : Slot) (w : Lane) (i : Instr), decodeSlot sl w = .instr i →
    i.wf = true ∧ encode i = w ∧ (i.slot = some sl ∨ ∃ g, i = .nop g))

/-- Every step keeps memory in its canonical form. The form is the model's (log 4, log 11). -/
def Obligations.MemoryStaysCanonical : Prop :=
  ∀ s t : State, s.Inv → step s = .next t → t.Inv

/-- The values after reset that the spec states, and the memory's form. That no task, queue, landing, record or session exists
before bring-up, and the pod of one package, are the model's choice (log 8). -/
def Obligations.ResetState : Prop :=
  State.reset.Inv ∧
  (∀ c, (State.reset.core c).split = 1 ∧ (State.reset.core c).freeze = 0 ∧ ∀ n, vget 0 (State.reset.core c).fmt n = 0) ∧
  (∀ u n, State.reset.cb u n = 0 ∧ (State.reset.unit u).recs = []) ∧
  (∀ c n, State.reset.owner c n = 0) ∧
  (∀ c, (State.reset.strip c).cfg = 0x3F80000000111000 ∧ (State.reset.strip c).qa = [] ∧ (State.reset.strip c).qb = []) ∧
  (∀ n d, vget 0 (State.reset.vf n).segBound d = 0 ∧ vget 0 (State.reset.vf n).segBase d = 0 ∧
    vget 0 (State.reset.vf n).dmSize d = 0 ∧ vget 0 (State.reset.vf n).dmBase d = 0 ∧ (State.reset.vf n).iface = .unlocked) ∧
  (∀ d n, State.reset.ticket d n = Ticket.zero) ∧ (∀ n, fget 0 State.reset.counters n = 0) ∧
  (∀ d, State.reset.claspOf d = [] ∧ fget 0 State.reset.claspFull d = 0) ∧ State.reset.fw.phase = .off ∧
  (∀ (t : Task) (c : Nat), t = Task.zero → t.pc = 0 ∧ t.trapCause = 0 ∧ t.arith = 0 ∧ t.lsCtl = 0 ∧ t.pclFault = 0 ∧
    (∀ n, n ≠ 0 → (t.bank c).p n = false ∧ (t.bank c).k n = 0) ∧ (t.bank c).p 0 = true ∧ (t.bank c).k 0 = BitVec.allOnes 32 ∧
    (∀ n, (t.bank c).i n = 0 ∧ (t.bank c).v n = 0 ∧ vget 0 (t.bank c).lreg n = 0 ∧ vget 0 (t.bank c).lc n = 0) ∧
    (t.bank c).ln = 0 ∧ (t.bank c).ibi = 0 ∧ (t.bank c).ibv = 0 ∧ (t.bank c).ibp = 0)

/-- A word whose guard is false does nothing: no register, access, record or fault. BR and BRN read the guard as their
condition; a privileged word is checked whatever its guard. -/
def Obligations.FalseGuardSquashes : Prop :=
  ∀ (i : Instr) (s : State), i.slot ≠ none → (∀ g d, i ≠ .brn g d) →
    ((∃ g, i = .halt g) ∨ (∃ g a b m, i = .ttinv g a b m) ∨ (∃ g a b m n, i = .beadld g a b m n) → s.fg.priv = true) →
    s.guard (Machine.Instr.guardF i) = false → exec i s = .next s

/-- A word that only computes, transfers or forms a record completes in every state, and this is what it leaves alone. Registers
are written later, at their latency: at issue no register of any column changes, but for words popped from link registers. -/
def Obligations.FramesOfWords : Prop :=
  (∀ (i : Instr) (s : State), onlyRegisters i = true → ∃ t, exec i s = .next t ∧
    t = { s with fg := { s.fg with banks := t.fg.banks, pend := t.fg.pend } } ∧ sameRegs s.fg t.fg) ∧
  (∀ (i : Instr) (s : State), onlyControl i = true → ∃ t, exec i s = .next t ∧
    t = { s with fg := { s.fg with banks := t.fg.banks, pend := t.fg.pend }, ctl := t.ctl } ∧ sameRegs s.fg t.fg) ∧
  (∀ (i : Instr) (s : State), onlyRecord i = true → ∃ t, exec i s = .next t ∧
    t = { s with
      fg := { s.fg with banks := t.fg.banks, results := t.fg.results, accs := t.fg.accs, land := t.fg.land },
      units := t.units, agenda := t.agenda, nid := t.nid } ∧ sameRegs s.fg t.fg ∧ ∀ u, u ≠ s.fg.unit → t.unit u = s.unit u)

/-- What a memory word or a wait leaves alone when its bundle goes on: no register changes at issue, and no byte of memory but
those of a lock word that LOCK and UNLOCK write. -/
def Obligations.FramesOfMemoryWords : Prop :=
  (∀ (i : Instr) (s t : State), onlyRequest i = true → exec i s = .next t → t.ctl.on = true →
    t = { s with
      fg := { s.fg with
        pend := t.fg.pend, results := t.fg.results, accs := t.fg.accs, land := t.fg.land, work := t.fg.work, snap := t.fg.snap },
      reqs := t.reqs, agenda := t.agenda, nid := t.nid }) ∧
  (∀ (i : Instr) (s t : State), onlyWait i = true → exec i s = .next t → t.ctl.on = true →
    t.mem = s.mem ∧ t.hbmGen = s.hbmGen ∧ sameRegs s.fg t.fg ∧ t.fg.pc = s.fg.pc ∧ t.fg.trapCause = s.fg.trapCause ∧
      t.units = s.units ∧ t.vfs = s.vfs ∧ t.launches = s.launches) ∧
  (∀ (i : Instr) (g : Guard) (a : RegF) (s t : State), i = .lock g a ∨ i = .unlock g a → exec i s = .next t → t.ctl.on = true →
    let off := (s.takeI a).1.toNat % 2 ^ 28 / 8 * 8
    let m := dmNo s.fg.die (vget 0 (s.vf s.fg.vf).dmBase s.fg.die * 32768 + off)
    (∀ x, x < m ∨ m + 8 ≤ x → t.byte x = s.byte x) ∧ t.hbmGen = s.hbmGen ∧ sameRegs s.fg t.fg ∧ t.fg.pc = s.fg.pc ∧
      t.fg.trapCause = s.fg.trapCause ∧ t.units = s.units)

/-- Taking a trap and returning: the drain into the snapshot, TRAP_CAUSE, the handler; a trap in a handler; ERET's target and
the replay of the snapshot at the distances its writes lacked. -/
def Obligations.TrapEntryAndReturn : Prop :=
  (∀ (s : State) (r : TrapReq) (h : Nat), s.fg.active = false → s.handler s.fg r.cause = some h →
    let t := (s.enterTrap r).fg
    let w := t.trapCause.toNat
    let again := r.restart || r.deferred
    s.enterTrap r = { s with fg := t } ∧ t.pc = h ∧ t.banks = s.fg.banks ∧ t.accs = s.fg.accs ∧ t.fences = s.fg.fences ∧
    t.pend = [] ∧ t.land = [] ∧ t.follower = none ∧
    t.snap = ⟨s.fg.pend.map (fun x => { x with due := x.due - s.fg.dist }),
      s.fg.land.map (fun x => { x with due := x.due - s.fg.dist })⟩ ∧
    t.active = true ∧ w % 256 = r.cause % 256 ∧ w / 2 ^ 8 % 8 = r.slot % 8 ∧ w / 2 ^ 11 % 4 = r.col % 4 ∧
    w / 2 ^ 13 % 2 = again.toNat ∧ w / 2 ^ 14 % 2 = s.fg.follower.isSome.toNat ∧ w / 2 ^ 16 % 4096 = s.fg.pc % 4096 ∧
    w / 2 ^ 40 % 4096 = s.fg.follower.getD 0 % 4096 ∧ w / 2 ^ 52 % 2 = r.deferred.toNat ∧ w / 2 ^ 53 = r.outtext.toNat ∧
    (again = true ∨ r.outtext = true → w / 2 ^ 28 % 4096 = s.fg.pc % 4096) ∧
    (again = false → r.outtext = false → r.bodyEnd = false → w / 2 ^ 28 % 4096 = (s.fg.pc + 1) % 4096)) ∧
  (∀ (s : State) (t : Task) (c : Nat),
    let o := (s.launchOf t).obj
    (∀ e, o.traps.find? (fun e => decide (e.1 = c)) = some e → s.handler t c = some (e.2 % 4096)) ∧
    (o.traps.find? (fun e => decide (e.1 = c)) = none → s.handler t c = o.trapDef.map (· % 4096))) ∧
  (∀ (s : State) (r : TrapReq),
    (s.fg.active = false → s.handler s.fg r.cause = none → s.enterTrap r = s.kill s.fg.key) ∧
    (s.fg.active = true → r.deferred = false → s.enterTrap r = s.kill s.fg.key) ∧
    (s.fg.active = true → r.deferred = true → s.fg.held = none →
      s.enterTrap r = { s with fg := { s.fg with held := some ⟨r.cause, r.col⟩ } }) ∧
    (s.fg.active = true → r.deferred = true → s.fg.held ≠ none → s.enterTrap r = s)) ∧
  (∀ (t : Task) (n : Nat),
    let u := t.eret n
    let w := t.trapCause.toNat
    u.active = false ∧ (∀ k, k ≠ 15 → u.trapCause.getLsbD k = t.trapCause.getLsbD k) ∧ u.snap = Snap.empty ∧
    u.banks = t.banks ∧ u.held = none ∧ u.deferred = t.held.toList ++ t.deferred ∧
    (w / 2 ^ 14 % 2 = 1 → w / 2 ^ 13 % 2 = 0 → u.pc = w / 2 ^ 40 % 4096 ∧ u.follower = none) ∧
    (w / 2 ^ 14 % 2 = 1 → w / 2 ^ 13 % 2 = 1 → u.pc = w / 2 ^ 28 % 4096 ∧ u.follower = some (w / 2 ^ 40 % 4096)) ∧
    (w / 2 ^ 14 % 2 = 0 → u.pc = w / 2 ^ 28 % 4096 ∧ u.follower = none)) ∧
  (∀ (t : Task) (r : TrapReq) (h n : Nat),
    let u := (t.trapTo r h).eret n
    u.pend = t.pend.map (fun x => { x with due := n + (x.due - t.dist) }) ∧
    u.land = t.land.map (fun x => { x with due := n + (x.due - t.dist) }) ∧ u.banks = t.banks) ∧
  (∀ (accs : List (Nat × Bool × Bool)) (old : List Pend) (s : State), s.ctl.on = true → s.ctl.kill = false → s.ctl.exit = false →
    (s.ctl.trap = none → s.ctl.eret = true →
      let t := (finishBundle accs old s).fg
      t.pc = (s.fg.eret 0).pc ∧ t.follower = (s.fg.eret 0).follower ∧ t.active = false) ∧
    (∀ c h, s.ctl.trap = some c → s.fg.active = false → s.handler s.fg c = some h → s.fg.follower = none →
      s.ctl.bodyEnd = false → s.ctl.indir = none →
      let t := (finishBundle accs old s).fg
      t.pc = h ∧ t.active = true ∧ t.trapCause.toNat % 256 = c % 256 ∧ t.trapCause.toNat / 2 ^ 16 % 4096 = s.fg.pc % 4096 ∧
      t.trapCause.toNat / 2 ^ 28 % 4096 = (match s.ctl.jump with | some a => a % 4096 | none => (s.fg.pc + 1) % 4096)))

/-- Operand fields, rotation, and when a write is seen: at its latency, the later of two in program order standing; p0 and k0
discard writes. -/
def Obligations.OperandsAndLatency : Prop :=
  (∀ (b : ColBank) (f : RegF), f.toNat < 64 → b.physI f = f.toNat ∧ b.physV f = f.toNat ∧ b.physP f = f.toNat) ∧
  (∀ (b : ColBank) (f : RegF), 64 ≤ f.toNat →
    let n := f.toNat - 64
    (32 ≤ n → n < 56 → b.physI f = 32 + (n - 32 + b.ibi) % 24) ∧ (16 ≤ n → n < 32 → b.physV f = 16 + (n - 16 + b.ibv) % 16) ∧
    (8 ≤ n → n < 16 → b.physP f = 8 + (n - 8 + b.ibp) % 8)) ∧
  (∀ (b : ColBank) (g : Guard), (g.toNat < 8 → b.physG g = g.toNat) ∧ (8 ≤ g.toNat → b.physG g = 8 + (g.toNat - 8 + b.ibp) % 8)) ∧
  (∀ (b : ColBank) (x : Bool) (m : Lane), b.p 0 = true ∧ b.k 0 = BitVec.allOnes 32 ∧ b.write (.p 0 x) = b ∧
    b.write (.k 0 m) = b) ∧
  (∀ (b : ColBank) (p8 : Bool), b.ibp < 8 →
    let r := b.write (.rot p8)
    r.ibi = (b.ibi + 1) % 24 ∧ r.ibv = (b.ibv + 1) % 16 ∧ r.ibp = (b.ibp + 1) % 8 ∧ r.p (8 + r.ibp) = p8 ∧
    ∀ n, n ≠ 8 + r.ibp → r.p n = b.p n) ∧
  (∀ (s : State) (lat : Nat) (w : RegWrite), s.fg.pend.Pairwise (fun x y => x.due ≤ y.due) →
    let x : Pend := ⟨s.fg.dist + lat, s.col, w, 0⟩
    s.post lat w = { s with fg := { s.fg with pend := (s.post lat w).fg.pend } } ∧
    (s.post lat w).fg.pend.Pairwise (fun x y => x.due ≤ y.due) ∧
    ∃ a b, s.fg.pend = a ++ b ∧ (s.post lat w).fg.pend = a ++ x :: b ∧ (∀ y, y ∈ a → y.due ≤ x.due) ∧ ∀ y, y ∈ b → x.due < y.due) ∧
  (∀ (t : Task) (c n : Nat), c < 4 → n < 56 →
    t.applyDue.pend = t.pend.filter (fun x => decide (t.dist < x.due)) ∧
    ((∀ x, x ∈ t.pend → x.due ≤ t.dist → x.col = c → x.w.dest ≠ (0, n)) → (t.applyDue.bank c).i n = (t.bank c).i n) ∧
    (∀ a x b w, t.pend = a ++ x :: b → x.due ≤ t.dist → x.col = c → x.w = .i n w →
      (∀ y, y ∈ b → y.due ≤ t.dist → y.col = c → y.w.dest ≠ (0, n)) → (t.applyDue.bank c).i n = w))
end

