-- ==== Sys2Proof/Laws/State.lean ====
section
/-!
SUPPORT. What each update of the state leaves alone: one lemma per field per update, true by unfolding, so that no proof
unfolds a record update.
-/
namespace Sys2Proof.Machine

/-! setByte -/

@[simp] theorem State.setByte_fg (s : State) (a : Nat) (b : Byte) : (s.setByte a b).fg = s.fg := rfl
@[simp] theorem State.setByte_col (s : State) (a : Nat) (b : Byte) : (s.setByte a b).col = s.col := rfl
@[simp] theorem State.setByte_issue (s : State) (a : Nat) (b : Byte) : (s.setByte a b).issue = s.issue := rfl
@[simp] theorem State.setByte_ctl (s : State) (a : Nat) (b : Byte) : (s.setByte a b).ctl = s.ctl := rfl
@[simp] theorem State.setByte_bg (s : State) (a : Nat) (b : Byte) : (s.setByte a b).bg = s.bg := rfl
@[simp] theorem State.setByte_units (s : State) (a : Nat) (b : Byte) : (s.setByte a b).units = s.units := rfl
@[simp] theorem State.setByte_cores (s : State) (a : Nat) (b : Byte) : (s.setByte a b).cores = s.cores := rfl
@[simp] theorem State.setByte_lsOwn (s : State) (a : Nat) (b : Byte) : (s.setByte a b).lsOwn = s.lsOwn := rfl
@[simp] theorem State.setByte_lsPois (s : State) (a : Nat) (b : Byte) : (s.setByte a b).lsPois = s.lsPois := rfl
@[simp] theorem State.setByte_agenda (s : State) (a : Nat) (b : Byte) : (s.setByte a b).agenda = s.agenda := rfl
@[simp] theorem State.setByte_ev (s : State) (a : Nat) (b : Byte) : (s.setByte a b).ev = s.ev := rfl
@[simp] theorem State.setByte_turns (s : State) (a : Nat) (b : Byte) : (s.setByte a b).turns = s.turns := rfl
@[simp] theorem State.setByte_choice (s : State) (a : Nat) (b : Byte) : (s.setByte a b).choice = s.choice := rfl
@[simp] theorem State.setByte_nid (s : State) (a : Nat) (b : Byte) : (s.setByte a b).nid = s.nid := rfl
@[simp] theorem State.setByte_cycle (s : State) (a : Nat) (b : Byte) : (s.setByte a b).cycle = s.cycle := rfl
@[simp] theorem State.setByte_vfs (s : State) (a : Nat) (b : Byte) : (s.setByte a b).vfs = s.vfs := rfl
@[simp] theorem State.setByte_launches (s : State) (a : Nat) (b : Byte) : (s.setByte a b).launches = s.launches := rfl
@[simp] theorem State.setByte_clasp (s : State) (a : Nat) (b : Byte) : (s.setByte a b).clasp = s.clasp := rfl
@[simp] theorem State.setByte_claspFull (s : State) (a : Nat) (b : Byte) : (s.setByte a b).claspFull = s.claspFull := rfl
@[simp] theorem State.setByte_dmPois (s : State) (a : Nat) (b : Byte) : (s.setByte a b).dmPois = s.dmPois := rfl
@[simp] theorem State.setByte_monitors (s : State) (a : Nat) (b : Byte) : (s.setByte a b).monitors = s.monitors := rfl
@[simp] theorem State.setByte_overflow (s : State) (a : Nat) (b : Byte) : (s.setByte a b).overflow = s.overflow := rfl
@[simp] theorem State.setByte_hbmGen (s : State) (a : Nat) (b : Byte) : (s.setByte a b).hbmGen = s.hbmGen := rfl
@[simp] theorem State.setByte_tai (s : State) (a : Nat) (b : Byte) : (s.setByte a b).tai = s.tai := rfl
@[simp] theorem State.setByte_out (s : State) (a : Nat) (b : Byte) : (s.setByte a b).out = s.out := rfl
@[simp] theorem State.setByte_reqs (s : State) (a : Nat) (b : Byte) : (s.setByte a b).reqs = s.reqs := rfl
@[simp] theorem State.setByte_heldPuts (s : State) (a : Nat) (b : Byte) : (s.setByte a b).heldPuts = s.heldPuts := rfl
@[simp] theorem State.setByte_flight (s : State) (a : Nat) (b : Byte) : (s.setByte a b).flight = s.flight := rfl
@[simp] theorem State.setByte_ports (s : State) (a : Nat) (b : Byte) : (s.setByte a b).ports = s.ports := rfl
@[simp] theorem State.setByte_pages (s : State) (a : Nat) (b : Byte) : (s.setByte a b).pages = s.pages := rfl
@[simp] theorem State.setByte_tickets (s : State) (a : Nat) (b : Byte) : (s.setByte a b).tickets = s.tickets := rfl
@[simp] theorem State.setByte_chans (s : State) (a : Nat) (b : Byte) : (s.setByte a b).chans = s.chans := rfl
@[simp] theorem State.setByte_strips (s : State) (a : Nat) (b : Byte) : (s.setByte a b).strips = s.strips := rfl
@[simp] theorem State.setByte_charms (s : State) (a : Nat) (b : Byte) : (s.setByte a b).charms = s.charms := rfl
@[simp] theorem State.setByte_bars (s : State) (a : Nat) (b : Byte) : (s.setByte a b).bars = s.bars := rfl
@[simp] theorem State.setByte_parcels (s : State) (a : Nat) (b : Byte) : (s.setByte a b).parcels = s.parcels := rfl
@[simp] theorem State.setByte_mailbox (s : State) (a : Nat) (b : Byte) : (s.setByte a b).mailbox = s.mailbox := rfl
@[simp] theorem State.setByte_xfers (s : State) (a : Nat) (b : Byte) : (s.setByte a b).xfers = s.xfers := rfl
@[simp] theorem State.setByte_pod (s : State) (a : Nat) (b : Byte) : (s.setByte a b).pod = s.pod := rfl
@[simp] theorem State.setByte_fab (s : State) (a : Nat) (b : Byte) : (s.setByte a b).fab = s.fab := rfl
@[simp] theorem State.setByte_counters (s : State) (a : Nat) (b : Byte) : (s.setByte a b).counters = s.counters := rfl
@[simp] theorem State.setByte_frames (s : State) (a : Nat) (b : Byte) : (s.setByte a b).frames = s.frames := rfl
@[simp] theorem State.setByte_queues (s : State) (a : Nat) (b : Byte) : (s.setByte a b).queues = s.queues := rfl
@[simp] theorem State.setByte_segs (s : State) (a : Nat) (b : Byte) : (s.setByte a b).segs = s.segs := rfl
@[simp] theorem State.setByte_pmap (s : State) (a : Nat) (b : Byte) : (s.setByte a b).pmap = s.pmap := rfl
@[simp] theorem State.setByte_fw (s : State) (a : Nat) (b : Byte) : (s.setByte a b).fw = s.fw := rfl
@[simp] theorem State.setByte_mail (s : State) (a : Nat) (b : Byte) : (s.setByte a b).mail = s.mail := rfl
@[simp] theorem State.setByte_migs (s : State) (a : Nat) (b : Byte) : (s.setByte a b).migs = s.migs := rfl

/-! setUnit -/

@[simp] theorem State.setUnit_fg (s : State) (u : Nat) (x : UnitSt) : (s.setUnit u x).fg = s.fg := rfl
@[simp] theorem State.setUnit_col (s : State) (u : Nat) (x : UnitSt) : (s.setUnit u x).col = s.col := rfl
@[simp] theorem State.setUnit_issue (s : State) (u : Nat) (x : UnitSt) : (s.setUnit u x).issue = s.issue := rfl
@[simp] theorem State.setUnit_ctl (s : State) (u : Nat) (x : UnitSt) : (s.setUnit u x).ctl = s.ctl := rfl
@[simp] theorem State.setUnit_bg (s : State) (u : Nat) (x : UnitSt) : (s.setUnit u x).bg = s.bg := rfl
@[simp] theorem State.setUnit_cores (s : State) (u : Nat) (x : UnitSt) : (s.setUnit u x).cores = s.cores := rfl
@[simp] theorem State.setUnit_mem (s : State) (u : Nat) (x : UnitSt) : (s.setUnit u x).mem = s.mem := rfl
@[simp] theorem State.setUnit_lsOwn (s : State) (u : Nat) (x : UnitSt) : (s.setUnit u x).lsOwn = s.lsOwn := rfl
@[simp] theorem State.setUnit_lsPois (s : State) (u : Nat) (x : UnitSt) : (s.setUnit u x).lsPois = s.lsPois := rfl
@[simp] theorem State.setUnit_agenda (s : State) (u : Nat) (x : UnitSt) : (s.setUnit u x).agenda = s.agenda := rfl
@[simp] theorem State.setUnit_ev (s : State) (u : Nat) (x : UnitSt) : (s.setUnit u x).ev = s.ev := rfl
@[simp] theorem State.setUnit_turns (s : State) (u : Nat) (x : UnitSt) : (s.setUnit u x).turns = s.turns := rfl
@[simp] theorem State.setUnit_choice (s : State) (u : Nat) (x : UnitSt) : (s.setUnit u x).choice = s.choice := rfl
@[simp] theorem State.setUnit_nid (s : State) (u : Nat) (x : UnitSt) : (s.setUnit u x).nid = s.nid := rfl
@[simp] theorem State.setUnit_cycle (s : State) (u : Nat) (x : UnitSt) : (s.setUnit u x).cycle = s.cycle := rfl
@[simp] theorem State.setUnit_vfs (s : State) (u : Nat) (x : UnitSt) : (s.setUnit u x).vfs = s.vfs := rfl
@[simp] theorem State.setUnit_launches (s : State) (u : Nat) (x : UnitSt) : (s.setUnit u x).launches = s.launches := rfl
@[simp] theorem State.setUnit_clasp (s : State) (u : Nat) (x : UnitSt) : (s.setUnit u x).clasp = s.clasp := rfl
@[simp] theorem State.setUnit_claspFull (s : State) (u : Nat) (x : UnitSt) : (s.setUnit u x).claspFull = s.claspFull := rfl
@[simp] theorem State.setUnit_dmPois (s : State) (u : Nat) (x : UnitSt) : (s.setUnit u x).dmPois = s.dmPois := rfl
@[simp] theorem State.setUnit_monitors (s : State) (u : Nat) (x : UnitSt) : (s.setUnit u x).monitors = s.monitors := rfl
@[simp] theorem State.setUnit_overflow (s : State) (u : Nat) (x : UnitSt) : (s.setUnit u x).overflow = s.overflow := rfl
@[simp] theorem State.setUnit_hbmGen (s : State) (u : Nat) (x : UnitSt) : (s.setUnit u x).hbmGen = s.hbmGen := rfl
@[simp] theorem State.setUnit_tai (s : State) (u : Nat) (x : UnitSt) : (s.setUnit u x).tai = s.tai := rfl
@[simp] theorem State.setUnit_out (s : State) (u : Nat) (x : UnitSt) : (s.setUnit u x).out = s.out := rfl
@[simp] theorem State.setUnit_reqs (s : State) (u : Nat) (x : UnitSt) : (s.setUnit u x).reqs = s.reqs := rfl
@[simp] theorem State.setUnit_heldPuts (s : State) (u : Nat) (x : UnitSt) : (s.setUnit u x).heldPuts = s.heldPuts := rfl
@[simp] theorem State.setUnit_flight (s : State) (u : Nat) (x : UnitSt) : (s.setUnit u x).flight = s.flight := rfl
@[simp] theorem State.setUnit_ports (s : State) (u : Nat) (x : UnitSt) : (s.setUnit u x).ports = s.ports := rfl
@[simp] theorem State.setUnit_pages (s : State) (u : Nat) (x : UnitSt) : (s.setUnit u x).pages = s.pages := rfl
@[simp] theorem State.setUnit_tickets (s : State) (u : Nat) (x : UnitSt) : (s.setUnit u x).tickets = s.tickets := rfl
@[simp] theorem State.setUnit_chans (s : State) (u : Nat) (x : UnitSt) : (s.setUnit u x).chans = s.chans := rfl
@[simp] theorem State.setUnit_strips (s : State) (u : Nat) (x : UnitSt) : (s.setUnit u x).strips = s.strips := rfl
@[simp] theorem State.setUnit_charms (s : State) (u : Nat) (x : UnitSt) : (s.setUnit u x).charms = s.charms := rfl
@[simp] theorem State.setUnit_bars (s : State) (u : Nat) (x : UnitSt) : (s.setUnit u x).bars = s.bars := rfl
@[simp] theorem State.setUnit_parcels (s : State) (u : Nat) (x : UnitSt) : (s.setUnit u x).parcels = s.parcels := rfl
@[simp] theorem State.setUnit_mailbox (s : State) (u : Nat) (x : UnitSt) : (s.setUnit u x).mailbox = s.mailbox := rfl
@[simp] theorem State.setUnit_xfers (s : State) (u : Nat) (x : UnitSt) : (s.setUnit u x).xfers = s.xfers := rfl
@[simp] theorem State.setUnit_pod (s : State) (u : Nat) (x : UnitSt) : (s.setUnit u x).pod = s.pod := rfl
@[simp] theorem State.setUnit_fab (s : State) (u : Nat) (x : UnitSt) : (s.setUnit u x).fab = s.fab := rfl
@[simp] theorem State.setUnit_counters (s : State) (u : Nat) (x : UnitSt) : (s.setUnit u x).counters = s.counters := rfl
@[simp] theorem State.setUnit_frames (s : State) (u : Nat) (x : UnitSt) : (s.setUnit u x).frames = s.frames := rfl
@[simp] theorem State.setUnit_queues (s : State) (u : Nat) (x : UnitSt) : (s.setUnit u x).queues = s.queues := rfl
@[simp] theorem State.setUnit_segs (s : State) (u : Nat) (x : UnitSt) : (s.setUnit u x).segs = s.segs := rfl
@[simp] theorem State.setUnit_pmap (s : State) (u : Nat) (x : UnitSt) : (s.setUnit u x).pmap = s.pmap := rfl
@[simp] theorem State.setUnit_fw (s : State) (u : Nat) (x : UnitSt) : (s.setUnit u x).fw = s.fw := rfl
@[simp] theorem State.setUnit_mail (s : State) (u : Nat) (x : UnitSt) : (s.setUnit u x).mail = s.mail := rfl
@[simp] theorem State.setUnit_migs (s : State) (u : Nat) (x : UnitSt) : (s.setUnit u x).migs = s.migs := rfl

/-! mapUnit -/

@[simp] theorem State.mapUnit_fg (s : State) (u : Nat) (f : UnitSt → UnitSt) : (s.mapUnit u f).fg = s.fg := rfl
@[simp] theorem State.mapUnit_col (s : State) (u : Nat) (f : UnitSt → UnitSt) : (s.mapUnit u f).col = s.col := rfl
@[simp] theorem State.mapUnit_issue (s : State) (u : Nat) (f : UnitSt → UnitSt) : (s.mapUnit u f).issue = s.issue := rfl
@[simp] theorem State.mapUnit_ctl (s : State) (u : Nat) (f : UnitSt → UnitSt) : (s.mapUnit u f).ctl = s.ctl := rfl
@[simp] theorem State.mapUnit_bg (s : State) (u : Nat) (f : UnitSt → UnitSt) : (s.mapUnit u f).bg = s.bg := rfl
@[simp] theorem State.mapUnit_cores (s : State) (u : Nat) (f : UnitSt → UnitSt) : (s.mapUnit u f).cores = s.cores := rfl
@[simp] theorem State.mapUnit_mem (s : State) (u : Nat) (f : UnitSt → UnitSt) : (s.mapUnit u f).mem = s.mem := rfl
@[simp] theorem State.mapUnit_lsOwn (s : State) (u : Nat) (f : UnitSt → UnitSt) : (s.mapUnit u f).lsOwn = s.lsOwn := rfl
@[simp] theorem State.mapUnit_lsPois (s : State) (u : Nat) (f : UnitSt → UnitSt) : (s.mapUnit u f).lsPois = s.lsPois := rfl
@[simp] theorem State.mapUnit_agenda (s : State) (u : Nat) (f : UnitSt → UnitSt) : (s.mapUnit u f).agenda = s.agenda := rfl
@[simp] theorem State.mapUnit_ev (s : State) (u : Nat) (f : UnitSt → UnitSt) : (s.mapUnit u f).ev = s.ev := rfl
@[simp] theorem State.mapUnit_turns (s : State) (u : Nat) (f : UnitSt → UnitSt) : (s.mapUnit u f).turns = s.turns := rfl
@[simp] theorem State.mapUnit_choice (s : State) (u : Nat) (f : UnitSt → UnitSt) : (s.mapUnit u f).choice = s.choice := rfl
@[simp] theorem State.mapUnit_nid (s : State) (u : Nat) (f : UnitSt → UnitSt) : (s.mapUnit u f).nid = s.nid := rfl
@[simp] theorem State.mapUnit_cycle (s : State) (u : Nat) (f : UnitSt → UnitSt) : (s.mapUnit u f).cycle = s.cycle := rfl
@[simp] theorem State.mapUnit_vfs (s : State) (u : Nat) (f : UnitSt → UnitSt) : (s.mapUnit u f).vfs = s.vfs := rfl
@[simp] theorem State.mapUnit_launches (s : State) (u : Nat) (f : UnitSt → UnitSt) : (s.mapUnit u f).launches = s.launches := rfl
@[simp] theorem State.mapUnit_clasp (s : State) (u : Nat) (f : UnitSt → UnitSt) : (s.mapUnit u f).clasp = s.clasp := rfl
@[simp] theorem State.mapUnit_claspFull (s : State) (u : Nat) (f : UnitSt → UnitSt) : (s.mapUnit u f).claspFull = s.claspFull := rfl
@[simp] theorem State.mapUnit_dmPois (s : State) (u : Nat) (f : UnitSt → UnitSt) : (s.mapUnit u f).dmPois = s.dmPois := rfl
@[simp] theorem State.mapUnit_monitors (s : State) (u : Nat) (f : UnitSt → UnitSt) : (s.mapUnit u f).monitors = s.monitors := rfl
@[simp] theorem State.mapUnit_overflow (s : State) (u : Nat) (f : UnitSt → UnitSt) : (s.mapUnit u f).overflow = s.overflow := rfl
@[simp] theorem State.mapUnit_hbmGen (s : State) (u : Nat) (f : UnitSt → UnitSt) : (s.mapUnit u f).hbmGen = s.hbmGen := rfl
@[simp] theorem State.mapUnit_tai (s : State) (u : Nat) (f : UnitSt → UnitSt) : (s.mapUnit u f).tai = s.tai := rfl
@[simp] theorem State.mapUnit_out (s : State) (u : Nat) (f : UnitSt → UnitSt) : (s.mapUnit u f).out = s.out := rfl
@[simp] theorem State.mapUnit_reqs (s : State) (u : Nat) (f : UnitSt → UnitSt) : (s.mapUnit u f).reqs = s.reqs := rfl
@[simp] theorem State.mapUnit_heldPuts (s : State) (u : Nat) (f : UnitSt → UnitSt) : (s.mapUnit u f).heldPuts = s.heldPuts := rfl
@[simp] theorem State.mapUnit_flight (s : State) (u : Nat) (f : UnitSt → UnitSt) : (s.mapUnit u f).flight = s.flight := rfl
@[simp] theorem State.mapUnit_ports (s : State) (u : Nat) (f : UnitSt → UnitSt) : (s.mapUnit u f).ports = s.ports := rfl
@[simp] theorem State.mapUnit_pages (s : State) (u : Nat) (f : UnitSt → UnitSt) : (s.mapUnit u f).pages = s.pages := rfl
@[simp] theorem State.mapUnit_tickets (s : State) (u : Nat) (f : UnitSt → UnitSt) : (s.mapUnit u f).tickets = s.tickets := rfl
@[simp] theorem State.mapUnit_chans (s : State) (u : Nat) (f : UnitSt → UnitSt) : (s.mapUnit u f).chans = s.chans := rfl
@[simp] theorem State.mapUnit_strips (s : State) (u : Nat) (f : UnitSt → UnitSt) : (s.mapUnit u f).strips = s.strips := rfl
@[simp] theorem State.mapUnit_charms (s : State) (u : Nat) (f : UnitSt → UnitSt) : (s.mapUnit u f).charms = s.charms := rfl
@[simp] theorem State.mapUnit_bars (s : State) (u : Nat) (f : UnitSt → UnitSt) : (s.mapUnit u f).bars = s.bars := rfl
@[simp] theorem State.mapUnit_parcels (s : State) (u : Nat) (f : UnitSt → UnitSt) : (s.mapUnit u f).parcels = s.parcels := rfl
@[simp] theorem State.mapUnit_mailbox (s : State) (u : Nat) (f : UnitSt → UnitSt) : (s.mapUnit u f).mailbox = s.mailbox := rfl
@[simp] theorem State.mapUnit_xfers (s : State) (u : Nat) (f : UnitSt → UnitSt) : (s.mapUnit u f).xfers = s.xfers := rfl
@[simp] theorem State.mapUnit_pod (s : State) (u : Nat) (f : UnitSt → UnitSt) : (s.mapUnit u f).pod = s.pod := rfl
@[simp] theorem State.mapUnit_fab (s : State) (u : Nat) (f : UnitSt → UnitSt) : (s.mapUnit u f).fab = s.fab := rfl
@[simp] theorem State.mapUnit_counters (s : State) (u : Nat) (f : UnitSt → UnitSt) : (s.mapUnit u f).counters = s.counters := rfl
@[simp] theorem State.mapUnit_frames (s : State) (u : Nat) (f : UnitSt → UnitSt) : (s.mapUnit u f).frames = s.frames := rfl
@[simp] theorem State.mapUnit_queues (s : State) (u : Nat) (f : UnitSt → UnitSt) : (s.mapUnit u f).queues = s.queues := rfl
@[simp] theorem State.mapUnit_segs (s : State) (u : Nat) (f : UnitSt → UnitSt) : (s.mapUnit u f).segs = s.segs := rfl
@[simp] theorem State.mapUnit_pmap (s : State) (u : Nat) (f : UnitSt → UnitSt) : (s.mapUnit u f).pmap = s.pmap := rfl
@[simp] theorem State.mapUnit_fw (s : State) (u : Nat) (f : UnitSt → UnitSt) : (s.mapUnit u f).fw = s.fw := rfl
@[simp] theorem State.mapUnit_mail (s : State) (u : Nat) (f : UnitSt → UnitSt) : (s.mapUnit u f).mail = s.mail := rfl
@[simp] theorem State.mapUnit_migs (s : State) (u : Nat) (f : UnitSt → UnitSt) : (s.mapUnit u f).migs = s.migs := rfl

/-! setCore -/

@[simp] theorem State.setCore_fg (s : State) (c : Nat) (x : CoreSt) : (s.setCore c x).fg = s.fg := rfl
@[simp] theorem State.setCore_col (s : State) (c : Nat) (x : CoreSt) : (s.setCore c x).col = s.col := rfl
@[simp] theorem State.setCore_issue (s : State) (c : Nat) (x : CoreSt) : (s.setCore c x).issue = s.issue := rfl
@[simp] theorem State.setCore_ctl (s : State) (c : Nat) (x : CoreSt) : (s.setCore c x).ctl = s.ctl := rfl
@[simp] theorem State.setCore_bg (s : State) (c : Nat) (x : CoreSt) : (s.setCore c x).bg = s.bg := rfl
@[simp] theorem State.setCore_units (s : State) (c : Nat) (x : CoreSt) : (s.setCore c x).units = s.units := rfl
@[simp] theorem State.setCore_mem (s : State) (c : Nat) (x : CoreSt) : (s.setCore c x).mem = s.mem := rfl
@[simp] theorem State.setCore_lsOwn (s : State) (c : Nat) (x : CoreSt) : (s.setCore c x).lsOwn = s.lsOwn := rfl
@[simp] theorem State.setCore_lsPois (s : State) (c : Nat) (x : CoreSt) : (s.setCore c x).lsPois = s.lsPois := rfl
@[simp] theorem State.setCore_agenda (s : State) (c : Nat) (x : CoreSt) : (s.setCore c x).agenda = s.agenda := rfl
@[simp] theorem State.setCore_ev (s : State) (c : Nat) (x : CoreSt) : (s.setCore c x).ev = s.ev := rfl
@[simp] theorem State.setCore_turns (s : State) (c : Nat) (x : CoreSt) : (s.setCore c x).turns = s.turns := rfl
@[simp] theorem State.setCore_choice (s : State) (c : Nat) (x : CoreSt) : (s.setCore c x).choice = s.choice := rfl
@[simp] theorem State.setCore_nid (s : State) (c : Nat) (x : CoreSt) : (s.setCore c x).nid = s.nid := rfl
@[simp] theorem State.setCore_cycle (s : State) (c : Nat) (x : CoreSt) : (s.setCore c x).cycle = s.cycle := rfl
@[simp] theorem State.setCore_vfs (s : State) (c : Nat) (x : CoreSt) : (s.setCore c x).vfs = s.vfs := rfl
@[simp] theorem State.setCore_launches (s : State) (c : Nat) (x : CoreSt) : (s.setCore c x).launches = s.launches := rfl
@[simp] theorem State.setCore_clasp (s : State) (c : Nat) (x : CoreSt) : (s.setCore c x).clasp = s.clasp := rfl
@[simp] theorem State.setCore_claspFull (s : State) (c : Nat) (x : CoreSt) : (s.setCore c x).claspFull = s.claspFull := rfl
@[simp] theorem State.setCore_dmPois (s : State) (c : Nat) (x : CoreSt) : (s.setCore c x).dmPois = s.dmPois := rfl
@[simp] theorem State.setCore_monitors (s : State) (c : Nat) (x : CoreSt) : (s.setCore c x).monitors = s.monitors := rfl
@[simp] theorem State.setCore_overflow (s : State) (c : Nat) (x : CoreSt) : (s.setCore c x).overflow = s.overflow := rfl
@[simp] theorem State.setCore_hbmGen (s : State) (c : Nat) (x : CoreSt) : (s.setCore c x).hbmGen = s.hbmGen := rfl
@[simp] theorem State.setCore_tai (s : State) (c : Nat) (x : CoreSt) : (s.setCore c x).tai = s.tai := rfl
@[simp] theorem State.setCore_out (s : State) (c : Nat) (x : CoreSt) : (s.setCore c x).out = s.out := rfl
@[simp] theorem State.setCore_reqs (s : State) (c : Nat) (x : CoreSt) : (s.setCore c x).reqs = s.reqs := rfl
@[simp] theorem State.setCore_heldPuts (s : State) (c : Nat) (x : CoreSt) : (s.setCore c x).heldPuts = s.heldPuts := rfl
@[simp] theorem State.setCore_flight (s : State) (c : Nat) (x : CoreSt) : (s.setCore c x).flight = s.flight := rfl
@[simp] theorem State.setCore_ports (s : State) (c : Nat) (x : CoreSt) : (s.setCore c x).ports = s.ports := rfl
@[simp] theorem State.setCore_pages (s : State) (c : Nat) (x : CoreSt) : (s.setCore c x).pages = s.pages := rfl
@[simp] theorem State.setCore_tickets (s : State) (c : Nat) (x : CoreSt) : (s.setCore c x).tickets = s.tickets := rfl
@[simp] theorem State.setCore_chans (s : State) (c : Nat) (x : CoreSt) : (s.setCore c x).chans = s.chans := rfl
@[simp] theorem State.setCore_strips (s : State) (c : Nat) (x : CoreSt) : (s.setCore c x).strips = s.strips := rfl
@[simp] theorem State.setCore_charms (s : State) (c : Nat) (x : CoreSt) : (s.setCore c x).charms = s.charms := rfl
@[simp] theorem State.setCore_bars (s : State) (c : Nat) (x : CoreSt) : (s.setCore c x).bars = s.bars := rfl
@[simp] theorem State.setCore_parcels (s : State) (c : Nat) (x : CoreSt) : (s.setCore c x).parcels = s.parcels := rfl
@[simp] theorem State.setCore_mailbox (s : State) (c : Nat) (x : CoreSt) : (s.setCore c x).mailbox = s.mailbox := rfl
@[simp] theorem State.setCore_xfers (s : State) (c : Nat) (x : CoreSt) : (s.setCore c x).xfers = s.xfers := rfl
@[simp] theorem State.setCore_pod (s : State) (c : Nat) (x : CoreSt) : (s.setCore c x).pod = s.pod := rfl
@[simp] theorem State.setCore_fab (s : State) (c : Nat) (x : CoreSt) : (s.setCore c x).fab = s.fab := rfl
@[simp] theorem State.setCore_counters (s : State) (c : Nat) (x : CoreSt) : (s.setCore c x).counters = s.counters := rfl
@[simp] theorem State.setCore_frames (s : State) (c : Nat) (x : CoreSt) : (s.setCore c x).frames = s.frames := rfl
@[simp] theorem State.setCore_queues (s : State) (c : Nat) (x : CoreSt) : (s.setCore c x).queues = s.queues := rfl
@[simp] theorem State.setCore_segs (s : State) (c : Nat) (x : CoreSt) : (s.setCore c x).segs = s.segs := rfl
@[simp] theorem State.setCore_pmap (s : State) (c : Nat) (x : CoreSt) : (s.setCore c x).pmap = s.pmap := rfl
@[simp] theorem State.setCore_fw (s : State) (c : Nat) (x : CoreSt) : (s.setCore c x).fw = s.fw := rfl
@[simp] theorem State.setCore_mail (s : State) (c : Nat) (x : CoreSt) : (s.setCore c x).mail = s.mail := rfl
@[simp] theorem State.setCore_migs (s : State) (c : Nat) (x : CoreSt) : (s.setCore c x).migs = s.migs := rfl

/-! setVf -/

@[simp] theorem State.setVf_fg (s : State) (n : Nat) (v : VfSt) : (s.setVf n v).fg = s.fg := rfl
@[simp] theorem State.setVf_col (s : State) (n : Nat) (v : VfSt) : (s.setVf n v).col = s.col := rfl
@[simp] theorem State.setVf_issue (s : State) (n : Nat) (v : VfSt) : (s.setVf n v).issue = s.issue := rfl
@[simp] theorem State.setVf_ctl (s : State) (n : Nat) (v : VfSt) : (s.setVf n v).ctl = s.ctl := rfl
@[simp] theorem State.setVf_bg (s : State) (n : Nat) (v : VfSt) : (s.setVf n v).bg = s.bg := rfl
@[simp] theorem State.setVf_units (s : State) (n : Nat) (v : VfSt) : (s.setVf n v).units = s.units := rfl
@[simp] theorem State.setVf_cores (s : State) (n : Nat) (v : VfSt) : (s.setVf n v).cores = s.cores := rfl
@[simp] theorem State.setVf_mem (s : State) (n : Nat) (v : VfSt) : (s.setVf n v).mem = s.mem := rfl
@[simp] theorem State.setVf_lsOwn (s : State) (n : Nat) (v : VfSt) : (s.setVf n v).lsOwn = s.lsOwn := rfl
@[simp] theorem State.setVf_lsPois (s : State) (n : Nat) (v : VfSt) : (s.setVf n v).lsPois = s.lsPois := rfl
@[simp] theorem State.setVf_agenda (s : State) (n : Nat) (v : VfSt) : (s.setVf n v).agenda = s.agenda := rfl
@[simp] theorem State.setVf_ev (s : State) (n : Nat) (v : VfSt) : (s.setVf n v).ev = s.ev := rfl
@[simp] theorem State.setVf_turns (s : State) (n : Nat) (v : VfSt) : (s.setVf n v).turns = s.turns := rfl
@[simp] theorem State.setVf_choice (s : State) (n : Nat) (v : VfSt) : (s.setVf n v).choice = s.choice := rfl
@[simp] theorem State.setVf_nid (s : State) (n : Nat) (v : VfSt) : (s.setVf n v).nid = s.nid := rfl
@[simp] theorem State.setVf_cycle (s : State) (n : Nat) (v : VfSt) : (s.setVf n v).cycle = s.cycle := rfl
@[simp] theorem State.setVf_launches (s : State) (n : Nat) (v : VfSt) : (s.setVf n v).launches = s.launches := rfl
@[simp] theorem State.setVf_clasp (s : State) (n : Nat) (v : VfSt) : (s.setVf n v).clasp = s.clasp := rfl
@[simp] theorem State.setVf_claspFull (s : State) (n : Nat) (v : VfSt) : (s.setVf n v).claspFull = s.claspFull := rfl
@[simp] theorem State.setVf_dmPois (s : State) (n : Nat) (v : VfSt) : (s.setVf n v).dmPois = s.dmPois := rfl
@[simp] theorem State.setVf_monitors (s : State) (n : Nat) (v : VfSt) : (s.setVf n v).monitors = s.monitors := rfl
@[simp] theorem State.setVf_overflow (s : State) (n : Nat) (v : VfSt) : (s.setVf n v).overflow = s.overflow := rfl
@[simp] theorem State.setVf_hbmGen (s : State) (n : Nat) (v : VfSt) : (s.setVf n v).hbmGen = s.hbmGen := rfl
@[simp] theorem State.setVf_tai (s : State) (n : Nat) (v : VfSt) : (s.setVf n v).tai = s.tai := rfl
@[simp] theorem State.setVf_out (s : State) (n : Nat) (v : VfSt) : (s.setVf n v).out = s.out := rfl
@[simp] theorem State.setVf_reqs (s : State) (n : Nat) (v : VfSt) : (s.setVf n v).reqs = s.reqs := rfl
@[simp] theorem State.setVf_heldPuts (s : State) (n : Nat) (v : VfSt) : (s.setVf n v).heldPuts = s.heldPuts := rfl
@[simp] theorem State.setVf_flight (s : State) (n : Nat) (v : VfSt) : (s.setVf n v).flight = s.flight := rfl
@[simp] theorem State.setVf_ports (s : State) (n : Nat) (v : VfSt) : (s.setVf n v).ports = s.ports := rfl
@[simp] theorem State.setVf_pages (s : State) (n : Nat) (v : VfSt) : (s.setVf n v).pages = s.pages := rfl
@[simp] theorem State.setVf_tickets (s : State) (n : Nat) (v : VfSt) : (s.setVf n v).tickets = s.tickets := rfl
@[simp] theorem State.setVf_chans (s : State) (n : Nat) (v : VfSt) : (s.setVf n v).chans = s.chans := rfl
@[simp] theorem State.setVf_strips (s : State) (n : Nat) (v : VfSt) : (s.setVf n v).strips = s.strips := rfl
@[simp] theorem State.setVf_charms (s : State) (n : Nat) (v : VfSt) : (s.setVf n v).charms = s.charms := rfl
@[simp] theorem State.setVf_bars (s : State) (n : Nat) (v : VfSt) : (s.setVf n v).bars = s.bars := rfl
@[simp] theorem State.setVf_parcels (s : State) (n : Nat) (v : VfSt) : (s.setVf n v).parcels = s.parcels := rfl
@[simp] theorem State.setVf_mailbox (s : State) (n : Nat) (v : VfSt) : (s.setVf n v).mailbox = s.mailbox := rfl
@[simp] theorem State.setVf_xfers (s : State) (n : Nat) (v : VfSt) : (s.setVf n v).xfers = s.xfers := rfl
@[simp] theorem State.setVf_pod (s : State) (n : Nat) (v : VfSt) : (s.setVf n v).pod = s.pod := rfl
@[simp] theorem State.setVf_fab (s : State) (n : Nat) (v : VfSt) : (s.setVf n v).fab = s.fab := rfl
@[simp] theorem State.setVf_counters (s : State) (n : Nat) (v : VfSt) : (s.setVf n v).counters = s.counters := rfl
@[simp] theorem State.setVf_frames (s : State) (n : Nat) (v : VfSt) : (s.setVf n v).frames = s.frames := rfl
@[simp] theorem State.setVf_queues (s : State) (n : Nat) (v : VfSt) : (s.setVf n v).queues = s.queues := rfl
@[simp] theorem State.setVf_segs (s : State) (n : Nat) (v : VfSt) : (s.setVf n v).segs = s.segs := rfl
@[simp] theorem State.setVf_pmap (s : State) (n : Nat) (v : VfSt) : (s.setVf n v).pmap = s.pmap := rfl
@[simp] theorem State.setVf_fw (s : State) (n : Nat) (v : VfSt) : (s.setVf n v).fw = s.fw := rfl
@[simp] theorem State.setVf_mail (s : State) (n : Nat) (v : VfSt) : (s.setVf n v).mail = s.mail := rfl
@[simp] theorem State.setVf_migs (s : State) (n : Nat) (v : VfSt) : (s.setVf n v).migs = s.migs := rfl

/-! send -/

@[simp] theorem State.send_fg (s : State) (m : OutMsg) : (s.send m).fg = s.fg := rfl
@[simp] theorem State.send_col (s : State) (m : OutMsg) : (s.send m).col = s.col := rfl
@[simp] theorem State.send_issue (s : State) (m : OutMsg) : (s.send m).issue = s.issue := rfl
@[simp] theorem State.send_ctl (s : State) (m : OutMsg) : (s.send m).ctl = s.ctl := rfl
@[simp] theorem State.send_bg (s : State) (m : OutMsg) : (s.send m).bg = s.bg := rfl
@[simp] theorem State.send_units (s : State) (m : OutMsg) : (s.send m).units = s.units := rfl
@[simp] theorem State.send_cores (s : State) (m : OutMsg) : (s.send m).cores = s.cores := rfl
@[simp] theorem State.send_mem (s : State) (m : OutMsg) : (s.send m).mem = s.mem := rfl
@[simp] theorem State.send_lsOwn (s : State) (m : OutMsg) : (s.send m).lsOwn = s.lsOwn := rfl
@[simp] theorem State.send_lsPois (s : State) (m : OutMsg) : (s.send m).lsPois = s.lsPois := rfl
@[simp] theorem State.send_agenda (s : State) (m : OutMsg) : (s.send m).agenda = s.agenda := rfl
@[simp] theorem State.send_ev (s : State) (m : OutMsg) : (s.send m).ev = s.ev := rfl
@[simp] theorem State.send_turns (s : State) (m : OutMsg) : (s.send m).turns = s.turns := rfl
@[simp] theorem State.send_choice (s : State) (m : OutMsg) : (s.send m).choice = s.choice := rfl
@[simp] theorem State.send_nid (s : State) (m : OutMsg) : (s.send m).nid = s.nid := rfl
@[simp] theorem State.send_cycle (s : State) (m : OutMsg) : (s.send m).cycle = s.cycle := rfl
@[simp] theorem State.send_vfs (s : State) (m : OutMsg) : (s.send m).vfs = s.vfs := rfl
@[simp] theorem State.send_launches (s : State) (m : OutMsg) : (s.send m).launches = s.launches := rfl
@[simp] theorem State.send_clasp (s : State) (m : OutMsg) : (s.send m).clasp = s.clasp := rfl
@[simp] theorem State.send_claspFull (s : State) (m : OutMsg) : (s.send m).claspFull = s.claspFull := rfl
@[simp] theorem State.send_dmPois (s : State) (m : OutMsg) : (s.send m).dmPois = s.dmPois := rfl
@[simp] theorem State.send_monitors (s : State) (m : OutMsg) : (s.send m).monitors = s.monitors := rfl
@[simp] theorem State.send_overflow (s : State) (m : OutMsg) : (s.send m).overflow = s.overflow := rfl
@[simp] theorem State.send_hbmGen (s : State) (m : OutMsg) : (s.send m).hbmGen = s.hbmGen := rfl
@[simp] theorem State.send_tai (s : State) (m : OutMsg) : (s.send m).tai = s.tai := rfl
@[simp] theorem State.send_reqs (s : State) (m : OutMsg) : (s.send m).reqs = s.reqs := rfl
@[simp] theorem State.send_heldPuts (s : State) (m : OutMsg) : (s.send m).heldPuts = s.heldPuts := rfl
@[simp] theorem State.send_flight (s : State) (m : OutMsg) : (s.send m).flight = s.flight := rfl
@[simp] theorem State.send_ports (s : State) (m : OutMsg) : (s.send m).ports = s.ports := rfl
@[simp] theorem State.send_pages (s : State) (m : OutMsg) : (s.send m).pages = s.pages := rfl
@[simp] theorem State.send_tickets (s : State) (m : OutMsg) : (s.send m).tickets = s.tickets := rfl
@[simp] theorem State.send_chans (s : State) (m : OutMsg) : (s.send m).chans = s.chans := rfl
@[simp] theorem State.send_strips (s : State) (m : OutMsg) : (s.send m).strips = s.strips := rfl
@[simp] theorem State.send_charms (s : State) (m : OutMsg) : (s.send m).charms = s.charms := rfl
@[simp] theorem State.send_bars (s : State) (m : OutMsg) : (s.send m).bars = s.bars := rfl
@[simp] theorem State.send_parcels (s : State) (m : OutMsg) : (s.send m).parcels = s.parcels := rfl
@[simp] theorem State.send_mailbox (s : State) (m : OutMsg) : (s.send m).mailbox = s.mailbox := rfl
@[simp] theorem State.send_xfers (s : State) (m : OutMsg) : (s.send m).xfers = s.xfers := rfl
@[simp] theorem State.send_pod (s : State) (m : OutMsg) : (s.send m).pod = s.pod := rfl
@[simp] theorem State.send_fab (s : State) (m : OutMsg) : (s.send m).fab = s.fab := rfl
@[simp] theorem State.send_counters (s : State) (m : OutMsg) : (s.send m).counters = s.counters := rfl
@[simp] theorem State.send_frames (s : State) (m : OutMsg) : (s.send m).frames = s.frames := rfl
@[simp] theorem State.send_queues (s : State) (m : OutMsg) : (s.send m).queues = s.queues := rfl
@[simp] theorem State.send_segs (s : State) (m : OutMsg) : (s.send m).segs = s.segs := rfl
@[simp] theorem State.send_pmap (s : State) (m : OutMsg) : (s.send m).pmap = s.pmap := rfl
@[simp] theorem State.send_fw (s : State) (m : OutMsg) : (s.send m).fw = s.fw := rfl
@[simp] theorem State.send_mail (s : State) (m : OutMsg) : (s.send m).mail = s.mail := rfl
@[simp] theorem State.send_migs (s : State) (m : OutMsg) : (s.send m).migs = s.migs := rfl

/-! setOwner -/

@[simp] theorem State.setOwner_fg (s : State) (core tile : Nat) (o : BitVec 8) : (s.setOwner core tile o).fg = s.fg := rfl
@[simp] theorem State.setOwner_col (s : State) (core tile : Nat) (o : BitVec 8) : (s.setOwner core tile o).col = s.col := rfl
@[simp] theorem State.setOwner_issue (s : State) (core tile : Nat) (o : BitVec 8) : (s.setOwner core tile o).issue = s.issue := rfl
@[simp] theorem State.setOwner_ctl (s : State) (core tile : Nat) (o : BitVec 8) : (s.setOwner core tile o).ctl = s.ctl := rfl
@[simp] theorem State.setOwner_bg (s : State) (core tile : Nat) (o : BitVec 8) : (s.setOwner core tile o).bg = s.bg := rfl
@[simp] theorem State.setOwner_units (s : State) (core tile : Nat) (o : BitVec 8) : (s.setOwner core tile o).units = s.units := rfl
@[simp] theorem State.setOwner_cores (s : State) (core tile : Nat) (o : BitVec 8) : (s.setOwner core tile o).cores = s.cores := rfl
@[simp] theorem State.setOwner_mem (s : State) (core tile : Nat) (o : BitVec 8) : (s.setOwner core tile o).mem = s.mem := rfl
@[simp] theorem State.setOwner_lsPois (s : State) (core tile : Nat) (o : BitVec 8) : (s.setOwner core tile o).lsPois = s.lsPois := rfl
@[simp] theorem State.setOwner_agenda (s : State) (core tile : Nat) (o : BitVec 8) : (s.setOwner core tile o).agenda = s.agenda := rfl
@[simp] theorem State.setOwner_ev (s : State) (core tile : Nat) (o : BitVec 8) : (s.setOwner core tile o).ev = s.ev := rfl
@[simp] theorem State.setOwner_turns (s : State) (core tile : Nat) (o : BitVec 8) : (s.setOwner core tile o).turns = s.turns := rfl
@[simp] theorem State.setOwner_choice (s : State) (core tile : Nat) (o : BitVec 8) : (s.setOwner core tile o).choice = s.choice := rfl
@[simp] theorem State.setOwner_nid (s : State) (core tile : Nat) (o : BitVec 8) : (s.setOwner core tile o).nid = s.nid := rfl
@[simp] theorem State.setOwner_cycle (s : State) (core tile : Nat) (o : BitVec 8) : (s.setOwner core tile o).cycle = s.cycle := rfl
@[simp] theorem State.setOwner_vfs (s : State) (core tile : Nat) (o : BitVec 8) : (s.setOwner core tile o).vfs = s.vfs := rfl
@[simp] theorem State.setOwner_launches (s : State) (core tile : Nat) (o : BitVec 8) : (s.setOwner core tile o).launches = s.launches := rfl
@[simp] theorem State.setOwner_clasp (s : State) (core tile : Nat) (o : BitVec 8) : (s.setOwner core tile o).clasp = s.clasp := rfl
@[simp] theorem State.setOwner_claspFull (s : State) (core tile : Nat) (o : BitVec 8) : (s.setOwner core tile o).claspFull = s.claspFull := rfl
@[simp] theorem State.setOwner_dmPois (s : State) (core tile : Nat) (o : BitVec 8) : (s.setOwner core tile o).dmPois = s.dmPois := rfl
@[simp] theorem State.setOwner_monitors (s : State) (core tile : Nat) (o : BitVec 8) : (s.setOwner core tile o).monitors = s.monitors := rfl
@[simp] theorem State.setOwner_overflow (s : State) (core tile : Nat) (o : BitVec 8) : (s.setOwner core tile o).overflow = s.overflow := rfl
@[simp] theorem State.setOwner_hbmGen (s : State) (core tile : Nat) (o : BitVec 8) : (s.setOwner core tile o).hbmGen = s.hbmGen := rfl
@[simp] theorem State.setOwner_tai (s : State) (core tile : Nat) (o : BitVec 8) : (s.setOwner core tile o).tai = s.tai := rfl
@[simp] theorem State.setOwner_out (s : State) (core tile : Nat) (o : BitVec 8) : (s.setOwner core tile o).out = s.out := rfl
@[simp] theorem State.setOwner_reqs (s : State) (core tile : Nat) (o : BitVec 8) : (s.setOwner core tile o).reqs = s.reqs := rfl
@[simp] theorem State.setOwner_heldPuts (s : State) (core tile : Nat) (o : BitVec 8) : (s.setOwner core tile o).heldPuts = s.heldPuts := rfl
@[simp] theorem State.setOwner_flight (s : State) (core tile : Nat) (o : BitVec 8) : (s.setOwner core tile o).flight = s.flight := rfl
@[simp] theorem State.setOwner_ports (s : State) (core tile : Nat) (o : BitVec 8) : (s.setOwner core tile o).ports = s.ports := rfl
@[simp] theorem State.setOwner_pages (s : State) (core tile : Nat) (o : BitVec 8) : (s.setOwner core tile o).pages = s.pages := rfl
@[simp] theorem State.setOwner_tickets (s : State) (core tile : Nat) (o : BitVec 8) : (s.setOwner core tile o).tickets = s.tickets := rfl
@[simp] theorem State.setOwner_chans (s : State) (core tile : Nat) (o : BitVec 8) : (s.setOwner core tile o).chans = s.chans := rfl
@[simp] theorem State.setOwner_strips (s : State) (core tile : Nat) (o : BitVec 8) : (s.setOwner core tile o).strips = s.strips := rfl
@[simp] theorem State.setOwner_charms (s : State) (core tile : Nat) (o : BitVec 8) : (s.setOwner core tile o).charms = s.charms := rfl
@[simp] theorem State.setOwner_bars (s : State) (core tile : Nat) (o : BitVec 8) : (s.setOwner core tile o).bars = s.bars := rfl
@[simp] theorem State.setOwner_parcels (s : State) (core tile : Nat) (o : BitVec 8) : (s.setOwner core tile o).parcels = s.parcels := rfl
@[simp] theorem State.setOwner_mailbox (s : State) (core tile : Nat) (o : BitVec 8) : (s.setOwner core tile o).mailbox = s.mailbox := rfl
@[simp] theorem State.setOwner_xfers (s : State) (core tile : Nat) (o : BitVec 8) : (s.setOwner core tile o).xfers = s.xfers := rfl
@[simp] theorem State.setOwner_pod (s : State) (core tile : Nat) (o : BitVec 8) : (s.setOwner core tile o).pod = s.pod := rfl
@[simp] theorem State.setOwner_fab (s : State) (core tile : Nat) (o : BitVec 8) : (s.setOwner core tile o).fab = s.fab := rfl
@[simp] theorem State.setOwner_counters (s : State) (core tile : Nat) (o : BitVec 8) : (s.setOwner core tile o).counters = s.counters := rfl
@[simp] theorem State.setOwner_frames (s : State) (core tile : Nat) (o : BitVec 8) : (s.setOwner core tile o).frames = s.frames := rfl
@[simp] theorem State.setOwner_queues (s : State) (core tile : Nat) (o : BitVec 8) : (s.setOwner core tile o).queues = s.queues := rfl
@[simp] theorem State.setOwner_segs (s : State) (core tile : Nat) (o : BitVec 8) : (s.setOwner core tile o).segs = s.segs := rfl
@[simp] theorem State.setOwner_pmap (s : State) (core tile : Nat) (o : BitVec 8) : (s.setOwner core tile o).pmap = s.pmap := rfl
@[simp] theorem State.setOwner_fw (s : State) (core tile : Nat) (o : BitVec 8) : (s.setOwner core tile o).fw = s.fw := rfl
@[simp] theorem State.setOwner_mail (s : State) (core tile : Nat) (o : BitVec 8) : (s.setOwner core tile o).mail = s.mail := rfl
@[simp] theorem State.setOwner_migs (s : State) (core tile : Nat) (o : BitVec 8) : (s.setOwner core tile o).migs = s.migs := rfl

/-! tally -/

@[simp] theorem State.tally_fg (s : State) (n k : Nat) : (s.tally n k).fg = s.fg := rfl
@[simp] theorem State.tally_col (s : State) (n k : Nat) : (s.tally n k).col = s.col := rfl
@[simp] theorem State.tally_issue (s : State) (n k : Nat) : (s.tally n k).issue = s.issue := rfl
@[simp] theorem State.tally_ctl (s : State) (n k : Nat) : (s.tally n k).ctl = s.ctl := rfl
@[simp] theorem State.tally_bg (s : State) (n k : Nat) : (s.tally n k).bg = s.bg := rfl
@[simp] theorem State.tally_units (s : State) (n k : Nat) : (s.tally n k).units = s.units := rfl
@[simp] theorem State.tally_cores (s : State) (n k : Nat) : (s.tally n k).cores = s.cores := rfl
@[simp] theorem State.tally_mem (s : State) (n k : Nat) : (s.tally n k).mem = s.mem := rfl
@[simp] theorem State.tally_lsOwn (s : State) (n k : Nat) : (s.tally n k).lsOwn = s.lsOwn := rfl
@[simp] theorem State.tally_lsPois (s : State) (n k : Nat) : (s.tally n k).lsPois = s.lsPois := rfl
@[simp] theorem State.tally_agenda (s : State) (n k : Nat) : (s.tally n k).agenda = s.agenda := rfl
@[simp] theorem State.tally_ev (s : State) (n k : Nat) : (s.tally n k).ev = s.ev := rfl
@[simp] theorem State.tally_turns (s : State) (n k : Nat) : (s.tally n k).turns = s.turns := rfl
@[simp] theorem State.tally_choice (s : State) (n k : Nat) : (s.tally n k).choice = s.choice := rfl
@[simp] theorem State.tally_nid (s : State) (n k : Nat) : (s.tally n k).nid = s.nid := rfl
@[simp] theorem State.tally_cycle (s : State) (n k : Nat) : (s.tally n k).cycle = s.cycle := rfl
@[simp] theorem State.tally_vfs (s : State) (n k : Nat) : (s.tally n k).vfs = s.vfs := rfl
@[simp] theorem State.tally_launches (s : State) (n k : Nat) : (s.tally n k).launches = s.launches := rfl
@[simp] theorem State.tally_clasp (s : State) (n k : Nat) : (s.tally n k).clasp = s.clasp := rfl
@[simp] theorem State.tally_claspFull (s : State) (n k : Nat) : (s.tally n k).claspFull = s.claspFull := rfl
@[simp] theorem State.tally_dmPois (s : State) (n k : Nat) : (s.tally n k).dmPois = s.dmPois := rfl
@[simp] theorem State.tally_monitors (s : State) (n k : Nat) : (s.tally n k).monitors = s.monitors := rfl
@[simp] theorem State.tally_overflow (s : State) (n k : Nat) : (s.tally n k).overflow = s.overflow := rfl
@[simp] theorem State.tally_hbmGen (s : State) (n k : Nat) : (s.tally n k).hbmGen = s.hbmGen := rfl
@[simp] theorem State.tally_tai (s : State) (n k : Nat) : (s.tally n k).tai = s.tai := rfl
@[simp] theorem State.tally_out (s : State) (n k : Nat) : (s.tally n k).out = s.out := rfl
@[simp] theorem State.tally_reqs (s : State) (n k : Nat) : (s.tally n k).reqs = s.reqs := rfl
@[simp] theorem State.tally_heldPuts (s : State) (n k : Nat) : (s.tally n k).heldPuts = s.heldPuts := rfl
@[simp] theorem State.tally_flight (s : State) (n k : Nat) : (s.tally n k).flight = s.flight := rfl
@[simp] theorem State.tally_ports (s : State) (n k : Nat) : (s.tally n k).ports = s.ports := rfl
@[simp] theorem State.tally_pages (s : State) (n k : Nat) : (s.tally n k).pages = s.pages := rfl
@[simp] theorem State.tally_tickets (s : State) (n k : Nat) : (s.tally n k).tickets = s.tickets := rfl
@[simp] theorem State.tally_chans (s : State) (n k : Nat) : (s.tally n k).chans = s.chans := rfl
@[simp] theorem State.tally_strips (s : State) (n k : Nat) : (s.tally n k).strips = s.strips := rfl
@[simp] theorem State.tally_charms (s : State) (n k : Nat) : (s.tally n k).charms = s.charms := rfl
@[simp] theorem State.tally_bars (s : State) (n k : Nat) : (s.tally n k).bars = s.bars := rfl
@[simp] theorem State.tally_parcels (s : State) (n k : Nat) : (s.tally n k).parcels = s.parcels := rfl
@[simp] theorem State.tally_mailbox (s : State) (n k : Nat) : (s.tally n k).mailbox = s.mailbox := rfl
@[simp] theorem State.tally_xfers (s : State) (n k : Nat) : (s.tally n k).xfers = s.xfers := rfl
@[simp] theorem State.tally_pod (s : State) (n k : Nat) : (s.tally n k).pod = s.pod := rfl
@[simp] theorem State.tally_fab (s : State) (n k : Nat) : (s.tally n k).fab = s.fab := rfl
@[simp] theorem State.tally_frames (s : State) (n k : Nat) : (s.tally n k).frames = s.frames := rfl
@[simp] theorem State.tally_queues (s : State) (n k : Nat) : (s.tally n k).queues = s.queues := rfl
@[simp] theorem State.tally_segs (s : State) (n k : Nat) : (s.tally n k).segs = s.segs := rfl
@[simp] theorem State.tally_pmap (s : State) (n k : Nat) : (s.tally n k).pmap = s.pmap := rfl
@[simp] theorem State.tally_fw (s : State) (n k : Nat) : (s.tally n k).fw = s.fw := rfl
@[simp] theorem State.tally_mail (s : State) (n k : Nat) : (s.tally n k).mail = s.mail := rfl
@[simp] theorem State.tally_migs (s : State) (n k : Nat) : (s.tally n k).migs = s.migs := rfl

/-! post -/

@[simp] theorem State.post_col (s : State) (lat : Nat) (w : RegWrite) (fl : Lane) : (s.post lat w fl).col = s.col := rfl
@[simp] theorem State.post_issue (s : State) (lat : Nat) (w : RegWrite) (fl : Lane) : (s.post lat w fl).issue = s.issue := rfl
@[simp] theorem State.post_ctl (s : State) (lat : Nat) (w : RegWrite) (fl : Lane) : (s.post lat w fl).ctl = s.ctl := rfl
@[simp] theorem State.post_bg (s : State) (lat : Nat) (w : RegWrite) (fl : Lane) : (s.post lat w fl).bg = s.bg := rfl
@[simp] theorem State.post_units (s : State) (lat : Nat) (w : RegWrite) (fl : Lane) : (s.post lat w fl).units = s.units := rfl
@[simp] theorem State.post_cores (s : State) (lat : Nat) (w : RegWrite) (fl : Lane) : (s.post lat w fl).cores = s.cores := rfl
@[simp] theorem State.post_mem (s : State) (lat : Nat) (w : RegWrite) (fl : Lane) : (s.post lat w fl).mem = s.mem := rfl
@[simp] theorem State.post_lsOwn (s : State) (lat : Nat) (w : RegWrite) (fl : Lane) : (s.post lat w fl).lsOwn = s.lsOwn := rfl
@[simp] theorem State.post_lsPois (s : State) (lat : Nat) (w : RegWrite) (fl : Lane) : (s.post lat w fl).lsPois = s.lsPois := rfl
@[simp] theorem State.post_agenda (s : State) (lat : Nat) (w : RegWrite) (fl : Lane) : (s.post lat w fl).agenda = s.agenda := rfl
@[simp] theorem State.post_ev (s : State) (lat : Nat) (w : RegWrite) (fl : Lane) : (s.post lat w fl).ev = s.ev := rfl
@[simp] theorem State.post_turns (s : State) (lat : Nat) (w : RegWrite) (fl : Lane) : (s.post lat w fl).turns = s.turns := rfl
@[simp] theorem State.post_choice (s : State) (lat : Nat) (w : RegWrite) (fl : Lane) : (s.post lat w fl).choice = s.choice := rfl
@[simp] theorem State.post_nid (s : State) (lat : Nat) (w : RegWrite) (fl : Lane) : (s.post lat w fl).nid = s.nid := rfl
@[simp] theorem State.post_cycle (s : State) (lat : Nat) (w : RegWrite) (fl : Lane) : (s.post lat w fl).cycle = s.cycle := rfl
@[simp] theorem State.post_vfs (s : State) (lat : Nat) (w : RegWrite) (fl : Lane) : (s.post lat w fl).vfs = s.vfs := rfl
@[simp] theorem State.post_launches (s : State) (lat : Nat) (w : RegWrite) (fl : Lane) : (s.post lat w fl).launches = s.launches := rfl
@[simp] theorem State.post_clasp (s : State) (lat : Nat) (w : RegWrite) (fl : Lane) : (s.post lat w fl).clasp = s.clasp := rfl
@[simp] theorem State.post_claspFull (s : State) (lat : Nat) (w : RegWrite) (fl : Lane) : (s.post lat w fl).claspFull = s.claspFull := rfl
@[simp] theorem State.post_dmPois (s : State) (lat : Nat) (w : RegWrite) (fl : Lane) : (s.post lat w fl).dmPois = s.dmPois := rfl
@[simp] theorem State.post_monitors (s : State) (lat : Nat) (w : RegWrite) (fl : Lane) : (s.post lat w fl).monitors = s.monitors := rfl
@[simp] theorem State.post_overflow (s : State) (lat : Nat) (w : RegWrite) (fl : Lane) : (s.post lat w fl).overflow = s.overflow := rfl
@[simp] theorem State.post_hbmGen (s : State) (lat : Nat) (w : RegWrite) (fl : Lane) : (s.post lat w fl).hbmGen = s.hbmGen := rfl
@[simp] theorem State.post_tai (s : State) (lat : Nat) (w : RegWrite) (fl : Lane) : (s.post lat w fl).tai = s.tai := rfl
@[simp] theorem State.post_out (s : State) (lat : Nat) (w : RegWrite) (fl : Lane) : (s.post lat w fl).out = s.out := rfl
@[simp] theorem State.post_reqs (s : State) (lat : Nat) (w : RegWrite) (fl : Lane) : (s.post lat w fl).reqs = s.reqs := rfl
@[simp] theorem State.post_heldPuts (s : State) (lat : Nat) (w : RegWrite) (fl : Lane) : (s.post lat w fl).heldPuts = s.heldPuts := rfl
@[simp] theorem State.post_flight (s : State) (lat : Nat) (w : RegWrite) (fl : Lane) : (s.post lat w fl).flight = s.flight := rfl
@[simp] theorem State.post_ports (s : State) (lat : Nat) (w : RegWrite) (fl : Lane) : (s.post lat w fl).ports = s.ports := rfl
@[simp] theorem State.post_pages (s : State) (lat : Nat) (w : RegWrite) (fl : Lane) : (s.post lat w fl).pages = s.pages := rfl
@[simp] theorem State.post_tickets (s : State) (lat : Nat) (w : RegWrite) (fl : Lane) : (s.post lat w fl).tickets = s.tickets := rfl
@[simp] theorem State.post_chans (s : State) (lat : Nat) (w : RegWrite) (fl : Lane) : (s.post lat w fl).chans = s.chans := rfl
@[simp] theorem State.post_strips (s : State) (lat : Nat) (w : RegWrite) (fl : Lane) : (s.post lat w fl).strips = s.strips := rfl
@[simp] theorem State.post_charms (s : State) (lat : Nat) (w : RegWrite) (fl : Lane) : (s.post lat w fl).charms = s.charms := rfl
@[simp] theorem State.post_bars (s : State) (lat : Nat) (w : RegWrite) (fl : Lane) : (s.post lat w fl).bars = s.bars := rfl
@[simp] theorem State.post_parcels (s : State) (lat : Nat) (w : RegWrite) (fl : Lane) : (s.post lat w fl).parcels = s.parcels := rfl
@[simp] theorem State.post_mailbox (s : State) (lat : Nat) (w : RegWrite) (fl : Lane) : (s.post lat w fl).mailbox = s.mailbox := rfl
@[simp] theorem State.post_xfers (s : State) (lat : Nat) (w : RegWrite) (fl : Lane) : (s.post lat w fl).xfers = s.xfers := rfl
@[simp] theorem State.post_pod (s : State) (lat : Nat) (w : RegWrite) (fl : Lane) : (s.post lat w fl).pod = s.pod := rfl
@[simp] theorem State.post_fab (s : State) (lat : Nat) (w : RegWrite) (fl : Lane) : (s.post lat w fl).fab = s.fab := rfl
@[simp] theorem State.post_counters (s : State) (lat : Nat) (w : RegWrite) (fl : Lane) : (s.post lat w fl).counters = s.counters := rfl
@[simp] theorem State.post_frames (s : State) (lat : Nat) (w : RegWrite) (fl : Lane) : (s.post lat w fl).frames = s.frames := rfl
@[simp] theorem State.post_queues (s : State) (lat : Nat) (w : RegWrite) (fl : Lane) : (s.post lat w fl).queues = s.queues := rfl
@[simp] theorem State.post_segs (s : State) (lat : Nat) (w : RegWrite) (fl : Lane) : (s.post lat w fl).segs = s.segs := rfl
@[simp] theorem State.post_pmap (s : State) (lat : Nat) (w : RegWrite) (fl : Lane) : (s.post lat w fl).pmap = s.pmap := rfl
@[simp] theorem State.post_fw (s : State) (lat : Nat) (w : RegWrite) (fl : Lane) : (s.post lat w fl).fw = s.fw := rfl
@[simp] theorem State.post_mail (s : State) (lat : Nat) (w : RegWrite) (fl : Lane) : (s.post lat w fl).mail = s.mail := rfl
@[simp] theorem State.post_migs (s : State) (lat : Nat) (w : RegWrite) (fl : Lane) : (s.post lat w fl).migs = s.migs := rfl

/-! setBank -/

@[simp] theorem State.setBank_col (s : State) (b : ColBank) : (s.setBank b).col = s.col := rfl
@[simp] theorem State.setBank_issue (s : State) (b : ColBank) : (s.setBank b).issue = s.issue := rfl
@[simp] theorem State.setBank_ctl (s : State) (b : ColBank) : (s.setBank b).ctl = s.ctl := rfl
@[simp] theorem State.setBank_bg (s : State) (b : ColBank) : (s.setBank b).bg = s.bg := rfl
@[simp] theorem State.setBank_units (s : State) (b : ColBank) : (s.setBank b).units = s.units := rfl
@[simp] theorem State.setBank_cores (s : State) (b : ColBank) : (s.setBank b).cores = s.cores := rfl
@[simp] theorem State.setBank_mem (s : State) (b : ColBank) : (s.setBank b).mem = s.mem := rfl
@[simp] theorem State.setBank_lsOwn (s : State) (b : ColBank) : (s.setBank b).lsOwn = s.lsOwn := rfl
@[simp] theorem State.setBank_lsPois (s : State) (b : ColBank) : (s.setBank b).lsPois = s.lsPois := rfl
@[simp] theorem State.setBank_agenda (s : State) (b : ColBank) : (s.setBank b).agenda = s.agenda := rfl
@[simp] theorem State.setBank_ev (s : State) (b : ColBank) : (s.setBank b).ev = s.ev := rfl
@[simp] theorem State.setBank_turns (s : State) (b : ColBank) : (s.setBank b).turns = s.turns := rfl
@[simp] theorem State.setBank_choice (s : State) (b : ColBank) : (s.setBank b).choice = s.choice := rfl
@[simp] theorem State.setBank_nid (s : State) (b : ColBank) : (s.setBank b).nid = s.nid := rfl
@[simp] theorem State.setBank_cycle (s : State) (b : ColBank) : (s.setBank b).cycle = s.cycle := rfl
@[simp] theorem State.setBank_vfs (s : State) (b : ColBank) : (s.setBank b).vfs = s.vfs := rfl
@[simp] theorem State.setBank_launches (s : State) (b : ColBank) : (s.setBank b).launches = s.launches := rfl
@[simp] theorem State.setBank_clasp (s : State) (b : ColBank) : (s.setBank b).clasp = s.clasp := rfl
@[simp] theorem State.setBank_claspFull (s : State) (b : ColBank) : (s.setBank b).claspFull = s.claspFull := rfl
@[simp] theorem State.setBank_dmPois (s : State) (b : ColBank) : (s.setBank b).dmPois = s.dmPois := rfl
@[simp] theorem State.setBank_monitors (s : State) (b : ColBank) : (s.setBank b).monitors = s.monitors := rfl
@[simp] theorem State.setBank_overflow (s : State) (b : ColBank) : (s.setBank b).overflow = s.overflow := rfl
@[simp] theorem State.setBank_hbmGen (s : State) (b : ColBank) : (s.setBank b).hbmGen = s.hbmGen := rfl
@[simp] theorem State.setBank_tai (s : State) (b : ColBank) : (s.setBank b).tai = s.tai := rfl
@[simp] theorem State.setBank_out (s : State) (b : ColBank) : (s.setBank b).out = s.out := rfl
@[simp] theorem State.setBank_reqs (s : State) (b : ColBank) : (s.setBank b).reqs = s.reqs := rfl
@[simp] theorem State.setBank_heldPuts (s : State) (b : ColBank) : (s.setBank b).heldPuts = s.heldPuts := rfl
@[simp] theorem State.setBank_flight (s : State) (b : ColBank) : (s.setBank b).flight = s.flight := rfl
@[simp] theorem State.setBank_ports (s : State) (b : ColBank) : (s.setBank b).ports = s.ports := rfl
@[simp] theorem State.setBank_pages (s : State) (b : ColBank) : (s.setBank b).pages = s.pages := rfl
@[simp] theorem State.setBank_tickets (s : State) (b : ColBank) : (s.setBank b).tickets = s.tickets := rfl
@[simp] theorem State.setBank_chans (s : State) (b : ColBank) : (s.setBank b).chans = s.chans := rfl
@[simp] theorem State.setBank_strips (s : State) (b : ColBank) : (s.setBank b).strips = s.strips := rfl
@[simp] theorem State.setBank_charms (s : State) (b : ColBank) : (s.setBank b).charms = s.charms := rfl
@[simp] theorem State.setBank_bars (s : State) (b : ColBank) : (s.setBank b).bars = s.bars := rfl
@[simp] theorem State.setBank_parcels (s : State) (b : ColBank) : (s.setBank b).parcels = s.parcels := rfl
@[simp] theorem State.setBank_mailbox (s : State) (b : ColBank) : (s.setBank b).mailbox = s.mailbox := rfl
@[simp] theorem State.setBank_xfers (s : State) (b : ColBank) : (s.setBank b).xfers = s.xfers := rfl
@[simp] theorem State.setBank_pod (s : State) (b : ColBank) : (s.setBank b).pod = s.pod := rfl
@[simp] theorem State.setBank_fab (s : State) (b : ColBank) : (s.setBank b).fab = s.fab := rfl
@[simp] theorem State.setBank_counters (s : State) (b : ColBank) : (s.setBank b).counters = s.counters := rfl
@[simp] theorem State.setBank_frames (s : State) (b : ColBank) : (s.setBank b).frames = s.frames := rfl
@[simp] theorem State.setBank_queues (s : State) (b : ColBank) : (s.setBank b).queues = s.queues := rfl
@[simp] theorem State.setBank_segs (s : State) (b : ColBank) : (s.setBank b).segs = s.segs := rfl
@[simp] theorem State.setBank_pmap (s : State) (b : ColBank) : (s.setBank b).pmap = s.pmap := rfl
@[simp] theorem State.setBank_fw (s : State) (b : ColBank) : (s.setBank b).fw = s.fw := rfl
@[simp] theorem State.setBank_mail (s : State) (b : ColBank) : (s.setBank b).mail = s.mail := rfl
@[simp] theorem State.setBank_migs (s : State) (b : ColBank) : (s.setBank b).migs = s.migs := rfl

/-! landing -/

@[simp] theorem State.landing_col (s : State) (id reg off : Nat) : (s.landing id reg off).col = s.col := rfl
@[simp] theorem State.landing_issue (s : State) (id reg off : Nat) : (s.landing id reg off).issue = s.issue := rfl
@[simp] theorem State.landing_ctl (s : State) (id reg off : Nat) : (s.landing id reg off).ctl = s.ctl := rfl
@[simp] theorem State.landing_bg (s : State) (id reg off : Nat) : (s.landing id reg off).bg = s.bg := rfl
@[simp] theorem State.landing_units (s : State) (id reg off : Nat) : (s.landing id reg off).units = s.units := rfl
@[simp] theorem State.landing_cores (s : State) (id reg off : Nat) : (s.landing id reg off).cores = s.cores := rfl
@[simp] theorem State.landing_mem (s : State) (id reg off : Nat) : (s.landing id reg off).mem = s.mem := rfl
@[simp] theorem State.landing_lsOwn (s : State) (id reg off : Nat) : (s.landing id reg off).lsOwn = s.lsOwn := rfl
@[simp] theorem State.landing_lsPois (s : State) (id reg off : Nat) : (s.landing id reg off).lsPois = s.lsPois := rfl
@[simp] theorem State.landing_agenda (s : State) (id reg off : Nat) : (s.landing id reg off).agenda = s.agenda := rfl
@[simp] theorem State.landing_ev (s : State) (id reg off : Nat) : (s.landing id reg off).ev = s.ev := rfl
@[simp] theorem State.landing_turns (s : State) (id reg off : Nat) : (s.landing id reg off).turns = s.turns := rfl
@[simp] theorem State.landing_choice (s : State) (id reg off : Nat) : (s.landing id reg off).choice = s.choice := rfl
@[simp] theorem State.landing_nid (s : State) (id reg off : Nat) : (s.landing id reg off).nid = s.nid := rfl
@[simp] theorem State.landing_cycle (s : State) (id reg off : Nat) : (s.landing id reg off).cycle = s.cycle := rfl
@[simp] theorem State.landing_vfs (s : State) (id reg off : Nat) : (s.landing id reg off).vfs = s.vfs := rfl
@[simp] theorem State.landing_launches (s : State) (id reg off : Nat) : (s.landing id reg off).launches = s.launches := rfl
@[simp] theorem State.landing_clasp (s : State) (id reg off : Nat) : (s.landing id reg off).clasp = s.clasp := rfl
@[simp] theorem State.landing_claspFull (s : State) (id reg off : Nat) : (s.landing id reg off).claspFull = s.claspFull := rfl
@[simp] theorem State.landing_dmPois (s : State) (id reg off : Nat) : (s.landing id reg off).dmPois = s.dmPois := rfl
@[simp] theorem State.landing_monitors (s : State) (id reg off : Nat) : (s.landing id reg off).monitors = s.monitors := rfl
@[simp] theorem State.landing_overflow (s : State) (id reg off : Nat) : (s.landing id reg off).overflow = s.overflow := rfl
@[simp] theorem State.landing_hbmGen (s : State) (id reg off : Nat) : (s.landing id reg off).hbmGen = s.hbmGen := rfl
@[simp] theorem State.landing_tai (s : State) (id reg off : Nat) : (s.landing id reg off).tai = s.tai := rfl
@[simp] theorem State.landing_out (s : State) (id reg off : Nat) : (s.landing id reg off).out = s.out := rfl
@[simp] theorem State.landing_reqs (s : State) (id reg off : Nat) : (s.landing id reg off).reqs = s.reqs := rfl
@[simp] theorem State.landing_heldPuts (s : State) (id reg off : Nat) : (s.landing id reg off).heldPuts = s.heldPuts := rfl
@[simp] theorem State.landing_flight (s : State) (id reg off : Nat) : (s.landing id reg off).flight = s.flight := rfl
@[simp] theorem State.landing_ports (s : State) (id reg off : Nat) : (s.landing id reg off).ports = s.ports := rfl
@[simp] theorem State.landing_pages (s : State) (id reg off : Nat) : (s.landing id reg off).pages = s.pages := rfl
@[simp] theorem State.landing_tickets (s : State) (id reg off : Nat) : (s.landing id reg off).tickets = s.tickets := rfl
@[simp] theorem State.landing_chans (s : State) (id reg off : Nat) : (s.landing id reg off).chans = s.chans := rfl
@[simp] theorem State.landing_strips (s : State) (id reg off : Nat) : (s.landing id reg off).strips = s.strips := rfl
@[simp] theorem State.landing_charms (s : State) (id reg off : Nat) : (s.landing id reg off).charms = s.charms := rfl
@[simp] theorem State.landing_bars (s : State) (id reg off : Nat) : (s.landing id reg off).bars = s.bars := rfl
@[simp] theorem State.landing_parcels (s : State) (id reg off : Nat) : (s.landing id reg off).parcels = s.parcels := rfl
@[simp] theorem State.landing_mailbox (s : State) (id reg off : Nat) : (s.landing id reg off).mailbox = s.mailbox := rfl
@[simp] theorem State.landing_xfers (s : State) (id reg off : Nat) : (s.landing id reg off).xfers = s.xfers := rfl
@[simp] theorem State.landing_pod (s : State) (id reg off : Nat) : (s.landing id reg off).pod = s.pod := rfl
@[simp] theorem State.landing_fab (s : State) (id reg off : Nat) : (s.landing id reg off).fab = s.fab := rfl
@[simp] theorem State.landing_counters (s : State) (id reg off : Nat) : (s.landing id reg off).counters = s.counters := rfl
@[simp] theorem State.landing_frames (s : State) (id reg off : Nat) : (s.landing id reg off).frames = s.frames := rfl
@[simp] theorem State.landing_queues (s : State) (id reg off : Nat) : (s.landing id reg off).queues = s.queues := rfl
@[simp] theorem State.landing_segs (s : State) (id reg off : Nat) : (s.landing id reg off).segs = s.segs := rfl
@[simp] theorem State.landing_pmap (s : State) (id reg off : Nat) : (s.landing id reg off).pmap = s.pmap := rfl
@[simp] theorem State.landing_fw (s : State) (id reg off : Nat) : (s.landing id reg off).fw = s.fw := rfl
@[simp] theorem State.landing_mail (s : State) (id reg off : Nat) : (s.landing id reg off).mail = s.mail := rfl
@[simp] theorem State.landing_migs (s : State) (id reg off : Nat) : (s.landing id reg off).migs = s.migs := rfl

/-! soon -/

@[simp] theorem State.soon_fg (s : State) (e : Event) : (s.soon e).fg = s.fg := by unfold State.soon; split <;> rfl
@[simp] theorem State.soon_col (s : State) (e : Event) : (s.soon e).col = s.col := by unfold State.soon; split <;> rfl
@[simp] theorem State.soon_issue (s : State) (e : Event) : (s.soon e).issue = s.issue := by unfold State.soon; split <;> rfl
@[simp] theorem State.soon_ctl (s : State) (e : Event) : (s.soon e).ctl = s.ctl := by unfold State.soon; split <;> rfl
@[simp] theorem State.soon_bg (s : State) (e : Event) : (s.soon e).bg = s.bg := by unfold State.soon; split <;> rfl
@[simp] theorem State.soon_units (s : State) (e : Event) : (s.soon e).units = s.units := by unfold State.soon; split <;> rfl
@[simp] theorem State.soon_cores (s : State) (e : Event) : (s.soon e).cores = s.cores := by unfold State.soon; split <;> rfl
@[simp] theorem State.soon_mem (s : State) (e : Event) : (s.soon e).mem = s.mem := by unfold State.soon; split <;> rfl
@[simp] theorem State.soon_lsOwn (s : State) (e : Event) : (s.soon e).lsOwn = s.lsOwn := by unfold State.soon; split <;> rfl
@[simp] theorem State.soon_lsPois (s : State) (e : Event) : (s.soon e).lsPois = s.lsPois := by unfold State.soon; split <;> rfl
@[simp] theorem State.soon_ev (s : State) (e : Event) : (s.soon e).ev = s.ev := by unfold State.soon; split <;> rfl
@[simp] theorem State.soon_turns (s : State) (e : Event) : (s.soon e).turns = s.turns := by unfold State.soon; split <;> rfl
@[simp] theorem State.soon_choice (s : State) (e : Event) : (s.soon e).choice = s.choice := by unfold State.soon; split <;> rfl
@[simp] theorem State.soon_nid (s : State) (e : Event) : (s.soon e).nid = s.nid := by unfold State.soon; split <;> rfl
@[simp] theorem State.soon_cycle (s : State) (e : Event) : (s.soon e).cycle = s.cycle := by unfold State.soon; split <;> rfl
@[simp] theorem State.soon_vfs (s : State) (e : Event) : (s.soon e).vfs = s.vfs := by unfold State.soon; split <;> rfl
@[simp] theorem State.soon_launches (s : State) (e : Event) : (s.soon e).launches = s.launches := by unfold State.soon; split <;> rfl
@[simp] theorem State.soon_clasp (s : State) (e : Event) : (s.soon e).clasp = s.clasp := by unfold State.soon; split <;> rfl
@[simp] theorem State.soon_claspFull (s : State) (e : Event) : (s.soon e).claspFull = s.claspFull := by unfold State.soon; split <;> rfl
@[simp] theorem State.soon_dmPois (s : State) (e : Event) : (s.soon e).dmPois = s.dmPois := by unfold State.soon; split <;> rfl
@[simp] theorem State.soon_monitors (s : State) (e : Event) : (s.soon e).monitors = s.monitors := by unfold State.soon; split <;> rfl
@[simp] theorem State.soon_overflow (s : State) (e : Event) : (s.soon e).overflow = s.overflow := by unfold State.soon; split <;> rfl
@[simp] theorem State.soon_hbmGen (s : State) (e : Event) : (s.soon e).hbmGen = s.hbmGen := by unfold State.soon; split <;> rfl
@[simp] theorem State.soon_tai (s : State) (e : Event) : (s.soon e).tai = s.tai := by unfold State.soon; split <;> rfl
@[simp] theorem State.soon_out (s : State) (e : Event) : (s.soon e).out = s.out := by unfold State.soon; split <;> rfl
@[simp] theorem State.soon_reqs (s : State) (e : Event) : (s.soon e).reqs = s.reqs := by unfold State.soon; split <;> rfl
@[simp] theorem State.soon_heldPuts (s : State) (e : Event) : (s.soon e).heldPuts = s.heldPuts := by unfold State.soon; split <;> rfl
@[simp] theorem State.soon_flight (s : State) (e : Event) : (s.soon e).flight = s.flight := by unfold State.soon; split <;> rfl
@[simp] theorem State.soon_ports (s : State) (e : Event) : (s.soon e).ports = s.ports := by unfold State.soon; split <;> rfl
@[simp] theorem State.soon_pages (s : State) (e : Event) : (s.soon e).pages = s.pages := by unfold State.soon; split <;> rfl
@[simp] theorem State.soon_tickets (s : State) (e : Event) : (s.soon e).tickets = s.tickets := by unfold State.soon; split <;> rfl
@[simp] theorem State.soon_chans (s : State) (e : Event) : (s.soon e).chans = s.chans := by unfold State.soon; split <;> rfl
@[simp] theorem State.soon_strips (s : State) (e : Event) : (s.soon e).strips = s.strips := by unfold State.soon; split <;> rfl
@[simp] theorem State.soon_charms (s : State) (e : Event) : (s.soon e).charms = s.charms := by unfold State.soon; split <;> rfl
@[simp] theorem State.soon_bars (s : State) (e : Event) : (s.soon e).bars = s.bars := by unfold State.soon; split <;> rfl
@[simp] theorem State.soon_parcels (s : State) (e : Event) : (s.soon e).parcels = s.parcels := by unfold State.soon; split <;> rfl
@[simp] theorem State.soon_mailbox (s : State) (e : Event) : (s.soon e).mailbox = s.mailbox := by unfold State.soon; split <;> rfl
@[simp] theorem State.soon_xfers (s : State) (e : Event) : (s.soon e).xfers = s.xfers := by unfold State.soon; split <;> rfl
@[simp] theorem State.soon_pod (s : State) (e : Event) : (s.soon e).pod = s.pod := by unfold State.soon; split <;> rfl
@[simp] theorem State.soon_fab (s : State) (e : Event) : (s.soon e).fab = s.fab := by unfold State.soon; split <;> rfl
@[simp] theorem State.soon_counters (s : State) (e : Event) : (s.soon e).counters = s.counters := by unfold State.soon; split <;> rfl
@[simp] theorem State.soon_frames (s : State) (e : Event) : (s.soon e).frames = s.frames := by unfold State.soon; split <;> rfl
@[simp] theorem State.soon_queues (s : State) (e : Event) : (s.soon e).queues = s.queues := by unfold State.soon; split <;> rfl
@[simp] theorem State.soon_segs (s : State) (e : Event) : (s.soon e).segs = s.segs := by unfold State.soon; split <;> rfl
@[simp] theorem State.soon_pmap (s : State) (e : Event) : (s.soon e).pmap = s.pmap := by unfold State.soon; split <;> rfl
@[simp] theorem State.soon_fw (s : State) (e : Event) : (s.soon e).fw = s.fw := by unfold State.soon; split <;> rfl
@[simp] theorem State.soon_mail (s : State) (e : Event) : (s.soon e).mail = s.mail := by unfold State.soon; split <;> rfl
@[simp] theorem State.soon_migs (s : State) (e : Event) : (s.soon e).migs = s.migs := by unfold State.soon; split <;> rfl

/-! The task whose word runs: what a posted write and a replaced bank leave alone. -/

@[simp] theorem State.post_fg_key (s : State) (lat : Nat) (w : RegWrite) (fl : Lane) : (s.post lat w fl).fg.key = s.fg.key := rfl
@[simp] theorem State.post_fg_vf (s : State) (lat : Nat) (w : RegWrite) (fl : Lane) : (s.post lat w fl).fg.vf = s.fg.vf := rfl
@[simp] theorem State.post_fg_die (s : State) (lat : Nat) (w : RegWrite) (fl : Lane) : (s.post lat w fl).fg.die = s.fg.die := rfl
@[simp] theorem State.post_fg_launch (s : State) (lat : Nat) (w : RegWrite) (fl : Lane) : (s.post lat w fl).fg.launch = s.fg.launch := rfl
@[simp] theorem State.post_fg_idx (s : State) (lat : Nat) (w : RegWrite) (fl : Lane) : (s.post lat w fl).fg.idx = s.fg.idx := rfl
@[simp] theorem State.post_fg_coord (s : State) (lat : Nat) (w : RegWrite) (fl : Lane) : (s.post lat w fl).fg.coord = s.fg.coord := rfl
@[simp] theorem State.post_fg_priv (s : State) (lat : Nat) (w : RegWrite) (fl : Lane) : (s.post lat w fl).fg.priv = s.fg.priv := rfl
@[simp] theorem State.post_fg_width (s : State) (lat : Nat) (w : RegWrite) (fl : Lane) : (s.post lat w fl).fg.width = s.fg.width := rfl
@[simp] theorem State.post_fg_unit (s : State) (lat : Nat) (w : RegWrite) (fl : Lane) : (s.post lat w fl).fg.unit = s.fg.unit := rfl
@[simp] theorem State.post_fg_half (s : State) (lat : Nat) (w : RegWrite) (fl : Lane) : (s.post lat w fl).fg.half = s.fg.half := rfl
@[simp] theorem State.post_fg_tbank (s : State) (lat : Nat) (w : RegWrite) (fl : Lane) : (s.post lat w fl).fg.tbank = s.fg.tbank := rfl
@[simp] theorem State.post_fg_state (s : State) (lat : Nat) (w : RegWrite) (fl : Lane) : (s.post lat w fl).fg.state = s.fg.state := rfl
@[simp] theorem State.post_fg_banks (s : State) (lat : Nat) (w : RegWrite) (fl : Lane) : (s.post lat w fl).fg.banks = s.fg.banks := rfl
@[simp] theorem State.post_fg_pc (s : State) (lat : Nat) (w : RegWrite) (fl : Lane) : (s.post lat w fl).fg.pc = s.fg.pc := rfl
@[simp] theorem State.post_fg_follower (s : State) (lat : Nat) (w : RegWrite) (fl : Lane) : (s.post lat w fl).fg.follower = s.fg.follower := rfl
@[simp] theorem State.post_fg_dist (s : State) (lat : Nat) (w : RegWrite) (fl : Lane) : (s.post lat w fl).fg.dist = s.fg.dist := rfl
@[simp] theorem State.post_fg_idle (s : State) (lat : Nat) (w : RegWrite) (fl : Lane) : (s.post lat w fl).fg.idle = s.fg.idle := rfl
@[simp] theorem State.post_fg_land (s : State) (lat : Nat) (w : RegWrite) (fl : Lane) : (s.post lat w fl).fg.land = s.fg.land := rfl
@[simp] theorem State.post_fg_work (s : State) (lat : Nat) (w : RegWrite) (fl : Lane) : (s.post lat w fl).fg.work = s.fg.work := rfl
@[simp] theorem State.post_fg_snap (s : State) (lat : Nat) (w : RegWrite) (fl : Lane) : (s.post lat w fl).fg.snap = s.fg.snap := rfl
@[simp] theorem State.post_fg_deferred (s : State) (lat : Nat) (w : RegWrite) (fl : Lane) : (s.post lat w fl).fg.deferred = s.fg.deferred := rfl
@[simp] theorem State.post_fg_held (s : State) (lat : Nat) (w : RegWrite) (fl : Lane) : (s.post lat w fl).fg.held = s.fg.held := rfl
@[simp] theorem State.post_fg_results (s : State) (lat : Nat) (w : RegWrite) (fl : Lane) : (s.post lat w fl).fg.results = s.fg.results := rfl
@[simp] theorem State.post_fg_accs (s : State) (lat : Nat) (w : RegWrite) (fl : Lane) : (s.post lat w fl).fg.accs = s.fg.accs := rfl
@[simp] theorem State.post_fg_fences (s : State) (lat : Nat) (w : RegWrite) (fl : Lane) : (s.post lat w fl).fg.fences = s.fg.fences := rfl
@[simp] theorem State.post_fg_sleep (s : State) (lat : Nat) (w : RegWrite) (fl : Lane) : (s.post lat w fl).fg.sleep = s.fg.sleep := rfl
@[simp] theorem State.post_fg_recv (s : State) (lat : Nat) (w : RegWrite) (fl : Lane) : (s.post lat w fl).fg.recv = s.fg.recv := rfl
@[simp] theorem State.post_fg_first (s : State) (lat : Nat) (w : RegWrite) (fl : Lane) : (s.post lat w fl).fg.first = s.fg.first := rfl
@[simp] theorem State.post_fg_stop (s : State) (lat : Nat) (w : RegWrite) (fl : Lane) : (s.post lat w fl).fg.stop = s.fg.stop := rfl
@[simp] theorem State.post_fg_pages (s : State) (lat : Nat) (w : RegWrite) (fl : Lane) : (s.post lat w fl).fg.pages = s.fg.pages := rfl
@[simp] theorem State.post_fg_resumeAt (s : State) (lat : Nat) (w : RegWrite) (fl : Lane) : (s.post lat w fl).fg.resumeAt = s.fg.resumeAt := rfl
@[simp] theorem State.post_fg_mrep (s : State) (lat : Nat) (w : RegWrite) (fl : Lane) : (s.post lat w fl).fg.mrep = s.fg.mrep := rfl
@[simp] theorem State.post_fg_chk (s : State) (lat : Nat) (w : RegWrite) (fl : Lane) : (s.post lat w fl).fg.chk = s.fg.chk := rfl
@[simp] theorem State.post_fg_arith (s : State) (lat : Nat) (w : RegWrite) (fl : Lane) : (s.post lat w fl).fg.arith = s.fg.arith := rfl
@[simp] theorem State.post_fg_lsCtl (s : State) (lat : Nat) (w : RegWrite) (fl : Lane) : (s.post lat w fl).fg.lsCtl = s.fg.lsCtl := rfl
@[simp] theorem State.post_fg_lsOob (s : State) (lat : Nat) (w : RegWrite) (fl : Lane) : (s.post lat w fl).fg.lsOob = s.fg.lsOob := rfl
@[simp] theorem State.post_fg_lsBase (s : State) (lat : Nat) (w : RegWrite) (fl : Lane) : (s.post lat w fl).fg.lsBase = s.fg.lsBase := rfl
@[simp] theorem State.post_fg_lsSize (s : State) (lat : Nat) (w : RegWrite) (fl : Lane) : (s.post lat w fl).fg.lsSize = s.fg.lsSize := rfl
@[simp] theorem State.post_fg_dmSize (s : State) (lat : Nat) (w : RegWrite) (fl : Lane) : (s.post lat w fl).fg.dmSize = s.fg.dmSize := rfl
@[simp] theorem State.post_fg_trapCause (s : State) (lat : Nat) (w : RegWrite) (fl : Lane) : (s.post lat w fl).fg.trapCause = s.fg.trapCause := rfl
@[simp] theorem State.post_fg_trapArg (s : State) (lat : Nat) (w : RegWrite) (fl : Lane) : (s.post lat w fl).fg.trapArg = s.fg.trapArg := rfl
@[simp] theorem State.post_fg_pclFault (s : State) (lat : Nat) (w : RegWrite) (fl : Lane) : (s.post lat w fl).fg.pclFault = s.fg.pclFault := rfl
@[simp] theorem State.post_fg_waitStat (s : State) (lat : Nat) (w : RegWrite) (fl : Lane) : (s.post lat w fl).fg.waitStat = s.fg.waitStat := rfl
@[simp] theorem State.post_fg_taskId (s : State) (lat : Nat) (w : RegWrite) (fl : Lane) : (s.post lat w fl).fg.taskId = s.fg.taskId := rfl
@[simp] theorem State.post_fg_claspRec (s : State) (lat : Nat) (w : RegWrite) (fl : Lane) : (s.post lat w fl).fg.claspRec = s.fg.claspRec := rfl
@[simp] theorem State.post_fg_comm (s : State) (lat : Nat) (w : RegWrite) (fl : Lane) : (s.post lat w fl).fg.comm = s.fg.comm := rfl
@[simp] theorem State.post_fg_demoted (s : State) (lat : Nat) (w : RegWrite) (fl : Lane) : (s.post lat w fl).fg.demoted = s.fg.demoted := rfl
@[simp] theorem State.post_fg_expired (s : State) (lat : Nat) (w : RegWrite) (fl : Lane) : (s.post lat w fl).fg.expired = s.fg.expired := rfl
@[simp] theorem State.post_fg_restored (s : State) (lat : Nat) (w : RegWrite) (fl : Lane) : (s.post lat w fl).fg.restored = s.fg.restored := rfl
@[simp] theorem State.post_fg_cls (s : State) (lat : Nat) (w : RegWrite) (fl : Lane) : (s.post lat w fl).fg.cls = s.fg.cls := rfl
@[simp] theorem State.post_fg_inherit (s : State) (lat : Nat) (w : RegWrite) (fl : Lane) : (s.post lat w fl).fg.inherit = s.fg.inherit := rfl
@[simp] theorem State.post_fg_raises (s : State) (lat : Nat) (w : RegWrite) (fl : Lane) : (s.post lat w fl).fg.raises = s.fg.raises := rfl
@[simp] theorem State.post_fg_ready (s : State) (lat : Nat) (w : RegWrite) (fl : Lane) : (s.post lat w fl).fg.ready = s.fg.ready := rfl
@[simp] theorem State.post_fg_used (s : State) (lat : Nat) (w : RegWrite) (fl : Lane) : (s.post lat w fl).fg.used = s.fg.used := rfl
@[simp] theorem State.post_fg_wrapLeft (s : State) (lat : Nat) (w : RegWrite) (fl : Lane) : (s.post lat w fl).fg.wrapLeft = s.fg.wrapLeft := rfl
@[simp] theorem State.post_fg_evict (s : State) (lat : Nat) (w : RegWrite) (fl : Lane) : (s.post lat w fl).fg.evict = s.fg.evict := rfl
@[simp] theorem State.post_fg_evictFor (s : State) (lat : Nat) (w : RegWrite) (fl : Lane) : (s.post lat w fl).fg.evictFor = s.fg.evictFor := rfl
@[simp] theorem State.post_fg_safeNow (s : State) (lat : Nat) (w : RegWrite) (fl : Lane) : (s.post lat w fl).fg.safeNow = s.fg.safeNow := rfl
@[simp] theorem State.post_fg_divert (s : State) (lat : Nat) (w : RegWrite) (fl : Lane) : (s.post lat w fl).fg.divert = s.fg.divert := rfl
@[simp] theorem State.post_fg_divDue (s : State) (lat : Nat) (w : RegWrite) (fl : Lane) : (s.post lat w fl).fg.divDue = s.fg.divDue := rfl
@[simp] theorem State.post_fg_exiting (s : State) (lat : Nat) (w : RegWrite) (fl : Lane) : (s.post lat w fl).fg.exiting = s.fg.exiting := rfl
@[simp] theorem State.post_fg_hasLs (s : State) (lat : Nat) (w : RegWrite) (fl : Lane) : (s.post lat w fl).fg.hasLs = s.fg.hasLs := rfl
@[simp] theorem State.post_fg_barCnt (s : State) (lat : Nat) (w : RegWrite) (fl : Lane) : (s.post lat w fl).fg.barCnt = s.fg.barCnt := rfl
@[simp] theorem State.post_fg_yielded (s : State) (lat : Nat) (w : RegWrite) (fl : Lane) : (s.post lat w fl).fg.yielded = s.fg.yielded := rfl
@[simp] theorem State.post_fg_doom (s : State) (lat : Nat) (w : RegWrite) (fl : Lane) : (s.post lat w fl).fg.doom = s.fg.doom := rfl
@[simp] theorem State.post_fg_dbgStep (s : State) (lat : Nat) (w : RegWrite) (fl : Lane) : (s.post lat w fl).fg.dbgStep = s.fg.dbgStep := rfl
@[simp] theorem State.post_fg_dbgBkpt (s : State) (lat : Nat) (w : RegWrite) (fl : Lane) : (s.post lat w fl).fg.dbgBkpt = s.fg.dbgBkpt := rfl
@[simp] theorem State.post_fg_dbgReq (s : State) (lat : Nat) (w : RegWrite) (fl : Lane) : (s.post lat w fl).fg.dbgReq = s.fg.dbgReq := rfl
@[simp] theorem State.post_fg_dbgSel (s : State) (lat : Nat) (w : RegWrite) (fl : Lane) : (s.post lat w fl).fg.dbgSel = s.fg.dbgSel := rfl
@[simp] theorem Task.setBank_key (t : Task) (c : Nat) (b : ColBank) : (t.setBank c b).key = t.key := rfl
@[simp] theorem Task.setBank_vf (t : Task) (c : Nat) (b : ColBank) : (t.setBank c b).vf = t.vf := rfl
@[simp] theorem Task.setBank_die (t : Task) (c : Nat) (b : ColBank) : (t.setBank c b).die = t.die := rfl
@[simp] theorem Task.setBank_launch (t : Task) (c : Nat) (b : ColBank) : (t.setBank c b).launch = t.launch := rfl
@[simp] theorem Task.setBank_idx (t : Task) (c : Nat) (b : ColBank) : (t.setBank c b).idx = t.idx := rfl
@[simp] theorem Task.setBank_coord (t : Task) (c : Nat) (b : ColBank) : (t.setBank c b).coord = t.coord := rfl
@[simp] theorem Task.setBank_priv (t : Task) (c : Nat) (b : ColBank) : (t.setBank c b).priv = t.priv := rfl
@[simp] theorem Task.setBank_width (t : Task) (c : Nat) (b : ColBank) : (t.setBank c b).width = t.width := rfl
@[simp] theorem Task.setBank_unit (t : Task) (c : Nat) (b : ColBank) : (t.setBank c b).unit = t.unit := rfl
@[simp] theorem Task.setBank_half (t : Task) (c : Nat) (b : ColBank) : (t.setBank c b).half = t.half := rfl
@[simp] theorem Task.setBank_tbank (t : Task) (c : Nat) (b : ColBank) : (t.setBank c b).tbank = t.tbank := rfl
@[simp] theorem Task.setBank_state (t : Task) (c : Nat) (b : ColBank) : (t.setBank c b).state = t.state := rfl
@[simp] theorem Task.setBank_pc (t : Task) (c : Nat) (b : ColBank) : (t.setBank c b).pc = t.pc := rfl
@[simp] theorem Task.setBank_follower (t : Task) (c : Nat) (b : ColBank) : (t.setBank c b).follower = t.follower := rfl
@[simp] theorem Task.setBank_dist (t : Task) (c : Nat) (b : ColBank) : (t.setBank c b).dist = t.dist := rfl
@[simp] theorem Task.setBank_idle (t : Task) (c : Nat) (b : ColBank) : (t.setBank c b).idle = t.idle := rfl
@[simp] theorem Task.setBank_pend (t : Task) (c : Nat) (b : ColBank) : (t.setBank c b).pend = t.pend := rfl
@[simp] theorem Task.setBank_land (t : Task) (c : Nat) (b : ColBank) : (t.setBank c b).land = t.land := rfl
@[simp] theorem Task.setBank_work (t : Task) (c : Nat) (b : ColBank) : (t.setBank c b).work = t.work := rfl
@[simp] theorem Task.setBank_snap (t : Task) (c : Nat) (b : ColBank) : (t.setBank c b).snap = t.snap := rfl
@[simp] theorem Task.setBank_deferred (t : Task) (c : Nat) (b : ColBank) : (t.setBank c b).deferred = t.deferred := rfl
@[simp] theorem Task.setBank_held (t : Task) (c : Nat) (b : ColBank) : (t.setBank c b).held = t.held := rfl
@[simp] theorem Task.setBank_results (t : Task) (c : Nat) (b : ColBank) : (t.setBank c b).results = t.results := rfl
@[simp] theorem Task.setBank_accs (t : Task) (c : Nat) (b : ColBank) : (t.setBank c b).accs = t.accs := rfl
@[simp] theorem Task.setBank_fences (t : Task) (c : Nat) (b : ColBank) : (t.setBank c b).fences = t.fences := rfl
@[simp] theorem Task.setBank_sleep (t : Task) (c : Nat) (b : ColBank) : (t.setBank c b).sleep = t.sleep := rfl
@[simp] theorem Task.setBank_recv (t : Task) (c : Nat) (b : ColBank) : (t.setBank c b).recv = t.recv := rfl
@[simp] theorem Task.setBank_first (t : Task) (c : Nat) (b : ColBank) : (t.setBank c b).first = t.first := rfl
@[simp] theorem Task.setBank_stop (t : Task) (c : Nat) (b : ColBank) : (t.setBank c b).stop = t.stop := rfl
@[simp] theorem Task.setBank_pages (t : Task) (c : Nat) (b : ColBank) : (t.setBank c b).pages = t.pages := rfl
@[simp] theorem Task.setBank_resumeAt (t : Task) (c : Nat) (b : ColBank) : (t.setBank c b).resumeAt = t.resumeAt := rfl
@[simp] theorem Task.setBank_mrep (t : Task) (c : Nat) (b : ColBank) : (t.setBank c b).mrep = t.mrep := rfl
@[simp] theorem Task.setBank_chk (t : Task) (c : Nat) (b : ColBank) : (t.setBank c b).chk = t.chk := rfl
@[simp] theorem Task.setBank_arith (t : Task) (c : Nat) (b : ColBank) : (t.setBank c b).arith = t.arith := rfl
@[simp] theorem Task.setBank_lsCtl (t : Task) (c : Nat) (b : ColBank) : (t.setBank c b).lsCtl = t.lsCtl := rfl
@[simp] theorem Task.setBank_lsOob (t : Task) (c : Nat) (b : ColBank) : (t.setBank c b).lsOob = t.lsOob := rfl
@[simp] theorem Task.setBank_lsBase (t : Task) (c : Nat) (b : ColBank) : (t.setBank c b).lsBase = t.lsBase := rfl
@[simp] theorem Task.setBank_lsSize (t : Task) (c : Nat) (b : ColBank) : (t.setBank c b).lsSize = t.lsSize := rfl
@[simp] theorem Task.setBank_dmSize (t : Task) (c : Nat) (b : ColBank) : (t.setBank c b).dmSize = t.dmSize := rfl
@[simp] theorem Task.setBank_trapCause (t : Task) (c : Nat) (b : ColBank) : (t.setBank c b).trapCause = t.trapCause := rfl
@[simp] theorem Task.setBank_trapArg (t : Task) (c : Nat) (b : ColBank) : (t.setBank c b).trapArg = t.trapArg := rfl
@[simp] theorem Task.setBank_pclFault (t : Task) (c : Nat) (b : ColBank) : (t.setBank c b).pclFault = t.pclFault := rfl
@[simp] theorem Task.setBank_waitStat (t : Task) (c : Nat) (b : ColBank) : (t.setBank c b).waitStat = t.waitStat := rfl
@[simp] theorem Task.setBank_taskId (t : Task) (c : Nat) (b : ColBank) : (t.setBank c b).taskId = t.taskId := rfl
@[simp] theorem Task.setBank_claspRec (t : Task) (c : Nat) (b : ColBank) : (t.setBank c b).claspRec = t.claspRec := rfl
@[simp] theorem Task.setBank_comm (t : Task) (c : Nat) (b : ColBank) : (t.setBank c b).comm = t.comm := rfl
@[simp] theorem Task.setBank_demoted (t : Task) (c : Nat) (b : ColBank) : (t.setBank c b).demoted = t.demoted := rfl
@[simp] theorem Task.setBank_expired (t : Task) (c : Nat) (b : ColBank) : (t.setBank c b).expired = t.expired := rfl
@[simp] theorem Task.setBank_restored (t : Task) (c : Nat) (b : ColBank) : (t.setBank c b).restored = t.restored := rfl
@[simp] theorem Task.setBank_cls (t : Task) (c : Nat) (b : ColBank) : (t.setBank c b).cls = t.cls := rfl
@[simp] theorem Task.setBank_inherit (t : Task) (c : Nat) (b : ColBank) : (t.setBank c b).inherit = t.inherit := rfl
@[simp] theorem Task.setBank_raises (t : Task) (c : Nat) (b : ColBank) : (t.setBank c b).raises = t.raises := rfl
@[simp] theorem Task.setBank_ready (t : Task) (c : Nat) (b : ColBank) : (t.setBank c b).ready = t.ready := rfl
@[simp] theorem Task.setBank_used (t : Task) (c : Nat) (b : ColBank) : (t.setBank c b).used = t.used := rfl
@[simp] theorem Task.setBank_wrapLeft (t : Task) (c : Nat) (b : ColBank) : (t.setBank c b).wrapLeft = t.wrapLeft := rfl
@[simp] theorem Task.setBank_evict (t : Task) (c : Nat) (b : ColBank) : (t.setBank c b).evict = t.evict := rfl
@[simp] theorem Task.setBank_evictFor (t : Task) (c : Nat) (b : ColBank) : (t.setBank c b).evictFor = t.evictFor := rfl
@[simp] theorem Task.setBank_safeNow (t : Task) (c : Nat) (b : ColBank) : (t.setBank c b).safeNow = t.safeNow := rfl
@[simp] theorem Task.setBank_divert (t : Task) (c : Nat) (b : ColBank) : (t.setBank c b).divert = t.divert := rfl
@[simp] theorem Task.setBank_divDue (t : Task) (c : Nat) (b : ColBank) : (t.setBank c b).divDue = t.divDue := rfl
@[simp] theorem Task.setBank_exiting (t : Task) (c : Nat) (b : ColBank) : (t.setBank c b).exiting = t.exiting := rfl
@[simp] theorem Task.setBank_hasLs (t : Task) (c : Nat) (b : ColBank) : (t.setBank c b).hasLs = t.hasLs := rfl
@[simp] theorem Task.setBank_barCnt (t : Task) (c : Nat) (b : ColBank) : (t.setBank c b).barCnt = t.barCnt := rfl
@[simp] theorem Task.setBank_yielded (t : Task) (c : Nat) (b : ColBank) : (t.setBank c b).yielded = t.yielded := rfl
@[simp] theorem Task.setBank_doom (t : Task) (c : Nat) (b : ColBank) : (t.setBank c b).doom = t.doom := rfl
@[simp] theorem Task.setBank_dbgStep (t : Task) (c : Nat) (b : ColBank) : (t.setBank c b).dbgStep = t.dbgStep := rfl
@[simp] theorem Task.setBank_dbgBkpt (t : Task) (c : Nat) (b : ColBank) : (t.setBank c b).dbgBkpt = t.dbgBkpt := rfl
@[simp] theorem Task.setBank_dbgReq (t : Task) (c : Nat) (b : ColBank) : (t.setBank c b).dbgReq = t.dbgReq := rfl
@[simp] theorem Task.setBank_dbgSel (t : Task) (c : Nat) (b : ColBank) : (t.setBank c b).dbgSel = t.dbgSel := rfl

end Sys2Proof.Machine
end

