-- ==== Sys2Proof/Laws/Store.lean ====
section
/-!
SUPPORT. The laws of sparse data: read after write, writes elsewhere, the canonical form is kept.
-/
namespace Sys2Proof.Machine

theorem fget_fins_same {α : Type} (d : α) (m : FMap α) (n : Nat) (x : α) : fget d (fins m n x) n = x := by
  induction m with
  | nil => simp [fins, fget]
  | cons e r ih =>
    obtain ⟨k, v⟩ := e
    simp only [fins]
    split
    · simp [fget]
    · split
      · simp [fget]
      · rename_i h1 h2
        simp [fget, h2, ih]

theorem fget_fins_other {α : Type} (d : α) (m : FMap α) {n k : Nat} (x : α) (h : k ≠ n) :
    fget d (fins m n x) k = fget d m k := by
  induction m with
  | nil => simp [fins, fget, h]
  | cons e r ih =>
    obtain ⟨j, v⟩ := e
    simp only [fins]
    split
    · simp [fget, h]
    · split
      · rename_i h1 h2; subst h2; simp [fget, h]
      · simp [fget, ih]

theorem fget_fdel_same {α : Type} (d : α) (m : FMap α) (n : Nat) : fget d (fdel m n) n = d := by
  induction m with
  | nil => simp [fdel, fget]
  | cons e r ih =>
    obtain ⟨j, v⟩ := e
    by_cases hj : j = n
    · subst hj; simpa [fdel] using ih
    · have : fdel ((j, v) :: r) n = (j, v) :: fdel r n := by simp [fdel, hj]
      rw [this]; simp only [fget]; rw [if_neg (fun h => hj h.symm)]; exact ih

theorem fget_fdel_other {α : Type} (d : α) (m : FMap α) {n k : Nat} (h : k ≠ n) :
    fget d (fdel m n) k = fget d m k := by
  induction m with
  | nil => simp [fdel, fget]
  | cons e r ih =>
    obtain ⟨j, v⟩ := e
    by_cases hj : j = n
    · subst hj
      have : fdel ((j, v) :: r) j = fdel r j := by simp [fdel]
      rw [this, ih]; simp [fget, h]
    · have : fdel ((j, v) :: r) n = (j, v) :: fdel r n := by simp [fdel, hj]
      rw [this]; simp [fget, ih]

/-- Read after write at the same key. -/
@[simp] theorem fget_fset_same {α : Type} [DecidableEq α] (d : α) (m : FMap α) (n : Nat) (x : α) :
    fget d (fset d m n x) n = x := by
  unfold fset
  split
  · rename_i h; subst h; exact fget_fdel_same _ m n
  · exact fget_fins_same d m n x

/-- A write leaves every other key alone. -/
theorem fget_fset_other {α : Type} [DecidableEq α] (d : α) (m : FMap α) {n k : Nat} (x : α) (h : k ≠ n) :
    fget d (fset d m n x) k = fget d m k := by
  unfold fset
  split
  · exact fget_fdel_other d m h
  · exact fget_fins_other d m x h

theorem fwfFrom_mono {α : Type} [DecidableEq α] (d : α) (m : FMap α) {l l' : Nat} (hl : l' ≤ l)
    (h : fwfFrom d (some l) m = true) : fwfFrom d (some l') m = true := by
  cases m with
  | nil => rfl
  | cons e r =>
    obtain ⟨k, v⟩ := e
    simp only [fwfFrom, Bool.and_eq_true, decide_eq_true_eq] at h ⊢
    exact ⟨⟨by have := h.1.1; simp only [loOk, decide_eq_true_eq] at this ⊢; omega, h.1.2⟩, h.2⟩

theorem fwfFrom_none {α : Type} [DecidableEq α] (d : α) (m : FMap α) {l : Nat}
    (h : fwfFrom d (some l) m = true) : fwfFrom d none m = true := by
  cases m with
  | nil => rfl
  | cons e r =>
    obtain ⟨k, v⟩ := e
    simp only [fwfFrom, Bool.and_eq_true, decide_eq_true_eq] at h ⊢
    exact ⟨⟨rfl, h.1.2⟩, h.2⟩

theorem fdel_wfFrom {α : Type} [DecidableEq α] (d : α) (m : FMap α) (n : Nat) :
    ∀ lo, fwfFrom d lo m = true → fwfFrom d lo (fdel m n) = true := by
  induction m with
  | nil => intro lo _; rfl
  | cons e r ih =>
    obtain ⟨k, v⟩ := e
    intro lo h
    simp only [fwfFrom, Bool.and_eq_true] at h
    by_cases hk : k = n
    · have e1 : fdel ((k, v) :: r) n = fdel r n := by simp [fdel, hk]
      rw [e1]
      have h2 := ih _ h.2
      cases lo with
      | none => exact fwfFrom_none d _ h2
      | some l => exact fwfFrom_mono d _ (by have := h.1.1; simp only [loOk, decide_eq_true_eq] at this; omega) h2
    · have e1 : fdel ((k, v) :: r) n = (k, v) :: fdel r n := by simp [fdel, hk]
      rw [e1]
      simp only [fwfFrom, Bool.and_eq_true]
      exact ⟨h.1, ih _ h.2⟩

theorem fins_wfFrom {α : Type} [DecidableEq α] (d : α) (m : FMap α) (n : Nat) (x : α) (hx : x ≠ d) :
    ∀ lo : Option Nat, (∀ l, lo = some l → l < n) → fwfFrom d lo m = true → fwfFrom d lo (fins m n x) = true := by
  induction m with
  | nil =>
    intro lo hlo _
    cases lo with
    | none => simp [fins, fwfFrom, loOk, hx]
    | some l => simp [fins, fwfFrom, loOk, hx, hlo l rfl]
  | cons e r ih =>
    obtain ⟨k, v⟩ := e
    intro lo hlo h
    have hn : loOk lo n = true := by
      cases lo with
      | none => rfl
      | some l => simpa [loOk] using hlo l rfl
    simp only [fwfFrom, Bool.and_eq_true, decide_eq_true_eq] at h
    simp only [fins]
    split
    · rename_i hnk
      simp only [fwfFrom, Bool.and_eq_true, decide_eq_true_eq]
      exact ⟨⟨hn, hx⟩, ⟨by simpa [loOk] using hnk, h.1.2⟩, h.2⟩
    · split
      · rename_i h1 h2; subst h2
        simp only [fwfFrom, Bool.and_eq_true, decide_eq_true_eq]
        exact ⟨⟨hn, hx⟩, h.2⟩
      · rename_i h1 h2
        simp only [fwfFrom, Bool.and_eq_true, decide_eq_true_eq]
        exact ⟨h.1, ih _ (fun l hl => by cases hl; omega) h.2⟩

/-- Every write keeps the canonical form. -/
theorem fset_wf {α : Type} [DecidableEq α] (d : α) (m : FMap α) (n : Nat) (x : α) (h : fwf d m = true) :
    fwf d (fset d m n x) = true := by
  unfold fset
  split
  · exact fdel_wfFrom d m n none h
  · rename_i hx; exact fins_wfFrom d m n x hx none (fun l hl => by cases hl) h

theorem vget_vset_same {α : Type} {n : Nat} (d : α) (v : Vector α n) {k : Nat} (x : α) (h : k < n) :
    vget d (vset v k x) k = x := by
  simp [vget, vset, h]

theorem vget_vset_other {α : Type} {n : Nat} (d : α) (v : Vector α n) {j k : Nat} (x : α) (h : j ≠ k) :
    vget d (vset v k x) j = vget d v j := by
  simp [vget, vset, h.symm]

end Sys2Proof.Machine
end

