-- ==== Sys2Proof/Laws/Memory.lean ====
section
/-!
SUPPORT. The laws of memory: what a byte reads after a write of bytes, and that every memory operation keeps the canonical
form.
-/
namespace Sys2Proof.Machine

/-! Reading after writing. -/

@[simp] theorem State.byte_setByte_same (s : State) (a : Nat) (b : Byte) : (s.setByte a b).byte a = b :=
  fget_fset_same _ _ _ _
theorem State.byte_setByte_other (s : State) {a x : Nat} (b : Byte) (h : x ≠ a) : (s.setByte a b).byte x = s.byte x :=
  fget_fset_other _ _ _ h

/-- A write of bytes leaves every byte outside them alone. -/
theorem State.byte_setBytes_other (bs : List Byte) (s : State) (a x : Nat) (h : x < a ∨ a + bs.length ≤ x) :
    (s.setBytes a bs).byte x = s.byte x := by
  induction bs generalizing s a with
  | nil => rfl
  | cons b r ih =>
    simp only [State.setBytes, List.length_cons] at h ⊢
    rw [ih _ _ (by omega), State.byte_setByte_other _ _ (by omega)]

/-- A byte that a write of bytes covers reads as written. -/
theorem State.byte_setBytes_in (bs : List Byte) (s : State) (a k : Nat) (h : k < bs.length) :
    (s.setBytes a bs).byte (a + k) = bs[k] := by
  induction bs generalizing s a k with
  | nil => simp at h
  | cons b r ih =>
    simp only [State.setBytes]
    cases k with
    | zero =>
      rw [State.byte_setBytes_other _ _ _ _ (by omega)]
      simp
    | succ n =>
      have := ih (s.setByte a b) (a + 1) n (by simpa using h)
      rw [show a + (n + 1) = a + 1 + n by omega, this]
      simp

theorem State.bytes_length (s : State) (n : Nat) : ∀ a, (s.bytes a n).length = n := by
  induction n with
  | zero => intro a; rfl
  | succ n ih => intro a; simp [State.bytes, ih]

theorem State.bytes_getElem (s : State) (n : Nat) : ∀ (a k : Nat) (h : k < (s.bytes a n).length),
    (s.bytes a n)[k] = s.byte (a + k) := by
  induction n with
  | zero => intro a k h; simp [State.bytes] at h
  | succ n ih =>
    intro a k h
    cases k with
    | zero => simp [State.bytes]
    | succ k =>
      simp only [State.bytes, List.getElem_cons_succ]
      rw [ih]; congr 1; omega

/-- Reading back the bytes just written. -/
theorem State.bytes_setBytes (s : State) (a : Nat) (bs : List Byte) : (s.setBytes a bs).bytes a bs.length = bs := by
  apply List.ext_getElem
  · rw [State.bytes_length]
  · intro k h1 h2
    rw [State.bytes_getElem, State.byte_setBytes_in _ _ _ _ h2]

/-- Bytes outside a write read as before. -/
theorem State.bytes_setBytes_other (s : State) (a x n : Nat) (bs : List Byte) (h : x + n ≤ a ∨ a + bs.length ≤ x) :
    (s.setBytes a bs).bytes x n = s.bytes x n := by
  induction n generalizing x with
  | zero => rfl
  | succ n ih =>
    simp only [State.bytes]
    rw [State.byte_setBytes_other _ _ _ _ (by omega), ih _ (by omega)]

theorem bytesOf_length (n : Nat) : ∀ x, (bytesOf n x).length = n := by
  induction n with
  | zero => intro x; rfl
  | succ n ih => intro x; simp [bytesOf, ih]

/-- The bytes of a number give it back, modulo their width. -/
theorem ofBytes_bytesOf (n : Nat) : ∀ x, ofBytes (bytesOf n x) = x % 256 ^ n := by
  induction n with
  | zero => intro x; simp [bytesOf, ofBytes, Nat.mod_one]
  | succ n ih =>
    intro x
    simp only [bytesOf, ofBytes, ih, BitVec.toNat_ofNat]
    rw [show (2:Nat) ^ 8 = 256 from rfl, Nat.pow_succ, Nat.mul_comm (256 ^ n) 256, Nat.mod_mul]

/-- A number written reads back, modulo its width. -/
theorem State.num_setNum (s : State) (a n x : Nat) : (s.setNum a n x).num a n = x % 256 ^ n := by
  unfold State.num State.setNum
  have h := State.bytes_setBytes s a (bytesOf n x)
  rw [bytesOf_length] at h
  rw [h, ofBytes_bytesOf]

/-! The canonical form. -/

theorem State.reset_wf : Memory.wf State.reset.mem := rfl

theorem State.setByte_wf {s : State} (a : Nat) (b : Byte) (h : Memory.wf s.mem) : Memory.wf (s.setByte a b).mem :=
  fset_wf _ _ _ _ h

theorem State.setBytes_wf (bs : List Byte) : ∀ {s : State} (a : Nat), Memory.wf s.mem → Memory.wf (s.setBytes a bs).mem := by
  induction bs with
  | nil => intro s a h; exact h
  | cons b r ih => intro s a h; exact ih (a + 1) (State.setByte_wf a b h)

theorem State.setNum_wf {s : State} (a n x : Nat) (h : Memory.wf s.mem) : Memory.wf (s.setNum a n x).mem :=
  State.setBytes_wf _ a h

theorem State.setHbmByte_wf {s : State} (key a : Nat) (b : Byte) (h : Memory.wf s.mem) :
    Memory.wf (s.setHbmByte key a b).mem := by
  unfold State.setHbmByte
  dsimp only
  split
  · exact State.setByte_wf a b h
  · exact State.setByte_wf a b (State.setBytes_wf _ _ h)

theorem State.setHbmBytes_wf (bs : List Byte) : ∀ {s : State} (key a : Nat), Memory.wf s.mem →
    Memory.wf (s.setHbmBytes key a bs).mem := by
  induction bs with
  | nil => intro s key a h; exact h
  | cons b r ih => intro s key a h; exact ih key (a + 1) (State.setHbmByte_wf key a b h)

theorem State.vfWrite_wf {s t : State} {vf a : Nat} {bs : List Byte} (h : Memory.wf s.mem) (e : s.vfWrite vf a bs = some t) :
    Memory.wf t.mem := by
  unfold State.vfWrite at e
  split at e
  · cases e; exact State.setHbmBytes_wf _ _ _ h
  · cases e

theorem State.setKeyBytes_wf {s : State} (key a : Nat) (bs : List Byte) (h : Memory.wf s.mem) :
    Memory.wf (s.setKeyBytes key a bs).mem := by
  unfold State.setKeyBytes
  split
  · exact State.setBytes_wf _ _ h
  · exact State.setHbmBytes_wf _ _ _ h

/-- Dropping cells keeps the form: an address cleared reads as unlisted. -/
theorem fwf_filter {α : Type} [DecidableEq α] (d : α) (p : Nat × α → Bool) (m : FMap α) :
    ∀ lo, fwfFrom d lo m = true → fwfFrom d lo (m.filter p) = true := by
  induction m with
  | nil => intro lo _; rfl
  | cons e r ih =>
    obtain ⟨k, v⟩ := e
    intro lo h
    simp only [fwfFrom, Bool.and_eq_true] at h
    by_cases hp : p (k, v) = true
    · rw [List.filter_cons_of_pos hp]
      simp only [fwfFrom, Bool.and_eq_true]
      exact ⟨h.1, ih _ h.2⟩
    · rw [List.filter_cons_of_neg hp]
      have h2 := ih _ h.2
      cases lo with
      | none => exact fwfFrom_none d _ h2
      | some l => exact fwfFrom_mono d _ (by have := h.1.1; simp only [loOk, decide_eq_true_eq] at this; omega) h2

/-! Values written all at once. -/

/-- Two tables in the form join to one when the first lies below the second. -/
theorem fwfFrom_append {α : Type} [DecidableEq α] (d : α) (m' : FMap α) (n : Nat) (h' : fwf d m' = true)
    (hb : ∀ e ∈ m', n ≤ e.1) (m : FMap α) :
    ∀ lo, (∀ l, lo = some l → l < n) → fwfFrom d lo m = true → (∀ e ∈ m, e.1 < n) → fwfFrom d lo (m ++ m') = true := by
  induction m with
  | nil =>
    intro lo hl _ _
    cases m' with
    | nil => rfl
    | cons e r =>
      simp only [fwf, fwfFrom, Bool.and_eq_true] at h'
      simp only [List.nil_append, fwfFrom, Bool.and_eq_true]
      refine ⟨⟨?_, h'.1.2⟩, h'.2⟩
      cases lo with
      | none => rfl
      | some l => simpa [loOk] using Nat.lt_of_lt_of_le (hl l rfl) (hb e (by simp))
  | cons e r ih =>
    intro lo _ h ha
    simp only [fwfFrom, Bool.and_eq_true] at h
    simp only [List.cons_append, fwfFrom, Bool.and_eq_true]
    exact ⟨h.1, ih _ (fun l e1 => by cases e1; exact ha e (by simp)) h.2 (fun x hx => ha x (by simp [hx]))⟩
/-- The cells of consecutive values are in the form. -/
theorem zipIdx_wfFrom {α : Type} [DecidableEq α] (d : α) (l : List α) : ∀ (n : Nat) (lo : Option Nat), (∀ k, lo = some k → k < n) →
    fwfFrom d lo (((l.zipIdx n).map (fun e => (e.2, e.1))).filter (fun e => decide (e.2 ≠ d))) = true := by
  induction l with
  | nil => intro n lo _; rfl
  | cons x r ih =>
    intro n lo h
    by_cases hx : x = d
    · simpa [hx] using ih (n + 1) lo (fun k e => Nat.lt_succ_of_lt (h k e))
    · have hlo : loOk lo n = true := by
        cases lo with
        | none => rfl
        | some k => simpa [loOk] using h k rfl
      simp only [List.zipIdx_cons, List.map_cons, ne_eq, hx, not_false_eq_true, decide_true, List.filter_cons_of_pos, fwfFrom, hlo,
        Bool.true_and]
      exact ih (n + 1) (some n) (fun k e => by cases e; omega)
/-- Writing values all at once keeps the canonical form. -/
theorem fsplice_wf {α : Type} [DecidableEq α] (d : α) (m : FMap α) (n : Nat) (l : List α) (h : fwf d m = true) :
    fwf d (fsplice d m n l) = true := by
  have hz : ∀ e ∈ ((l.zipIdx n).map (fun e => (e.2, e.1))).filter (fun e => decide (e.2 ≠ d)), n ≤ e.1 ∧ e.1 < n + l.length := by
    intro e he
    obtain ⟨x, hx, rfl⟩ := List.mem_map.1 (List.mem_filter.1 he).1
    have := List.mem_zipIdx hx
    exact ⟨this.1, by omega⟩
  have hi : fwf d (m.filter (fun e => decide (n + l.length ≤ e.1))) = true := fwf_filter d _ m none h
  have mid := fwfFrom_append d _ (n + l.length) hi (fun e he => by simpa using (List.mem_filter.1 he).2)
    (((l.zipIdx n).map (fun e => (e.2, e.1))).filter (fun e => decide (e.2 ≠ d))) none (fun _ e => by cases e)
    (zipIdx_wfFrom d l n none (fun _ e => by cases e)) (fun e he => (hz e he).2)
  unfold fsplice
  rw [List.append_assoc]
  refine fwfFrom_append d _ n mid (fun e he => ?_) _ none (fun _ e => by cases e) (fwf_filter d _ m none h)
    (fun e he => by simpa using (List.mem_filter.1 he).2)
  rcases List.mem_append.1 he with he | he
  · exact (hz e he).1
  · have := (List.mem_filter.1 he).2
    simp only [decide_eq_true_eq] at this
    omega
theorem fget_append_right {α : Type} (d : α) (m' : FMap α) (k : Nat) (m : FMap α) (h : ∀ e ∈ m, e.1 ≠ k) :
    fget d (m ++ m') k = fget d m' k := by
  induction m with
  | nil => rfl
  | cons e r ih =>
    have he : k ≠ e.1 := fun x => h e (by simp) x.symm
    simp [fget, he, ih (fun x hx => h x (by simp [hx]))]
theorem fget_append_left {α : Type} (d : α) (m' : FMap α) (k : Nat) (h : ∀ e ∈ m', e.1 ≠ k) (m : FMap α) :
    fget d (m ++ m') k = fget d m k := by
  induction m with
  | nil => simpa [fget] using fget_append_right d [] k m' h
  | cons e r ih => simp [fget, ih]
theorem fget_filter {α : Type} (d : α) (p : Nat × α → Bool) (k : Nat) (h : ∀ v, p (k, v) = true) (m : FMap α) :
    fget d (m.filter p) k = fget d m k := by
  induction m with
  | nil => rfl
  | cons e r ih =>
    obtain ⟨j, v⟩ := e
    by_cases hj : k = j
    · subst hj; simp [h, fget]
    · by_cases hp : p (j, v) = true <;> simp [hp, fget, hj, ih]
theorem fget_zipIdx {α : Type} [DecidableEq α] (d : α) (l : List α) : ∀ (n k : Nat), n ≤ k →
    fget d (((l.zipIdx n).map (fun e => (e.2, e.1))).filter (fun e => decide (e.2 ≠ d))) k = lget d l (k - n) := by
  induction l with
  | nil => intro n k _; simp [fget, lget]
  | cons x r ih =>
    intro n k h
    have none_ : k = n → fget d (((r.zipIdx (n + 1)).map (fun e => (e.2, e.1))).filter (fun e => decide (e.2 ≠ d))) k = d := by
      intro e
      have := fget_append_right d [] k (((r.zipIdx (n + 1)).map (fun e => (e.2, e.1))).filter (fun e => decide (e.2 ≠ d)))
        (fun y hy => by
          obtain ⟨z, hz, rfl⟩ := List.mem_map.1 (List.mem_filter.1 hy).1
          have := List.mem_zipIdx hz
          simp only; omega)
      simpa [fget] using this
    by_cases hk : k = n
    · by_cases hx : x = d
      · simpa [hx, hk, lget] using none_ hk
      · simp [hx, hk, lget, fget]
    · have e1 := ih (n + 1) k (by omega)
      have e2 : lget d (x :: r) (k - n) = lget d r (k - (n + 1)) := by
        obtain ⟨j, hj⟩ : ∃ j, k - n = j + 1 := ⟨k - n - 1, by omega⟩
        simp [lget, hj, show k - (n + 1) = j by omega]
      by_cases hx : x = d
      · rw [e2, ← e1]; simp [hx]
      · simp [hx, fget, hk, e2]; simpa using e1
/-- What a key reads after values were written all at once. -/
theorem fget_fsplice {α : Type} [DecidableEq α] (d : α) (m : FMap α) (n : Nat) (l : List α) (k : Nat) :
    fget d (fsplice d m n l) k = if n ≤ k ∧ k < n + l.length then lget d l (k - n) else fget d m k := by
  have hz : ∀ e ∈ ((l.zipIdx n).map (fun e => (e.2, e.1))).filter (fun e => decide (e.2 ≠ d)), n ≤ e.1 ∧ e.1 < n + l.length := by
    intro e he
    obtain ⟨x, hx, rfl⟩ := List.mem_map.1 (List.mem_filter.1 he).1
    have := List.mem_zipIdx hx
    exact ⟨this.1, by omega⟩
  unfold fsplice
  by_cases h1 : k < n
  · rw [if_neg (by omega), fget_append_left d _ k (fun e he => by
      have := of_decide_eq_true (List.mem_filter.1 he).2; omega), fget_append_left d _ k (fun e he => by have := hz e he; omega)]
    exact fget_filter d _ k (fun v => by simpa using h1) m
  · rw [List.append_assoc, fget_append_right d _ k _ (fun e he => by
      have := of_decide_eq_true (List.mem_filter.1 he).2; omega)]
    by_cases h2 : k < n + l.length
    · rw [if_pos ⟨by omega, h2⟩, fget_append_left d _ k (fun e he => by
        have := of_decide_eq_true (List.mem_filter.1 he).2; omega)]
      exact fget_zipIdx d l n k (by omega)
    · rw [if_neg (by omega), fget_append_right d _ k _ (fun e he => by have := hz e he; omega)]
      exact fget_filter d _ k (fun v => by simp; omega) m
theorem State.putBlocks_wf {s : State} (key a : Nat) (bs : List Byte) (h : Memory.wf s.mem) : Memory.wf (s.putBlocks key a bs).mem :=
  fsplice_wf _ _ _ _ h
theorem State.vfPut_wf {s : State} (vf a : Nat) (bs : List Byte) (h : Memory.wf s.mem) : Memory.wf (s.vfPut vf a bs).mem := by
  unfold State.vfPut
  split
  · exact State.putBlocks_wf _ _ _ h
  · exact h
theorem State.writeFrame_wf {s : State} (k : Nat) (strips : List Strip) (tiles : List (List Byte)) (h : Memory.wf s.mem) :
    Memory.wf (s.writeFrame k strips tiles).mem := by
  have fold (t : Task) (a : Nat) (l : List Nat) : ∀ {s : State}, Memory.wf s.mem →
      Memory.wf (l.foldl (fun s c => s.vfPut t.vf (a + 0x6000 * c) (t.columnBytes c)) s).mem := by
    induction l with
    | nil => intro s h; exact h
    | cons c r ih => intro s h; exact ih (State.vfPut_wf _ _ _ h)
  unfold State.writeFrame
  dsimp only
  refine State.vfPut_wf _ _ _ (State.vfPut_wf _ _ _ ?_)
  refine State.vfPut_wf _ _ _ (fold _ _ _ h)
end Sys2Proof.Machine
end

