-- ==== Sys2Proof/Laws/Operands.lean ====
section
/-!
SUPPORT. What the shared operand operations do: guards, reads of i operands (which pop a link register and change nothing
else), posted writes, the write of a register, lanes.
-/
namespace Sys2Proof.Machine

/-! Guards. -/

theorem State.when_true {s : State} {g : Guard} (f : State → State) (h : s.guard g = true) : s.when g f = .next (f s) := by
  simp [State.when, h]
theorem State.when_false {s : State} {g : Guard} (f : State → State) (h : s.guard g = false) : s.when g f = .next s := by
  simp [State.when, h]
/-- A guarded word always answers a next state. -/
theorem State.when_next (s : State) (g : Guard) (f : State → State) : ∃ t, s.when g f = .next t ∧ (t = s ∨ t = f s) := by
  unfold State.when
  split
  · exact ⟨_, rfl, .inr rfl⟩
  · exact ⟨_, rfl, .inl rfl⟩

/-! Banks and columns. -/

@[simp] theorem Task.setBank_bank_same (t : Task) (c : Nat) (b : ColBank) (h : c < 4) : (t.setBank c b).bank c = b := by
  simp [Task.setBank, Task.bank, vget_vset_same _ _ _ h]
theorem Task.setBank_bank_other (t : Task) {c d : Nat} (b : ColBank) (h : d ≠ c) : (t.setBank c b).bank d = t.bank d := by
  simp [Task.setBank, Task.bank, vget_vset_other _ _ _ h]
/-- A column past the banks reads as the empty bank, whatever is written. -/
theorem Task.setBank_out (t : Task) (c : Nat) (b : ColBank) (h : 4 ≤ c) : t.setBank c b = t := by
  have : vset t.banks c b = t.banks := by
    apply Vector.ext
    intro i hi
    simp only [vset, Vector.getElem_setIfInBounds]
    rw [if_neg (by omega)]
  simp [Task.setBank, this]

/-! Reads of i operands. -/

/-- What a read of an i operand leaves: the state, but for the FIFO of the link register it names. -/
theorem State.takeIn_state (s : State) (c : Nat) (f : RegF) : (s.takeIn c f).2 =
    if (s.fg.bank c).physI f < 56 then s
    else { s with fg := s.fg.setBank c ((s.fg.bank c).pop ((s.fg.bank c).physI f - 56)) } := by
  unfold State.takeIn
  dsimp only
  split <;> rfl
/-- The value read: the register's, or the oldest word of the link register. -/
theorem State.takeIn_value (s : State) (c : Nat) (f : RegF) : (s.takeIn c f).1 = (s.fg.bank c).i ((s.fg.bank c).physI f) := by
  unfold State.takeIn
  dsimp only
  split <;> rfl
/-- A read of a plain i register changes nothing. -/
theorem State.takeIn_plain (s : State) (c : Nat) (f : RegF) (h : (s.fg.bank c).physI f < 56) :
    s.takeIn c f = ((s.fg.bank c).i ((s.fg.bank c).physI f), s) := by
  unfold State.takeIn
  simp [h]
@[simp] theorem ColBank.pop_ibi (b : ColBank) (n : Nat) : (b.pop n).ibi = b.ibi := rfl
@[simp] theorem ColBank.pop_ibv (b : ColBank) (n : Nat) : (b.pop n).ibv = b.ibv := rfl
@[simp] theorem ColBank.pop_ibp (b : ColBank) (n : Nat) : (b.pop n).ibp = b.ibp := rfl
@[simp] theorem ColBank.pop_ireg (b : ColBank) (n : Nat) : (b.pop n).ireg = b.ireg := rfl
@[simp] theorem ColBank.pop_vreg (b : ColBank) (n : Nat) : (b.pop n).vreg = b.vreg := rfl
@[simp] theorem ColBank.pop_preg (b : ColBank) (n : Nat) : (b.pop n).preg = b.preg := rfl
@[simp] theorem ColBank.pop_kreg (b : ColBank) (n : Nat) : (b.pop n).kreg = b.kreg := rfl
@[simp] theorem ColBank.pop_lreg (b : ColBank) (n : Nat) : (b.pop n).lreg = b.lreg := rfl
@[simp] theorem ColBank.pop_ag (b : ColBank) (n : Nat) : (b.pop n).ag = b.ag := rfl
@[simp] theorem ColBank.pop_lc (b : ColBank) (n : Nat) : (b.pop n).lc = b.lc := rfl
@[simp] theorem ColBank.pop_ln (b : ColBank) (n : Nat) : (b.pop n).ln = b.ln := rfl
@[simp] theorem ColBank.pop_mp (b : ColBank) (n : Nat) : (b.pop n).mp = b.mp := rfl
@[simp] theorem ColBank.pop_ce (b : ColBank) (n : Nat) : (b.pop n).ce = b.ce := rfl
@[simp] theorem ColBank.pop_ft (b : ColBank) (n : Nat) : (b.pop n).ft = b.ft := rfl
@[simp] theorem ColBank.pop_fm (b : ColBank) (n : Nat) : (b.pop n).fm = b.fm := rfl
@[simp] theorem ColBank.pop_physI (b : ColBank) (n : Nat) (f : RegF) : (b.pop n).physI f = b.physI f := rfl
@[simp] theorem ColBank.pop_physV (b : ColBank) (n : Nat) (f : RegF) : (b.pop n).physV f = b.physV f := rfl
@[simp] theorem ColBank.pop_physPn (b : ColBank) (n k : Nat) (r : Bool) : (b.pop n).physPn k r = b.physPn k r := rfl
@[simp] theorem ColBank.pop_physG (b : ColBank) (n : Nat) (g : Guard) : (b.pop n).physG g = b.physG g := rfl

/-- What a read of an i operand never changes: all of the state but the link registers of one column. -/
theorem State.takeIn_frame (s : State) (c : Nat) (f : RegF) : ∃ bs : Vector ColBank 4,
    (s.takeIn c f).2 = { s with fg := { s.fg with banks := bs } } ∧
    ∀ k, ∃ q, vget ColBank.zero bs k = { vget ColBank.zero s.fg.banks k with lq := q } := by
  rw [State.takeIn_state]
  split
  · exact ⟨s.fg.banks, rfl, fun k => ⟨_, rfl⟩⟩
  · refine ⟨_, rfl, fun k => ?_⟩
    by_cases hc : c < 4
    · by_cases hk : k = c
      · subst hk
        exact ⟨((s.fg.bank k).pop ((s.fg.bank k).physI f - 56)).lq, by rw [vget_vset_same _ _ _ hc]; rfl⟩
      · exact ⟨_, by rw [vget_vset_other _ _ _ hk]⟩
    · refine ⟨(vget ColBank.zero s.fg.banks k).lq, ?_⟩
      have := congrArg Task.banks (Task.setBank_out s.fg c ((s.fg.bank c).pop ((s.fg.bank c).physI f - 56)) (by omega))
      simp only [Task.setBank] at this
      rw [this]
theorem State.takeI_frame (s : State) (f : RegF) : ∃ bs : Vector ColBank 4,
    (s.takeI f).2 = { s with fg := { s.fg with banks := bs } } ∧
    ∀ k, ∃ q, vget ColBank.zero bs k = { vget ColBank.zero s.fg.banks k with lq := q } :=
  s.takeIn_frame s.col f
/-- After a read, the running column's bank is the one before but for its link registers. -/
theorem State.takeI_bank (s : State) (f : RegF) : ∃ q, (s.takeI f).2.bank = { s.bank with lq := q } := by
  obtain ⟨bs, e, h⟩ := s.takeI_frame f
  obtain ⟨q, hq⟩ := h s.col
  exact ⟨q, by rw [e]; exact hq⟩
@[simp] theorem State.takeI_physI (s : State) (f d : RegF) : (s.takeI f).2.bank.physI d = s.bank.physI d := by
  obtain ⟨q, h⟩ := s.takeI_bank f; rw [h]; rfl
@[simp] theorem State.takeI_physV (s : State) (f d : RegF) : (s.takeI f).2.bank.physV d = s.bank.physV d := by
  obtain ⟨q, h⟩ := s.takeI_bank f; rw [h]; rfl
@[simp] theorem State.takeI_physPn (s : State) (f : RegF) (n : Nat) (r : Bool) :
    (s.takeI f).2.bank.physPn n r = s.bank.physPn n r := by
  obtain ⟨q, h⟩ := s.takeI_bank f; rw [h]; rfl
@[simp] theorem State.takeI_col (s : State) (f : RegF) : (s.takeI f).2.col = s.col := by
  obtain ⟨bs, e, -⟩ := s.takeI_frame f; rw [e]
@[simp] theorem State.takeI_ctl (s : State) (f : RegF) : (s.takeI f).2.ctl = s.ctl := by
  obtain ⟨bs, e, -⟩ := s.takeI_frame f; rw [e]
@[simp] theorem State.takeI_nid (s : State) (f : RegF) : (s.takeI f).2.nid = s.nid := by
  obtain ⟨bs, e, -⟩ := s.takeI_frame f; rw [e]
@[simp] theorem State.takeI_mem (s : State) (f : RegF) : (s.takeI f).2.mem = s.mem := by
  obtain ⟨bs, e, -⟩ := s.takeI_frame f; rw [e]
@[simp] theorem State.takeIn_mem (s : State) (c : Nat) (f : RegF) : (s.takeIn c f).2.mem = s.mem := by
  obtain ⟨bs, e, -⟩ := s.takeIn_frame c f; rw [e]
@[simp] theorem State.takeIn_bg (s : State) (c : Nat) (f : RegF) : (s.takeIn c f).2.bg = s.bg := by
  obtain ⟨bs, e, -⟩ := s.takeIn_frame c f; rw [e]
@[simp] theorem State.takeIn_units (s : State) (c : Nat) (f : RegF) : (s.takeIn c f).2.units = s.units := by
  obtain ⟨bs, e, -⟩ := s.takeIn_frame c f; rw [e]
@[simp] theorem State.takeIn_clasp (s : State) (c : Nat) (f : RegF) : (s.takeIn c f).2.clasp = s.clasp := by
  obtain ⟨bs, e, -⟩ := s.takeIn_frame c f; rw [e]

/-! Posted writes. -/

/-- What a posted write does: it joins the writes in flight, due when its latency has passed, and nothing else changes. -/
theorem State.post_eq (s : State) (lat : Nat) (w : RegWrite) (fl : Lane) :
    s.post lat w fl = { s with fg := { s.fg with pend := insPend ⟨s.fg.dist + lat, s.col, w, fl⟩ s.fg.pend } } := rfl
theorem mem_insPend (x y : Pend) (l : List Pend) : y ∈ insPend x l ↔ y = x ∨ y ∈ l := by
  induction l with
  | nil => simp [insPend]
  | cons z r ih =>
    unfold insPend
    split
    · simp
    · simp only [List.mem_cons, ih]
      constructor
      · rintro (h | h | h) <;> simp [h]
      · rintro (h | h | h) <;> simp [h]
/-- A posted write is in flight. -/
theorem State.mem_post (s : State) (lat : Nat) (w : RegWrite) (fl : Lane) :
    ⟨s.fg.dist + lat, s.col, w, fl⟩ ∈ (s.post lat w fl).fg.pend :=
  (mem_insPend _ _ _).2 (.inl rfl)

/-! Writes of a bank: p0 and k0 take none (03 R56). -/

@[simp] theorem ColBank.write_p0 (b : ColBank) (x : Bool) : b.write (.p 0 x) = b := rfl
@[simp] theorem ColBank.write_k0 (b : ColBank) (m : Lane) : b.write (.k 0 m) = b := rfl
@[simp] theorem ColBank.p_zero (b : ColBank) : b.p 0 = true := rfl
@[simp] theorem ColBank.k_zero (b : ColBank) : b.k 0 = 0xFFFFFFFF := rfl
theorem ColBank.write_i_same (b : ColBank) {n : Nat} (w : Word) (h : n < 56) : (b.write (.i n w)).i n = w := by
  simp [ColBank.write, ColBank.i, h, vget_vset_same _ _ _ h]
theorem ColBank.write_v_same (b : ColBank) {n : Nat} (w : VWord) (h : n < 32) : (b.write (.v n w)).v n = w := by
  simp [ColBank.write, ColBank.v, vget_vset_same _ _ _ h]
theorem ColBank.write_p_same (b : ColBank) {n : Nat} (x : Bool) (h0 : n ≠ 0) (h : n < 16) : (b.write (.p n x)).p n = x := by
  simp [ColBank.write, ColBank.p, h0, vget_vset_same _ _ _ h]
theorem ColBank.write_k_same (b : ColBank) {n : Nat} (m : Lane) (h0 : n ≠ 0) (h : n < 8) : (b.write (.k n m)).k n = m := by
  simp [ColBank.write, ColBank.k, h0, vget_vset_same _ _ _ h]

/-! Lanes. -/

theorem lanesNat_lt (l : List Lane) : lanesNat l < 2 ^ (32 * l.length) := by
  induction l with
  | nil => simp [lanesNat]
  | cons x r ih =>
    simp only [lanesNat, List.length_cons]
    have hx := x.isLt
    have e : (2 : Nat) ^ (32 * (r.length + 1)) = 4294967296 * 2 ^ (32 * r.length) := by
      rw [show 32 * (r.length + 1) = 32 + 32 * r.length by omega, Nat.pow_add]
    rw [e]
    have h2 : lanesNat r + 1 ≤ 2 ^ (32 * r.length) := ih
    have h3 := Nat.mul_le_mul_left 4294967296 h2
    omega
theorem lanesNat_digit (l : List Lane) : ∀ n (h : n < l.length), lanesNat l / 2 ^ (32 * n) % 2 ^ 32 = (l[n]).toNat := by
  induction l with
  | nil => intro n h; simp at h
  | cons x r ih =>
    intro n h
    have hx := x.isLt
    cases n with
    | zero => simp only [lanesNat, Nat.mul_zero, Nat.pow_zero, Nat.div_one, List.getElem_cons_zero]; omega
    | succ n =>
      have := ih n (by simpa using h)
      simp only [lanesNat, List.getElem_cons_succ]
      rw [← this, show 32 * (n + 1) = 32 + 32 * n by omega, Nat.pow_add, ← Nat.div_div_eq_div_mul]
      congr 2
      omega
/-- Lane n of a vector made from 32 lanes. -/
theorem lane_ofLanes (l : List Lane) (h : l.length = 32) (n : Nat) (hn : n < 32) : lane (ofLanes l) n = l[n]'(by omega) := by
  apply BitVec.eq_of_toNat_eq
  have a := lanesNat_lt l
  rw [h] at a
  simp only [lane, ofLanes, BitVec.extractLsb'_toNat, BitVec.toNat_ofNat, Nat.shiftRight_eq_div_pow]
  rw [Nat.mod_eq_of_lt a]
  exact lanesNat_digit l n (by omega)
@[simp] theorem lanes_length (v : VWord) : (lanes v).length = 32 := by simp [lanes]
theorem lanes_getElem (v : VWord) (n : Nat) (h : n < (lanes v).length) : (lanes v)[n] = lane v n := by simp [lanes]
theorem lane_map1 (f : Lane → Lane) (x : VWord) {n : Nat} (h : n < 32) : lane (map1 f x) n = f (lane x n) := by
  rw [map1, lane_ofLanes _ (by simp) n h]; simp [lanes_getElem]
theorem lane_map2 (f : Lane → Lane → Lane) (x y : VWord) {n : Nat} (h : n < 32) :
    lane (map2 f x y) n = f (lane x n) (lane y n) := by
  rw [map2, lane_ofLanes _ (by simp) n h]; simp [lanes_getElem]
theorem lane_map3 (f : Lane → Lane → Lane → Lane) (x y z : VWord) {n : Nat} (h : n < 32) :
    lane (map3 f x y z) n = f (lane x n) (lane y n) (lane z n) := by
  rw [map3, lane_ofLanes _ (by simp) n h]; simp [lanes_getElem]

end Sys2Proof.Machine
end

