-- ==== Sys2Proof/Laws/Frame.lean ====
section
/-!
SUPPORT. What the shared operations of the words leave alone: at issue a word touches the words in link registers, the
writes in flight, the task's records of accesses, results and landings, and nothing else.
-/
namespace Sys2Proof.Machine

/-- Every register of a task but the words in its link registers. -/
def Task.Same (t u : Task) : Prop := ∀ c, ∃ q, u.bank c = { t.bank c with lq := q }

theorem Task.Same.refl (t : Task) : t.Same t := fun c => ⟨(t.bank c).lq, rfl⟩
theorem Task.Same.trans {a b c : Task} (h : a.Same b) (k : b.Same c) : a.Same c := by
  intro n
  obtain ⟨q, hq⟩ := h n
  obtain ⟨r, hr⟩ := k n
  exact ⟨r, by rw [hr, hq]⟩
theorem Task.Same.ofBanks {t u : Task} (h : u.banks = t.banks) : t.Same u := by
  intro c
  exact ⟨(t.bank c).lq, by simp only [Task.bank, h]⟩
theorem State.takeIn_same (s : State) (c : Nat) (f : RegF) : s.fg.Same (s.takeIn c f).2.fg := by
  intro d
  unfold State.takeIn
  dsimp only
  split
  · exact ⟨_, rfl⟩
  · by_cases h : d = c
    · subst h
      by_cases h4 : d < 4
      · refine ⟨((s.fg.bank d).pop ((s.fg.bank d).physI f - 56)).lq, ?_⟩
        simp [Task.bank, Task.setBank, vget_vset_same _ _ _ h4, ColBank.pop]
      · refine ⟨(s.fg.bank d).lq, ?_⟩
        rw [Task.setBank_out _ _ _ (by omega)]
    · refine ⟨(s.fg.bank d).lq, ?_⟩
      rw [Task.setBank_bank_other _ _ h]

/-! A register word: link FIFOs pop and writes are posted. -/

/-- Only link FIFOs and the writes in flight may differ. -/
def State.KeepsR (s t : State) : Prop :=
  (∃ bs pn, t = { s with fg := { s.fg with banks := bs, pend := pn } }) ∧ s.fg.Same t.fg

theorem State.KeepsR.refl (s : State) : s.KeepsR s := ⟨⟨s.fg.banks, s.fg.pend, rfl⟩, Task.Same.refl _⟩
theorem State.KeepsR.trans {a b c : State} (h : a.KeepsR b) (k : b.KeepsR c) : a.KeepsR c := by
  obtain ⟨⟨x, y, rfl⟩, h2⟩ := h
  obtain ⟨⟨z, w, rfl⟩, k2⟩ := k
  exact ⟨⟨z, w, rfl⟩, h2.trans k2⟩
theorem State.KeepsR.post {s t : State} (h : s.KeepsR t) (n : Nat) (w : RegWrite) (f : Lane) : s.KeepsR (t.post n w f) :=
  h.trans ⟨⟨t.fg.banks, _, rfl⟩, fun c => ⟨(t.fg.bank c).lq, rfl⟩⟩
theorem State.KeepsR.takeIn {s t : State} (h : s.KeepsR t) (c : Nat) (f : RegF) : s.KeepsR (t.takeIn c f).2 := by
  refine h.trans ⟨?_, t.takeIn_same c f⟩
  unfold State.takeIn
  dsimp only
  split
  · exact ⟨t.fg.banks, t.fg.pend, rfl⟩
  · exact ⟨_, t.fg.pend, rfl⟩
theorem State.KeepsR.takeI {s t : State} (h : s.KeepsR t) (f : RegF) : s.KeepsR (t.takeI f).2 := h.takeIn _ f
theorem State.KeepsR.putI {s t : State} (h : s.KeepsR t) (f : RegF) (n : Nat) (w : Word) : s.KeepsR (t.putI f n w) :=
  h.post _ _ _
theorem State.KeepsR.putV {s t : State} (h : s.KeepsR t) (f : RegF) (n : Nat) (w : VWord) (fl : Lane) :
    s.KeepsR (t.putV f n w fl) := h.post _ _ _
theorem State.KeepsR.putP {s t : State} (h : s.KeepsR t) (f : RegF) (w : Bool) : s.KeepsR (t.putP f w) := h.post _ _ _
theorem State.KeepsR.putCond {s t : State} (h : s.KeepsR t) (r : BitVec 1) (p : BitVec 4) (w : Bool) :
    s.KeepsR (t.putCond r p w) := h.post _ _ _
theorem State.KeepsR.when {s t : State} {g : Guard} {f : State → State} (e : s.when g f = .next t) (h : s.KeepsR (f s)) :
    s.KeepsR t := by
  unfold State.when at e
  cases e
  split
  · exact h
  · exact State.KeepsR.refl s

/-! A record word: besides, an access and a pending result are noted and the record enters the slip window. -/

/-- Only link FIFOs, pending results, accesses and landings of the task, the slip window of its unit, the agenda and the
number counter may differ. -/
def State.KeepsC (s t : State) : Prop :=
  (∃ bs rs ac ld us ag n, t = { s with
    fg := { s.fg with banks := bs, results := rs, accs := ac, land := ld }, units := us, agenda := ag, nid := n }) ∧
  s.fg.Same t.fg ∧ ∀ u, u ≠ s.fg.unit → t.unit u = s.unit u

theorem State.KeepsC.refl (s : State) : s.KeepsC s :=
  ⟨⟨s.fg.banks, s.fg.results, s.fg.accs, s.fg.land, s.units, s.agenda, s.nid, rfl⟩, Task.Same.refl _, fun _ _ => rfl⟩
theorem State.KeepsC.trans {a b c : State} (h : a.KeepsC b) (k : b.KeepsC c) : a.KeepsC c := by
  obtain ⟨⟨x1, x2, x3, x4, x5, x6, x7, rfl⟩, h2, h3⟩ := h
  obtain ⟨⟨y1, y2, y3, y4, y5, y6, y7, rfl⟩, k2, k3⟩ := k
  exact ⟨⟨y1, y2, y3, y4, y5, y6, y7, rfl⟩, h2.trans k2, fun u hu => (k3 u hu).trans (h3 u hu)⟩
theorem State.KeepsC.takeI {s t : State} (h : s.KeepsC t) (f : RegF) : s.KeepsC (t.takeI f).2 := by
  refine h.trans ⟨?_, t.takeIn_same _ f, fun u _ => ?_⟩
  · unfold State.takeI State.takeIn
    dsimp only
    split
    · exact ⟨t.fg.banks, t.fg.results, t.fg.accs, t.fg.land, t.units, t.agenda, t.nid, rfl⟩
    · exact ⟨_, t.fg.results, t.fg.accs, t.fg.land, t.units, t.agenda, t.nid, rfl⟩
  · unfold State.takeI State.takeIn
    dsimp only
    split <;> rfl
/-- An event joins the agenda, and nothing else happens. -/
theorem State.soon_eq (s : State) (e : Event) : ∃ l, s.soon e = { s with agenda := l } := by
  unfold State.soon
  split
  · exact ⟨s.agenda, rfl⟩
  · exact ⟨_, rfl⟩
theorem State.mem_soon (s : State) (e : Event) : e ∈ (s.soon e).agenda := by
  unfold State.soon
  split
  · simpa using ‹s.agenda.elem e = true›
  · simp
/-- A record is formed: the slip window of the task's unit grows by it, and its entry into a queue is due. -/
theorem State.KeepsC.formRec {s t : State} (h : s.KeepsC t) (i : Instr) (q : Queue) (a b p : Word) (x d : Nat) :
    s.KeepsC (t.formRec i q a b p x d) := by
  refine h.trans ?_
  unfold State.formRec State.fresh
  dsimp only
  obtain ⟨l, hl⟩ := State.soon_eq (State.mapUnit { t with nid := t.nid + 1 } t.fg.unit (fun x_1 =>
    { x_1 with slip := x_1.slip ++ [⟨t.nid, t.fg.key, t.col, i, a, b, p, State.staging { t with nid := t.nid + 1 } q,
      (State.unit { t with nid := t.nid + 1 } t.fg.unit).count, x, d, 0⟩] })) (.commandRecordEntry t.fg.unit q)
  rw [hl]
  refine ⟨⟨t.fg.banks, t.fg.results, t.fg.accs, t.fg.land, _, l, t.nid + 1, rfl⟩, Task.Same.refl _, fun u hu => ?_⟩
  exact fget_fset_other _ _ _ hu
theorem State.KeepsC.access {s t : State} (h : s.KeepsC t) (id c : Nat) (ld st : Bool) (o : Home) (a n : Nat) (v : List Byte) :
    s.KeepsC (t.access id c ld st o a n v) :=
  h.trans ⟨⟨t.fg.banks, t.fg.results, _, t.fg.land, t.units, t.agenda, t.nid, rfl⟩, Task.Same.refl _, fun _ _ => rfl⟩
theorem State.KeepsC.landing {s t : State} (h : s.KeepsC t) (id r o : Nat) : s.KeepsC (t.landing id r o) :=
  h.trans ⟨⟨t.fg.banks, t.fg.results, t.fg.accs, _, t.units, t.agenda, t.nid, rfl⟩, Task.Same.refl _, fun _ _ => rfl⟩
theorem State.KeepsC.fresh {s t : State} (h : s.KeepsC t) : s.KeepsC { t with nid := t.nid + 1 } :=
  h.trans ⟨⟨t.fg.banks, t.fg.results, t.fg.accs, t.fg.land, t.units, t.agenda, _, rfl⟩, Task.Same.refl _, fun _ _ => rfl⟩
theorem State.KeepsC.results {s t : State} (h : s.KeepsC t) (rs : List PendRes) :
    s.KeepsC { t with fg := { t.fg with results := rs } } :=
  h.trans ⟨⟨t.fg.banks, rs, t.fg.accs, t.fg.land, t.units, t.agenda, t.nid, rfl⟩, Task.Same.refl _, fun _ _ => rfl⟩
theorem State.KeepsC.when {s t : State} {g : Guard} {f : State → State} (e : s.when g f = .next t) (h : s.KeepsC (f s)) :
    s.KeepsC t := by
  unfold State.when at e
  cases e
  split
  · exact h
  · exact State.KeepsC.refl s

/-! Inherited classes (22 R365) touch nothing but the class a task inherits, and ask for scheduling points. -/

/-- Tasks equal but for the class they inherit; events may have joined the agenda. -/
def State.KeepsI (s t : State) : Prop :=
  ∃ n bg l, t = { s with fg := { s.fg with inherit := n }, bg := bg, agenda := l } ∧
    ∀ k, ∃ m, fget Task.zero bg k = { fget Task.zero s.bg k with inherit := m }

theorem State.KeepsI.refl (s : State) : s.KeepsI s := ⟨s.fg.inherit, s.bg, s.agenda, rfl, fun _ => ⟨_, rfl⟩⟩
theorem State.KeepsI.trans {a b c : State} (h : a.KeepsI b) (k : b.KeepsI c) : a.KeepsI c := by
  obtain ⟨n, g, _, rfl, hg⟩ := h
  obtain ⟨m, f, l, rfl, hf⟩ := k
  refine ⟨m, f, l, rfl, fun k => ?_⟩
  obtain ⟨x, hx⟩ := hf k
  obtain ⟨y, hy⟩ := hg k
  exact ⟨x, by rw [hx]; show { fget Task.zero g k with inherit := x } = _; rw [hy]⟩
theorem State.KeepsI.map {s t : State} (h : s.KeepsI t) (k : Nat) (f : Task → Nat) :
    s.KeepsI (t.mapTask k (fun x => { x with inherit := f x })) := by
  refine h.trans ?_
  unfold State.mapTask
  split
  · exact ⟨_, t.bg, t.agenda, rfl, fun _ => ⟨_, rfl⟩⟩
  · refine ⟨t.fg.inherit, _, t.agenda, rfl, fun j => ?_⟩
    by_cases hj : j = k
    · subst hj; rw [fget_fins_same]; exact ⟨_, rfl⟩
    · rw [fget_fins_other _ _ _ hj]; exact ⟨_, rfl⟩
theorem State.KeepsI.soon {s t : State} (h : s.KeepsI t) (e : Event) : s.KeepsI (t.soon e) := by
  obtain ⟨l, hl⟩ := t.soon_eq e
  rw [hl]
  exact h.trans ⟨_, t.bg, l, rfl, fun _ => ⟨_, rfl⟩⟩
theorem State.foldl_keepsI {α : Type} (l : List α) (f : State → α → State) (h : ∀ s t x, State.KeepsI s t → State.KeepsI s (f t x)) :
    ∀ s t, State.KeepsI s t → State.KeepsI s (l.foldl f t) := by
  induction l with
  | nil => intro s t k; exact k
  | cons x r ih => intro s t k; exact ih s (f t x) (h s t x k)
theorem State.inheritAll_keeps (s : State) : s.KeepsI s.inheritAll := by
  unfold State.inheritAll
  dsimp only
  refine State.foldl_keepsI _ _ ?_ _ _ (State.foldl_keepsI _ _ ?_ _ _ (State.foldl_keepsI _ _ ?_ _ _ (State.KeepsI.refl s)))
  · intro a b k h
    split
    · exact h
    · exact h.soon _
  · intro a b _ h
    unfold State.inheritOnce
    refine State.foldl_keepsI _ _ ?_ _ _ h
    intro a b k h
    dsimp only
    split
    · exact h
    · exact h.map _ _
  · intro a b k h
    exact h.map _ _

end Sys2Proof.Machine
end

