-- ==== Sys2Proof/Laws/PerInstr.lean ====
section
/-!
SUPPORT. One lemma per instruction for the family ReadBack: an instruction's own word, in its slot, decodes to the
instruction when it is well formed and is rejected for a reserved value when it is not (04 R83). An event has no word.
Before it, what bits and masks see of an encoded field.
-/
namespace Sys2Proof.Laws

set_option Elab.async false

/-- Bits of two words joined. -/
theorem bitsOf_or (a b : Lane) (lo n : Nat) : bitsOf (a ||| b) lo n = bitsOf a lo n ||| bitsOf b lo n := by
  simp [bitsOf, BitVec.extractLsb'_or]

/-- The bits of a field, at its own place, are the field. -/
theorem bitsOf_same {n : Nat} (x : BitVec n) (lo : Nat) (h : lo + n ≤ 32) : bitsOf (field x lo) lo n = x := by
  apply BitVec.eq_of_getLsbD_eq
  intro i hi
  have h1 : lo + i < 32 := by omega
  have h2 : ¬ lo + i < lo := by omega
  have h3 : lo + i - lo = i := by omega
  simp only [bitsOf, field, BitVec.getLsbD_extractLsb', BitVec.getLsbD_shiftLeft, BitVec.getLsbD_setWidth, hi, h1, h2, h3]
  have h4 : i < 32 := by omega
  simp [h4]

/-- Bits apart from a field see nothing of it. -/
theorem bitsOf_other {m : Nat} (x : BitVec m) (lo l n : Nat) (h : l + m ≤ lo ∨ lo + n ≤ l) : bitsOf (field x l) lo n = 0 := by
  apply BitVec.eq_of_getLsbD_eq
  intro i hi
  simp only [bitsOf, field, BitVec.getLsbD_extractLsb', BitVec.getLsbD_shiftLeft, BitVec.getLsbD_setWidth]
  rcases h with h | h
  · have : x.getLsbD (lo + i - l) = false := BitVec.getLsbD_of_ge x _ (by omega)
    simp [this]
  · have : lo + i < l := by omega
    simp [this]

/-- A mask that is 0 over a field takes all of it away. -/
theorem field_and {m : Nat} (x : BitVec m) (l : Nat) (k : Lane) (h : k.extractLsb' l m = 0) : field x l &&& k = 0 := by
  apply BitVec.eq_of_getLsbD_eq
  intro i hi
  simp only [field, BitVec.getLsbD_and, BitVec.getLsbD_shiftLeft, BitVec.getLsbD_setWidth]
  by_cases h1 : i < l
  · simp [h1]
  · by_cases h2 : i - l < m
    · have := congrArg (fun y => BitVec.getLsbD y (i - l)) h
      simp [h2] at this
      have e : l + (i - l) = i := by omega
      simp [e] at this
      simp [this]
    · have : x.getLsbD (i - l) = false := BitVec.getLsbD_of_ge x _ (by omega)
      simp [this]

/-- The opcode is the seven highest bits. -/
theorem opcodeOf_eq (w : Lane) : opcodeOf w = (bitsOf w 25 7).toNat := by
  simp only [opcodeOf, bitsOf, BitVec.extractLsb'_toNat, Nat.shiftRight_eq_div_pow]
  have := w.isLt
  omega

/-- A mask over two words joined. -/
theorem or_and (a b k : Lane) : (a ||| b) &&& k = a &&& k ||| b &&& k := by
  apply BitVec.eq_of_getLsbD_eq; intro i hi; simp [Bool.and_or_distrib_right]

/-- One bit as a field of one bit. -/
theorem bit_eq (w : Lane) (n : Nat) : w.getLsbD n = (bitsOf w n 1).getLsbD 0 := by simp [bitsOf]

namespace ReadBack

/-- An instruction is what its word decodes to in its slot, or is rejected there for a reserved value. -/
def Statement (i : Instr) : Prop :=
  ∀ sl, i.slot = some sl → decodeSlot sl (encode i) = if i.wf then .instr i else .rejected .reservedValue

theorem nop (g : BitVec 4) : Statement (.nop g) := by
  rintro _ ⟨⟩
  have opcode : opcodeOf (encode (.nop g)) = 0x00 := by
    simp (disch := decide) only [opcodeOf_eq, encode, bitsOf_or, bitsOf_other]; rfl
  simp only [decodeSlot, decodeC, opcode, decodeNop, rowOf]
  simp (disch := decide) only [encode, or_and, field_and, bitsOf_or, bitsOf_same]
  simp [bitsOf]
theorem br (g : BitVec 4) (d : BitVec 21) : Statement (.br g d) := by
  rintro _ ⟨⟩
  have opcode : opcodeOf (encode (.br g d)) = 0x01 := by
    simp (disch := decide) only [opcodeOf_eq, encode, bitsOf_or, bitsOf_other]; rfl
  simp only [decodeSlot, decodeC, opcode, rowOf]
  simp (disch := decide) only [encode, or_and, field_and, bitsOf_or, bitsOf_same, bitsOf_other]
  simp [bitsOf]
theorem brn (g : BitVec 4) (d : BitVec 21) : Statement (.brn g d) := by
  rintro _ ⟨⟩
  have opcode : opcodeOf (encode (.brn g d)) = 0x02 := by
    simp (disch := decide) only [opcodeOf_eq, encode, bitsOf_or, bitsOf_other]; rfl
  simp only [decodeSlot, decodeC, opcode, rowOf]
  simp (disch := decide) only [encode, or_and, field_and, bitsOf_or, bitsOf_same, bitsOf_other]
  simp [bitsOf]
theorem call (g : BitVec 4) (d : BitVec 21) : Statement (.call g d) := by
  rintro _ ⟨⟩
  have opcode : opcodeOf (encode (.call g d)) = 0x03 := by
    simp (disch := decide) only [opcodeOf_eq, encode, bitsOf_or, bitsOf_other]; rfl
  simp only [decodeSlot, decodeC, opcode, rowOf]
  simp (disch := decide) only [encode, or_and, field_and, bitsOf_or, bitsOf_same, bitsOf_other]
  simp [bitsOf]
theorem callr (g : BitVec 4) (a : BitVec 7) : Statement (.callr g a) := by
  rintro _ ⟨⟩
  have opcode : opcodeOf (encode (.callr g a)) = 0x04 := by
    simp (disch := decide) only [opcodeOf_eq, encode, bitsOf_or, bitsOf_other]; rfl
  simp only [decodeSlot, decodeC, opcode, rowOf]
  simp (disch := decide) only [encode, or_and, field_and, bitsOf_or, bitsOf_same, bitsOf_other]
  simp [bitsOf]
theorem jmpr (g : BitVec 4) (a : BitVec 7) : Statement (.jmpr g a) := by
  rintro _ ⟨⟩
  have opcode : opcodeOf (encode (.jmpr g a)) = 0x05 := by
    simp (disch := decide) only [opcodeOf_eq, encode, bitsOf_or, bitsOf_other]; rfl
  simp only [decodeSlot, decodeC, opcode, rowOf]
  simp (disch := decide) only [encode, or_and, field_and, bitsOf_or, bitsOf_same, bitsOf_other]
  simp [bitsOf]
theorem ret (g : BitVec 4) : Statement (.ret g) := by
  rintro _ ⟨⟩
  have opcode : opcodeOf (encode (.ret g)) = 0x06 := by
    simp (disch := decide) only [opcodeOf_eq, encode, bitsOf_or, bitsOf_other]; rfl
  simp only [decodeSlot, decodeC, opcode, rowOf]
  simp (disch := decide) only [encode, or_and, field_and, bitsOf_or, bitsOf_same]
  simp [bitsOf]
theorem loop (g : BitVec 4) (n : BitVec 2) (d : BitVec 19) : Statement (.loop g n d) := by
  rintro _ ⟨⟩
  have opcode : opcodeOf (encode (.loop g n d)) = 0x07 := by
    simp (disch := decide) only [opcodeOf_eq, encode, bitsOf_or, bitsOf_other]; rfl
  simp only [decodeSlot, decodeC, opcode, rowOf]
  simp (disch := decide) only [encode, or_and, field_and, bitsOf_or, bitsOf_same, bitsOf_other]
  simp [bitsOf]
theorem loopr (g : BitVec 4) (n : BitVec 2) (r : BitVec 3) (d : BitVec 16) : Statement (.loopr g n r d) := by
  rintro _ ⟨⟩
  have opcode : opcodeOf (encode (.loopr g n r d)) = 0x08 := by
    simp (disch := decide) only [opcodeOf_eq, encode, bitsOf_or, bitsOf_other]; rfl
  simp only [decodeSlot, decodeC, opcode, rowOf]
  simp (disch := decide) only [encode, or_and, field_and, bitsOf_or, bitsOf_same, bitsOf_other]
  simp [bitsOf]
theorem lexit (g : BitVec 4) (n : BitVec 2) (d : BitVec 19) : Statement (.lexit g n d) := by
  rintro _ ⟨⟩
  have opcode : opcodeOf (encode (.lexit g n d)) = 0x09 := by
    simp (disch := decide) only [opcodeOf_eq, encode, bitsOf_or, bitsOf_other]; rfl
  simp only [decodeSlot, decodeC, opcode, rowOf]
  simp (disch := decide) only [encode, or_and, field_and, bitsOf_or, bitsOf_same, bitsOf_other]
  simp [bitsOf]
theorem pset (g : BitVec 4) (d : BitVec 7) (v : BitVec 7) : Statement (.pset g d v) := by
  rintro _ ⟨⟩
  have opcode : opcodeOf (encode (.pset g d v)) = 0x0A := by
    simp (disch := decide) only [opcodeOf_eq, encode, bitsOf_or, bitsOf_other]; rfl
  simp only [decodeSlot, decodeC, opcode, rowOf]
  simp (disch := decide) only [encode, or_and, field_and, bitsOf_or, bitsOf_same, bitsOf_other]
  simp [bitsOf]
theorem pand (g : BitVec 4) (d : BitVec 7) (a : BitVec 7) (b : BitVec 7) : Statement (.pand g d a b) := by
  rintro _ ⟨⟩
  have opcode : opcodeOf (encode (.pand g d a b)) = 0x0B := by
    simp (disch := decide) only [opcodeOf_eq, encode, bitsOf_or, bitsOf_other]; rfl
  simp only [decodeSlot, decodeC, opcode, rowOf]
  simp (disch := decide) only [encode, or_and, field_and, bitsOf_or, bitsOf_same, bitsOf_other]
  simp [bitsOf]
theorem por (g : BitVec 4) (d : BitVec 7) (a : BitVec 7) (b : BitVec 7) : Statement (.por g d a b) := by
  rintro _ ⟨⟩
  have opcode : opcodeOf (encode (.por g d a b)) = 0x0C := by
    simp (disch := decide) only [opcodeOf_eq, encode, bitsOf_or, bitsOf_other]; rfl
  simp only [decodeSlot, decodeC, opcode, rowOf]
  simp (disch := decide) only [encode, or_and, field_and, bitsOf_or, bitsOf_same, bitsOf_other]
  simp [bitsOf]
theorem pxor (g : BitVec 4) (d : BitVec 7) (a : BitVec 7) (b : BitVec 7) : Statement (.pxor g d a b) := by
  rintro _ ⟨⟩
  have opcode : opcodeOf (encode (.pxor g d a b)) = 0x0D := by
    simp (disch := decide) only [opcodeOf_eq, encode, bitsOf_or, bitsOf_other]; rfl
  simp only [decodeSlot, decodeC, opcode, rowOf]
  simp (disch := decide) only [encode, or_and, field_and, bitsOf_or, bitsOf_same, bitsOf_other]
  simp [bitsOf]
theorem pnot (g : BitVec 4) (d : BitVec 7) (a : BitVec 7) : Statement (.pnot g d a) := by
  rintro _ ⟨⟩
  have opcode : opcodeOf (encode (.pnot g d a)) = 0x0E := by
    simp (disch := decide) only [opcodeOf_eq, encode, bitsOf_or, bitsOf_other]; rfl
  simp only [decodeSlot, decodeC, opcode, rowOf]
  simp (disch := decide) only [encode, or_and, field_and, bitsOf_or, bitsOf_same, bitsOf_other]
  simp [bitsOf]
theorem pandn (g : BitVec 4) (d : BitVec 7) (a : BitVec 7) (b : BitVec 7) : Statement (.pandn g d a b) := by
  rintro _ ⟨⟩
  have opcode : opcodeOf (encode (.pandn g d a b)) = 0x0F := by
    simp (disch := decide) only [opcodeOf_eq, encode, bitsOf_or, bitsOf_other]; rfl
  simp only [decodeSlot, decodeC, opcode, rowOf]
  simp (disch := decide) only [encode, or_and, field_and, bitsOf_or, bitsOf_same, bitsOf_other]
  simp [bitsOf]
theorem trap (g : BitVec 4) (c : BitVec 8) : Statement (.trap g c) := by
  rintro _ ⟨⟩
  have opcode : opcodeOf (encode (.trap g c)) = 0x10 := by
    simp (disch := decide) only [opcodeOf_eq, encode, bitsOf_or, bitsOf_other]; rfl
  simp only [decodeSlot, decodeC, opcode, rowOf]
  simp (disch := decide) only [encode, or_and, field_and, bitsOf_or, bitsOf_same, bitsOf_other]
  simp [bitsOf]
theorem eret (g : BitVec 4) : Statement (.eret g) := by
  rintro _ ⟨⟩
  have opcode : opcodeOf (encode (.eret g)) = 0x11 := by
    simp (disch := decide) only [opcodeOf_eq, encode, bitsOf_or, bitsOf_other]; rfl
  simp only [decodeSlot, decodeC, opcode, rowOf]
  simp (disch := decide) only [encode, or_and, field_and, bitsOf_or, bitsOf_same]
  simp [bitsOf]
theorem bkpt (g : BitVec 4) (c : BitVec 8) : Statement (.bkpt g c) := by
  rintro _ ⟨⟩
  have opcode : opcodeOf (encode (.bkpt g c)) = 0x12 := by
    simp (disch := decide) only [opcodeOf_eq, encode, bitsOf_or, bitsOf_other]; rfl
  simp only [decodeSlot, decodeC, opcode, rowOf]
  simp (disch := decide) only [encode, or_and, field_and, bitsOf_or, bitsOf_same, bitsOf_other]
  simp [bitsOf]
theorem fencec (g : BitVec 4) (m : BitVec 16) : Statement (.fencec g m) := by
  rintro _ ⟨⟩
  have opcode : opcodeOf (encode (.fencec g m)) = 0x13 := by
    simp (disch := decide) only [opcodeOf_eq, encode, bitsOf_or, bitsOf_other]; rfl
  simp only [decodeSlot, decodeC, opcode, rowOf]
  simp (disch := decide) only [encode, or_and, field_and, bitsOf_or, bitsOf_same, bitsOf_other]
  simp [bitsOf]
theorem fencesc (g : BitVec 4) (sc : BitVec 3) : Statement (.fencesc g sc) := by
  rintro _ ⟨⟩
  have opcode : opcodeOf (encode (.fencesc g sc)) = 0x14 := by
    simp (disch := decide) only [opcodeOf_eq, encode, bitsOf_or, bitsOf_other]; rfl
  simp only [decodeSlot, decodeC, opcode, rowOf]
  simp (disch := decide) only [encode, or_and, field_and, bitsOf_or, bitsOf_same, bitsOf_other]
  simp [bitsOf]
theorem getln (g : BitVec 4) (d : BitVec 7) : Statement (.getln g d) := by
  rintro _ ⟨⟩
  have opcode : opcodeOf (encode (.getln g d)) = 0x15 := by
    simp (disch := decide) only [opcodeOf_eq, encode, bitsOf_or, bitsOf_other]; rfl
  simp only [decodeSlot, decodeC, opcode, rowOf]
  simp (disch := decide) only [encode, or_and, field_and, bitsOf_or, bitsOf_same, bitsOf_other]
  simp [bitsOf]
theorem setln (g : BitVec 4) (a : BitVec 7) : Statement (.setln g a) := by
  rintro _ ⟨⟩
  have opcode : opcodeOf (encode (.setln g a)) = 0x16 := by
    simp (disch := decide) only [opcodeOf_eq, encode, bitsOf_or, bitsOf_other]; rfl
  simp only [decodeSlot, decodeC, opcode, rowOf]
  simp (disch := decide) only [encode, or_and, field_and, bitsOf_or, bitsOf_same, bitsOf_other]
  simp [bitsOf]
theorem halt (g : BitVec 4) : Statement (.halt g) := by
  rintro _ ⟨⟩
  have opcode : opcodeOf (encode (.halt g)) = 0x17 := by
    simp (disch := decide) only [opcodeOf_eq, encode, bitsOf_or, bitsOf_other]; rfl
  simp only [decodeSlot, decodeC, opcode, rowOf]
  simp (disch := decide) only [encode, or_and, field_and, bitsOf_or, bitsOf_same]
  simp [bitsOf]
theorem exit (g : BitVec 4) : Statement (.exit g) := by
  rintro _ ⟨⟩
  have opcode : opcodeOf (encode (.exit g)) = 0x30 := by
    simp (disch := decide) only [opcodeOf_eq, encode, bitsOf_or, bitsOf_other]; rfl
  simp only [decodeSlot, decodeC, opcode, rowOf]
  simp (disch := decide) only [encode, or_and, field_and, bitsOf_or, bitsOf_same]
  simp [bitsOf]
theorem yield (g : BitVec 4) : Statement (.yield g) := by
  rintro _ ⟨⟩
  have opcode : opcodeOf (encode (.yield g)) = 0x31 := by
    simp (disch := decide) only [opcodeOf_eq, encode, bitsOf_or, bitsOf_other]; rfl
  simp only [decodeSlot, decodeC, opcode, rowOf]
  simp (disch := decide) only [encode, or_and, field_and, bitsOf_or, bitsOf_same]
  simp [bitsOf]
theorem bar (g : BitVec 4) (sc : BitVec 3) : Statement (.bar g sc) := by
  rintro _ ⟨⟩
  have opcode : opcodeOf (encode (.bar g sc)) = 0x32 := by
    simp (disch := decide) only [opcodeOf_eq, encode, bitsOf_or, bitsOf_other]; rfl
  simp only [decodeSlot, decodeC, opcode, rowOf]
  simp (disch := decide) only [encode, or_and, field_and, bitsOf_or, bitsOf_same, bitsOf_other]
  simp [bitsOf]
theorem waitv (g : BitVec 4) (a : BitVec 7) (b : BitVec 7) : Statement (.waitv g a b) := by
  rintro _ ⟨⟩
  have opcode : opcodeOf (encode (.waitv g a b)) = 0x33 := by
    simp (disch := decide) only [opcodeOf_eq, encode, bitsOf_or, bitsOf_other]; rfl
  simp only [decodeSlot, decodeC, opcode, rowOf]
  simp (disch := decide) only [encode, or_and, field_and, bitsOf_or, bitsOf_same, bitsOf_other]
  simp [bitsOf]
theorem waitt (g : BitVec 4) (d : BitVec 7) (a : BitVec 7) (b : BitVec 7) : Statement (.waitt g d a b) := by
  rintro _ ⟨⟩
  have opcode : opcodeOf (encode (.waitt g d a b)) = 0x34 := by
    simp (disch := decide) only [opcodeOf_eq, encode, bitsOf_or, bitsOf_other]; rfl
  simp only [decodeSlot, decodeC, opcode, rowOf]
  simp (disch := decide) only [encode, or_and, field_and, bitsOf_or, bitsOf_same, bitsOf_other]
  simp [bitsOf]
theorem lock (g : BitVec 4) (a : BitVec 7) : Statement (.lock g a) := by
  rintro _ ⟨⟩
  have opcode : opcodeOf (encode (.lock g a)) = 0x35 := by
    simp (disch := decide) only [opcodeOf_eq, encode, bitsOf_or, bitsOf_other]; rfl
  simp only [decodeSlot, decodeC, opcode, rowOf]
  simp (disch := decide) only [encode, or_and, field_and, bitsOf_or, bitsOf_same, bitsOf_other]
  simp [bitsOf]
theorem unlock (g : BitVec 4) (a : BitVec 7) : Statement (.unlock g a) := by
  rintro _ ⟨⟩
  have opcode : opcodeOf (encode (.unlock g a)) = 0x36 := by
    simp (disch := decide) only [opcodeOf_eq, encode, bitsOf_or, bitsOf_other]; rfl
  simp only [decodeSlot, decodeC, opcode, rowOf]
  simp (disch := decide) only [encode, or_and, field_and, bitsOf_or, bitsOf_same, bitsOf_other]
  simp [bitsOf]
theorem tkwait (g : BitVec 4) (a : BitVec 7) (b : BitVec 7) : Statement (.tkwait g a b) := by
  rintro _ ⟨⟩
  have opcode : opcodeOf (encode (.tkwait g a b)) = 0x37 := by
    simp (disch := decide) only [opcodeOf_eq, encode, bitsOf_or, bitsOf_other]; rfl
  simp only [decodeSlot, decodeC, opcode, rowOf]
  simp (disch := decide) only [encode, or_and, field_and, bitsOf_or, bitsOf_same, bitsOf_other]
  simp [bitsOf]
theorem sstep (g : BitVec 4) (sc : BitVec 3) : Statement (.sstep g sc) := by
  rintro _ ⟨⟩
  have opcode : opcodeOf (encode (.sstep g sc)) = 0x38 := by
    simp (disch := decide) only [opcodeOf_eq, encode, bitsOf_or, bitsOf_other]; rfl
  simp only [decodeSlot, decodeC, opcode, rowOf]
  simp (disch := decide) only [encode, or_and, field_and, bitsOf_or, bitsOf_same, bitsOf_other]
  simp [bitsOf]
theorem prio (g : BitVec 4) (im : BitVec 7) : Statement (.prio g im) := by
  rintro _ ⟨⟩
  have opcode : opcodeOf (encode (.prio g im)) = 0x39 := by
    simp (disch := decide) only [opcodeOf_eq, encode, bitsOf_or, bitsOf_other]; rfl
  simp only [decodeSlot, decodeC, opcode, rowOf]
  simp (disch := decide) only [encode, or_and, field_and, bitsOf_or, bitsOf_same, bitsOf_other]
  simp [bitsOf]
theorem gettime (g : BitVec 4) (d : BitVec 7) : Statement (.gettime g d) := by
  rintro _ ⟨⟩
  have opcode : opcodeOf (encode (.gettime g d)) = 0x3A := by
    simp (disch := decide) only [opcodeOf_eq, encode, bitsOf_or, bitsOf_other]; rfl
  simp only [decodeSlot, decodeC, opcode, rowOf]
  simp (disch := decide) only [encode, or_and, field_and, bitsOf_or, bitsOf_same, bitsOf_other]
  simp [bitsOf]
theorem dlinfo (g : BitVec 4) (d : BitVec 7) (sc : BitVec 2) : Statement (.dlinfo g d sc) := by
  rintro _ ⟨⟩
  have opcode : opcodeOf (encode (.dlinfo g d sc)) = 0x3B := by
    simp (disch := decide) only [opcodeOf_eq, encode, bitsOf_or, bitsOf_other]; rfl
  simp only [decodeSlot, decodeC, opcode, rowOf]
  simp (disch := decide) only [encode, or_and, field_and, bitsOf_or, bitsOf_same, bitsOf_other]
  simp [bitsOf]
theorem valid (g : BitVec 4) (c : BitVec 2) (a : BitVec 7) : Statement (.valid g c a) := by
  rintro _ ⟨⟩
  have opcode : opcodeOf (encode (.valid g c a)) = 0x3C := by
    simp (disch := decide) only [opcodeOf_eq, encode, bitsOf_or, bitsOf_other]; rfl
  simp only [decodeSlot, decodeC, opcode, rowOf]
  simp (disch := decide) only [encode, or_and, field_and, bitsOf_or, bitsOf_same, bitsOf_other]
  simp [bitsOf]
theorem wobj (g : BitVec 4) (a : BitVec 7) : Statement (.wobj g a) := by
  rintro _ ⟨⟩
  have opcode : opcodeOf (encode (.wobj g a)) = 0x3D := by
    simp (disch := decide) only [opcodeOf_eq, encode, bitsOf_or, bitsOf_other]; rfl
  simp only [decodeSlot, decodeC, opcode, rowOf]
  simp (disch := decide) only [encode, or_and, field_and, bitsOf_or, bitsOf_same, bitsOf_other]
  simp [bitsOf]
theorem wdrop (g : BitVec 4) (a : BitVec 7) : Statement (.wdrop g a) := by
  rintro _ ⟨⟩
  have opcode : opcodeOf (encode (.wdrop g a)) = 0x3E := by
    simp (disch := decide) only [opcodeOf_eq, encode, bitsOf_or, bitsOf_other]; rfl
  simp only [decodeSlot, decodeC, opcode, rowOf]
  simp (disch := decide) only [encode, or_and, field_and, bitsOf_or, bitsOf_same, bitsOf_other]
  simp [bitsOf]
theorem add (g : BitVec 4) (d : BitVec 7) (a : BitVec 7) (b : BitVec 7) : Statement (.add g d a b) := by
  rintro _ ⟨⟩
  have opcode : opcodeOf (encode (.add g d a b)) = 0x01 := by
    simp (disch := decide) only [opcodeOf_eq, encode, bitsOf_or, bitsOf_other]; rfl
  simp only [decodeSlot, decodeI, opcode, rowOf]
  simp (disch := decide) only [encode, or_and, field_and, bitsOf_or, bitsOf_same, bitsOf_other]
  simp [bitsOf]
theorem addi (g : BitVec 4) (d : BitVec 7) (a : BitVec 7) (im : BitVec 7) : Statement (.addi g d a im) := by
  rintro _ ⟨⟩
  have opcode : opcodeOf (encode (.addi g d a im)) = 0x02 := by
    simp (disch := decide) only [opcodeOf_eq, encode, bitsOf_or, bitsOf_other]; rfl
  simp only [decodeSlot, decodeI, opcode, rowOf]
  simp (disch := decide) only [encode, or_and, field_and, bitsOf_or, bitsOf_same, bitsOf_other]
  simp [bitsOf]
theorem sub (g : BitVec 4) (d : BitVec 7) (a : BitVec 7) (b : BitVec 7) : Statement (.sub g d a b) := by
  rintro _ ⟨⟩
  have opcode : opcodeOf (encode (.sub g d a b)) = 0x03 := by
    simp (disch := decide) only [opcodeOf_eq, encode, bitsOf_or, bitsOf_other]; rfl
  simp only [decodeSlot, decodeI, opcode, rowOf]
  simp (disch := decide) only [encode, or_and, field_and, bitsOf_or, bitsOf_same, bitsOf_other]
  simp [bitsOf]
theorem mul (g : BitVec 4) (d : BitVec 7) (a : BitVec 7) (b : BitVec 7) : Statement (.mul g d a b) := by
  rintro _ ⟨⟩
  have opcode : opcodeOf (encode (.mul g d a b)) = 0x04 := by
    simp (disch := decide) only [opcodeOf_eq, encode, bitsOf_or, bitsOf_other]; rfl
  simp only [decodeSlot, decodeI, opcode, rowOf]
  simp (disch := decide) only [encode, or_and, field_and, bitsOf_or, bitsOf_same, bitsOf_other]
  simp [bitsOf]
theorem mulh (g : BitVec 4) (d : BitVec 7) (a : BitVec 7) (b : BitVec 7) : Statement (.mulh g d a b) := by
  rintro _ ⟨⟩
  have opcode : opcodeOf (encode (.mulh g d a b)) = 0x05 := by
    simp (disch := decide) only [opcodeOf_eq, encode, bitsOf_or, bitsOf_other]; rfl
  simp only [decodeSlot, decodeI, opcode, rowOf]
  simp (disch := decide) only [encode, or_and, field_and, bitsOf_or, bitsOf_same, bitsOf_other]
  simp [bitsOf]
theorem mulhu (g : BitVec 4) (d : BitVec 7) (a : BitVec 7) (b : BitVec 7) : Statement (.mulhu g d a b) := by
  rintro _ ⟨⟩
  have opcode : opcodeOf (encode (.mulhu g d a b)) = 0x06 := by
    simp (disch := decide) only [opcodeOf_eq, encode, bitsOf_or, bitsOf_other]; rfl
  simp only [decodeSlot, decodeI, opcode, rowOf]
  simp (disch := decide) only [encode, or_and, field_and, bitsOf_or, bitsOf_same, bitsOf_other]
  simp [bitsOf]
theorem div (g : BitVec 4) (d : BitVec 7) (a : BitVec 7) (b : BitVec 7) : Statement (.div g d a b) := by
  rintro _ ⟨⟩
  have opcode : opcodeOf (encode (.div g d a b)) = 0x07 := by
    simp (disch := decide) only [opcodeOf_eq, encode, bitsOf_or, bitsOf_other]; rfl
  simp only [decodeSlot, decodeI, opcode, rowOf]
  simp (disch := decide) only [encode, or_and, field_and, bitsOf_or, bitsOf_same, bitsOf_other]
  simp [bitsOf]
theorem divu (g : BitVec 4) (d : BitVec 7) (a : BitVec 7) (b : BitVec 7) : Statement (.divu g d a b) := by
  rintro _ ⟨⟩
  have opcode : opcodeOf (encode (.divu g d a b)) = 0x08 := by
    simp (disch := decide) only [opcodeOf_eq, encode, bitsOf_or, bitsOf_other]; rfl
  simp only [decodeSlot, decodeI, opcode, rowOf]
  simp (disch := decide) only [encode, or_and, field_and, bitsOf_or, bitsOf_same, bitsOf_other]
  simp [bitsOf]
theorem rem (g : BitVec 4) (d : BitVec 7) (a : BitVec 7) (b : BitVec 7) : Statement (.rem g d a b) := by
  rintro _ ⟨⟩
  have opcode : opcodeOf (encode (.rem g d a b)) = 0x09 := by
    simp (disch := decide) only [opcodeOf_eq, encode, bitsOf_or, bitsOf_other]; rfl
  simp only [decodeSlot, decodeI, opcode, rowOf]
  simp (disch := decide) only [encode, or_and, field_and, bitsOf_or, bitsOf_same, bitsOf_other]
  simp [bitsOf]
theorem remu (g : BitVec 4) (d : BitVec 7) (a : BitVec 7) (b : BitVec 7) : Statement (.remu g d a b) := by
  rintro _ ⟨⟩
  have opcode : opcodeOf (encode (.remu g d a b)) = 0x0A := by
    simp (disch := decide) only [opcodeOf_eq, encode, bitsOf_or, bitsOf_other]; rfl
  simp only [decodeSlot, decodeI, opcode, rowOf]
  simp (disch := decide) only [encode, or_and, field_and, bitsOf_or, bitsOf_same, bitsOf_other]
  simp [bitsOf]
theorem and (g : BitVec 4) (d : BitVec 7) (a : BitVec 7) (b : BitVec 7) : Statement (.and g d a b) := by
  rintro _ ⟨⟩
  have opcode : opcodeOf (encode (.and g d a b)) = 0x0B := by
    simp (disch := decide) only [opcodeOf_eq, encode, bitsOf_or, bitsOf_other]; rfl
  simp only [decodeSlot, decodeI, opcode, rowOf]
  simp (disch := decide) only [encode, or_and, field_and, bitsOf_or, bitsOf_same, bitsOf_other]
  simp [bitsOf]
theorem andi (g : BitVec 4) (d : BitVec 7) (a : BitVec 7) (im : BitVec 7) : Statement (.andi g d a im) := by
  rintro _ ⟨⟩
  have opcode : opcodeOf (encode (.andi g d a im)) = 0x0C := by
    simp (disch := decide) only [opcodeOf_eq, encode, bitsOf_or, bitsOf_other]; rfl
  simp only [decodeSlot, decodeI, opcode, rowOf]
  simp (disch := decide) only [encode, or_and, field_and, bitsOf_or, bitsOf_same, bitsOf_other]
  simp [bitsOf]
theorem or (g : BitVec 4) (d : BitVec 7) (a : BitVec 7) (b : BitVec 7) : Statement (.or g d a b) := by
  rintro _ ⟨⟩
  have opcode : opcodeOf (encode (.or g d a b)) = 0x0D := by
    simp (disch := decide) only [opcodeOf_eq, encode, bitsOf_or, bitsOf_other]; rfl
  simp only [decodeSlot, decodeI, opcode, rowOf]
  simp (disch := decide) only [encode, or_and, field_and, bitsOf_or, bitsOf_same, bitsOf_other]
  simp [bitsOf]
theorem ori (g : BitVec 4) (d : BitVec 7) (a : BitVec 7) (im : BitVec 7) : Statement (.ori g d a im) := by
  rintro _ ⟨⟩
  have opcode : opcodeOf (encode (.ori g d a im)) = 0x0E := by
    simp (disch := decide) only [opcodeOf_eq, encode, bitsOf_or, bitsOf_other]; rfl
  simp only [decodeSlot, decodeI, opcode, rowOf]
  simp (disch := decide) only [encode, or_and, field_and, bitsOf_or, bitsOf_same, bitsOf_other]
  simp [bitsOf]
theorem xor (g : BitVec 4) (d : BitVec 7) (a : BitVec 7) (b : BitVec 7) : Statement (.xor g d a b) := by
  rintro _ ⟨⟩
  have opcode : opcodeOf (encode (.xor g d a b)) = 0x0F := by
    simp (disch := decide) only [opcodeOf_eq, encode, bitsOf_or, bitsOf_other]; rfl
  simp only [decodeSlot, decodeI, opcode, rowOf]
  simp (disch := decide) only [encode, or_and, field_and, bitsOf_or, bitsOf_same, bitsOf_other]
  simp [bitsOf]
theorem xori (g : BitVec 4) (d : BitVec 7) (a : BitVec 7) (im : BitVec 7) : Statement (.xori g d a im) := by
  rintro _ ⟨⟩
  have opcode : opcodeOf (encode (.xori g d a im)) = 0x10 := by
    simp (disch := decide) only [opcodeOf_eq, encode, bitsOf_or, bitsOf_other]; rfl
  simp only [decodeSlot, decodeI, opcode, rowOf]
  simp (disch := decide) only [encode, or_and, field_and, bitsOf_or, bitsOf_same, bitsOf_other]
  simp [bitsOf]
theorem shl (g : BitVec 4) (d : BitVec 7) (a : BitVec 7) (b : BitVec 7) : Statement (.shl g d a b) := by
  rintro _ ⟨⟩
  have opcode : opcodeOf (encode (.shl g d a b)) = 0x11 := by
    simp (disch := decide) only [opcodeOf_eq, encode, bitsOf_or, bitsOf_other]; rfl
  simp only [decodeSlot, decodeI, opcode, rowOf]
  simp (disch := decide) only [encode, or_and, field_and, bitsOf_or, bitsOf_same, bitsOf_other]
  simp [bitsOf]
theorem shli (g : BitVec 4) (d : BitVec 7) (a : BitVec 7) (im : BitVec 7) : Statement (.shli g d a im) := by
  rintro _ ⟨⟩
  have opcode : opcodeOf (encode (.shli g d a im)) = 0x12 := by
    simp (disch := decide) only [opcodeOf_eq, encode, bitsOf_or, bitsOf_other]; rfl
  simp only [decodeSlot, decodeI, opcode, rowOf]
  simp (disch := decide) only [encode, or_and, field_and, bitsOf_or, bitsOf_same, bitsOf_other]
  simp [bitsOf]
theorem shr (g : BitVec 4) (d : BitVec 7) (a : BitVec 7) (b : BitVec 7) : Statement (.shr g d a b) := by
  rintro _ ⟨⟩
  have opcode : opcodeOf (encode (.shr g d a b)) = 0x13 := by
    simp (disch := decide) only [opcodeOf_eq, encode, bitsOf_or, bitsOf_other]; rfl
  simp only [decodeSlot, decodeI, opcode, rowOf]
  simp (disch := decide) only [encode, or_and, field_and, bitsOf_or, bitsOf_same, bitsOf_other]
  simp [bitsOf]
theorem shri (g : BitVec 4) (d : BitVec 7) (a : BitVec 7) (im : BitVec 7) : Statement (.shri g d a im) := by
  rintro _ ⟨⟩
  have opcode : opcodeOf (encode (.shri g d a im)) = 0x14 := by
    simp (disch := decide) only [opcodeOf_eq, encode, bitsOf_or, bitsOf_other]; rfl
  simp only [decodeSlot, decodeI, opcode, rowOf]
  simp (disch := decide) only [encode, or_and, field_and, bitsOf_or, bitsOf_same, bitsOf_other]
  simp [bitsOf]
theorem sar (g : BitVec 4) (d : BitVec 7) (a : BitVec 7) (b : BitVec 7) : Statement (.sar g d a b) := by
  rintro _ ⟨⟩
  have opcode : opcodeOf (encode (.sar g d a b)) = 0x15 := by
    simp (disch := decide) only [opcodeOf_eq, encode, bitsOf_or, bitsOf_other]; rfl
  simp only [decodeSlot, decodeI, opcode, rowOf]
  simp (disch := decide) only [encode, or_and, field_and, bitsOf_or, bitsOf_same, bitsOf_other]
  simp [bitsOf]
theorem sari (g : BitVec 4) (d : BitVec 7) (a : BitVec 7) (im : BitVec 7) : Statement (.sari g d a im) := by
  rintro _ ⟨⟩
  have opcode : opcodeOf (encode (.sari g d a im)) = 0x16 := by
    simp (disch := decide) only [opcodeOf_eq, encode, bitsOf_or, bitsOf_other]; rfl
  simp only [decodeSlot, decodeI, opcode, rowOf]
  simp (disch := decide) only [encode, or_and, field_and, bitsOf_or, bitsOf_same, bitsOf_other]
  simp [bitsOf]
theorem min (g : BitVec 4) (d : BitVec 7) (a : BitVec 7) (b : BitVec 7) : Statement (.min g d a b) := by
  rintro _ ⟨⟩
  have opcode : opcodeOf (encode (.min g d a b)) = 0x17 := by
    simp (disch := decide) only [opcodeOf_eq, encode, bitsOf_or, bitsOf_other]; rfl
  simp only [decodeSlot, decodeI, opcode, rowOf]
  simp (disch := decide) only [encode, or_and, field_and, bitsOf_or, bitsOf_same, bitsOf_other]
  simp [bitsOf]
theorem max (g : BitVec 4) (d : BitVec 7) (a : BitVec 7) (b : BitVec 7) : Statement (.max g d a b) := by
  rintro _ ⟨⟩
  have opcode : opcodeOf (encode (.max g d a b)) = 0x18 := by
    simp (disch := decide) only [opcodeOf_eq, encode, bitsOf_or, bitsOf_other]; rfl
  simp only [decodeSlot, decodeI, opcode, rowOf]
  simp (disch := decide) only [encode, or_and, field_and, bitsOf_or, bitsOf_same, bitsOf_other]
  simp [bitsOf]
theorem minu (g : BitVec 4) (d : BitVec 7) (a : BitVec 7) (b : BitVec 7) : Statement (.minu g d a b) := by
  rintro _ ⟨⟩
  have opcode : opcodeOf (encode (.minu g d a b)) = 0x19 := by
    simp (disch := decide) only [opcodeOf_eq, encode, bitsOf_or, bitsOf_other]; rfl
  simp only [decodeSlot, decodeI, opcode, rowOf]
  simp (disch := decide) only [encode, or_and, field_and, bitsOf_or, bitsOf_same, bitsOf_other]
  simp [bitsOf]
theorem maxu (g : BitVec 4) (d : BitVec 7) (a : BitVec 7) (b : BitVec 7) : Statement (.maxu g d a b) := by
  rintro _ ⟨⟩
  have opcode : opcodeOf (encode (.maxu g d a b)) = 0x1A := by
    simp (disch := decide) only [opcodeOf_eq, encode, bitsOf_or, bitsOf_other]; rfl
  simp only [decodeSlot, decodeI, opcode, rowOf]
  simp (disch := decide) only [encode, or_and, field_and, bitsOf_or, bitsOf_same, bitsOf_other]
  simp [bitsOf]
theorem clz (g : BitVec 4) (d : BitVec 7) (a : BitVec 7) : Statement (.clz g d a) := by
  rintro _ ⟨⟩
  have opcode : opcodeOf (encode (.clz g d a)) = 0x1B := by
    simp (disch := decide) only [opcodeOf_eq, encode, bitsOf_or, bitsOf_other]; rfl
  simp only [decodeSlot, decodeI, opcode, rowOf]
  simp (disch := decide) only [encode, or_and, field_and, bitsOf_or, bitsOf_same, bitsOf_other]
  simp [bitsOf]
theorem popc (g : BitVec 4) (d : BitVec 7) (a : BitVec 7) : Statement (.popc g d a) := by
  rintro _ ⟨⟩
  have opcode : opcodeOf (encode (.popc g d a)) = 0x1C := by
    simp (disch := decide) only [opcodeOf_eq, encode, bitsOf_or, bitsOf_other]; rfl
  simp only [decodeSlot, decodeI, opcode, rowOf]
  simp (disch := decide) only [encode, or_and, field_and, bitsOf_or, bitsOf_same, bitsOf_other]
  simp [bitsOf]
theorem bfx (g : BitVec 4) (d : BitVec 7) (a : BitVec 7) (b : BitVec 7) : Statement (.bfx g d a b) := by
  rintro _ ⟨⟩
  have opcode : opcodeOf (encode (.bfx g d a b)) = 0x1D := by
    simp (disch := decide) only [opcodeOf_eq, encode, bitsOf_or, bitsOf_other]; rfl
  simp only [decodeSlot, decodeI, opcode, rowOf]
  simp (disch := decide) only [encode, or_and, field_and, bitsOf_or, bitsOf_same, bitsOf_other]
  simp [bitsOf]
theorem bfi (g : BitVec 4) (d : BitVec 7) (a : BitVec 7) (b : BitVec 7) : Statement (.bfi g d a b) := by
  rintro _ ⟨⟩
  have opcode : opcodeOf (encode (.bfi g d a b)) = 0x1E := by
    simp (disch := decide) only [opcodeOf_eq, encode, bitsOf_or, bitsOf_other]; rfl
  simp only [decodeSlot, decodeI, opcode, rowOf]
  simp (disch := decide) only [encode, or_and, field_and, bitsOf_or, bitsOf_same, bitsOf_other]
  simp [bitsOf]
theorem sel (g : BitVec 4) (d : BitVec 7) (a : BitVec 7) (b : BitVec 7) : Statement (.sel g d a b) := by
  rintro _ ⟨⟩
  have opcode : opcodeOf (encode (.sel g d a b)) = 0x1F := by
    simp (disch := decide) only [opcodeOf_eq, encode, bitsOf_or, bitsOf_other]; rfl
  simp only [decodeSlot, decodeI, opcode, rowOf]
  simp (disch := decide) only [encode, or_and, field_and, bitsOf_or, bitsOf_same, bitsOf_other]
  simp [bitsOf]
theorem cmp (g : BitVec 4) (r : BitVec 1) (c : BitVec 2) (p : BitVec 4) (a : BitVec 7) (b : BitVec 7) : Statement (.cmp g r c p a b) := by
  rintro _ ⟨⟩
  have opcode : opcodeOf (encode (.cmp g r c p a b)) = 0x20 := by
    simp (disch := decide) only [opcodeOf_eq, encode, bitsOf_or, bitsOf_other]; rfl
  simp only [decodeSlot, decodeI, opcode, rowOf]
  simp (disch := decide) only [encode, or_and, field_and, bitsOf_or, bitsOf_same, bitsOf_other]
  simp [bitsOf]
theorem cmpi (g : BitVec 4) (r : BitVec 1) (c : BitVec 2) (p : BitVec 4) (a : BitVec 7) (im : BitVec 7) : Statement (.cmpi g r c p a im) := by
  rintro _ ⟨⟩
  have opcode : opcodeOf (encode (.cmpi g r c p a im)) = 0x21 := by
    simp (disch := decide) only [opcodeOf_eq, encode, bitsOf_or, bitsOf_other]; rfl
  simp only [decodeSlot, decodeI, opcode, rowOf]
  simp (disch := decide) only [encode, or_and, field_and, bitsOf_or, bitsOf_same, bitsOf_other]
  simp [bitsOf]
theorem li (g : BitVec 4) (d : BitVec 7) (im : BitVec 14) : Statement (.li g d im) := by
  rintro _ ⟨⟩
  have opcode : opcodeOf (encode (.li g d im)) = 0x22 := by
    simp (disch := decide) only [opcodeOf_eq, encode, bitsOf_or, bitsOf_other]; rfl
  simp only [decodeSlot, decodeI, opcode, rowOf]
  simp (disch := decide) only [encode, or_and, field_and, bitsOf_or, bitsOf_same, bitsOf_other]
  simp [bitsOf]
theorem lih (g : BitVec 4) (d : BitVec 7) (im : BitVec 14) : Statement (.lih g d im) := by
  rintro _ ⟨⟩
  have opcode : opcodeOf (encode (.lih g d im)) = 0x23 := by
    simp (disch := decide) only [opcodeOf_eq, encode, bitsOf_or, bitsOf_other]; rfl
  simp only [decodeSlot, decodeI, opcode, rowOf]
  simp (disch := decide) only [encode, or_and, field_and, bitsOf_or, bitsOf_same, bitsOf_other]
  simp [bitsOf]
theorem mov (g : BitVec 4) (d : BitVec 7) (a : BitVec 7) : Statement (.mov g d a) := by
  rintro _ ⟨⟩
  have opcode : opcodeOf (encode (.mov g d a)) = 0x24 := by
    simp (disch := decide) only [opcodeOf_eq, encode, bitsOf_or, bitsOf_other]; rfl
  simp only [decodeSlot, decodeI, opcode, rowOf]
  simp (disch := decide) only [encode, or_and, field_and, bitsOf_or, bitsOf_same, bitsOf_other]
  simp [bitsOf]
theorem moviv (g : BitVec 4) (d : BitVec 7) (a : BitVec 7) : Statement (.moviv g d a) := by
  rintro _ ⟨⟩
  have opcode : opcodeOf (encode (.moviv g d a)) = 0x25 := by
    simp (disch := decide) only [opcodeOf_eq, encode, bitsOf_or, bitsOf_other]; rfl
  simp only [decodeSlot, decodeI, opcode, rowOf]
  simp (disch := decide) only [encode, or_and, field_and, bitsOf_or, bitsOf_same, bitsOf_other]
  simp [bitsOf]
theorem movim (g : BitVec 4) (d : BitVec 7) (a : BitVec 7) : Statement (.movim g d a) := by
  rintro _ ⟨⟩
  have opcode : opcodeOf (encode (.movim g d a)) = 0x26 := by
    simp (disch := decide) only [opcodeOf_eq, encode, bitsOf_or, bitsOf_other]; rfl
  simp only [decodeSlot, decodeI, opcode, rowOf]
  simp (disch := decide) only [encode, or_and, field_and, bitsOf_or, bitsOf_same, bitsOf_other]
  simp [bitsOf]
theorem movie (g : BitVec 4) (d : BitVec 7) (a : BitVec 7) : Statement (.movie g d a) := by
  rintro _ ⟨⟩
  have opcode : opcodeOf (encode (.movie g d a)) = 0x27 := by
    simp (disch := decide) only [opcodeOf_eq, encode, bitsOf_or, bitsOf_other]; rfl
  simp only [decodeSlot, decodeI, opcode, rowOf]
  simp (disch := decide) only [encode, or_and, field_and, bitsOf_or, bitsOf_same, bitsOf_other]
  simp [bitsOf]
theorem setib (g : BitVec 4) (sc : BitVec 2) (a : BitVec 7) (im : BitVec 7) : Statement (.setib g sc a im) := by
  rintro _ ⟨⟩
  have opcode : opcodeOf (encode (.setib g sc a im)) = 0x28 := by
    simp (disch := decide) only [opcodeOf_eq, encode, bitsOf_or, bitsOf_other]; rfl
  simp only [decodeSlot, decodeI, opcode, rowOf]
  simp (disch := decide) only [encode, or_and, field_and, bitsOf_or, bitsOf_same, bitsOf_other]
  simp [bitsOf]
theorem getsr (g : BitVec 4) (d : BitVec 7) (im : BitVec 14) : Statement (.getsr g d im) := by
  rintro _ ⟨⟩
  have opcode : opcodeOf (encode (.getsr g d im)) = 0x29 := by
    simp (disch := decide) only [opcodeOf_eq, encode, bitsOf_or, bitsOf_other]; rfl
  simp only [decodeSlot, decodeI, opcode, rowOf]
  simp (disch := decide) only [encode, or_and, field_and, bitsOf_or, bitsOf_same, bitsOf_other]
  simp [bitsOf]
theorem setsr (g : BitVec 4) (d : BitVec 7) (im : BitVec 14) : Statement (.setsr g d im) := by
  rintro _ ⟨⟩
  have opcode : opcodeOf (encode (.setsr g d im)) = 0x2A := by
    simp (disch := decide) only [opcodeOf_eq, encode, bitsOf_or, bitsOf_other]; rfl
  simp only [decodeSlot, decodeI, opcode, rowOf]
  simp (disch := decide) only [encode, or_and, field_and, bitsOf_or, bitsOf_same, bitsOf_other]
  simp [bitsOf]
theorem agset (g : BitVec 4) (d : BitVec 7) (a : BitVec 7) (b : BitVec 7) : Statement (.agset g d a b) := by
  rintro _ ⟨⟩
  have opcode : opcodeOf (encode (.agset g d a b)) = 0x2B := by
    simp (disch := decide) only [opcodeOf_eq, encode, bitsOf_or, bitsOf_other]; rfl
  simp only [decodeSlot, decodeI, opcode, rowOf]
  simp (disch := decide) only [encode, or_and, field_and, bitsOf_or, bitsOf_same, bitsOf_other]
  simp [bitsOf]
theorem agpos (g : BitVec 4) (d : BitVec 7) (a : BitVec 7) : Statement (.agpos g d a) := by
  rintro _ ⟨⟩
  have opcode : opcodeOf (encode (.agpos g d a)) = 0x2C := by
    simp (disch := decide) only [opcodeOf_eq, encode, bitsOf_or, bitsOf_other]; rfl
  simp only [decodeSlot, decodeI, opcode, rowOf]
  simp (disch := decide) only [encode, or_and, field_and, bitsOf_or, bitsOf_same, bitsOf_other]
  simp [bitsOf]
theorem aginc (g : BitVec 4) (d : BitVec 7) (m : BitVec 4) (n : BitVec 7) : Statement (.aginc g d m n) := by
  rintro _ ⟨⟩
  have opcode : opcodeOf (encode (.aginc g d m n)) = 0x2D := by
    simp (disch := decide) only [opcodeOf_eq, encode, bitsOf_or, bitsOf_other]; rfl
  simp only [decodeSlot, decodeI, opcode, rowOf]
  simp (disch := decide) only [encode, or_and, field_and, bitsOf_or, bitsOf_same, bitsOf_other]
  simp [bitsOf]
theorem lds (g : BitVec 4) (l : BitVec 4) (a : BitVec 3) (o : BitVec 6) (c : BitVec 4) (n : BitVec 1) (sc : BitVec 2) : Statement (.lds g l a o c n sc) := by
  rintro _ ⟨⟩
  have opcode : opcodeOf (encode (.lds g l a o c n sc)) = 0x2E := by
    simp (disch := decide) only [opcodeOf_eq, encode, bitsOf_or, bitsOf_other]; rfl
  simp only [decodeSlot, decodeI, opcode, rowOf]
  simp (disch := decide) only [encode, or_and, field_and, bitsOf_or, bitsOf_same, bitsOf_other]
  simp [bitsOf]
theorem sts (g : BitVec 4) (r : BitVec 4) (a : BitVec 3) (c : BitVec 4) (n : BitVec 1) (sc : BitVec 2) : Statement (.sts g r a c n sc) := by
  rintro _ ⟨⟩
  have opcode : opcodeOf (encode (.sts g r a c n sc)) = 0x2F := by
    simp (disch := decide) only [opcodeOf_eq, encode, bitsOf_or, bitsOf_other]; rfl
  simp only [decodeSlot, decodeI, opcode, rowOf]
  simp (disch := decide) only [encode, or_and, field_and, bitsOf_or, bitsOf_same, bitsOf_other]
  simp [bitsOf]
theorem ldt (g : BitVec 4) (l : BitVec 4) (a : BitVec 3) (o : BitVec 6) (c : BitVec 4) (n : BitVec 1) (sc : BitVec 2) : Statement (.ldt g l a o c n sc) := by
  rintro _ ⟨⟩
  have opcode : opcodeOf (encode (.ldt g l a o c n sc)) = 0x30 := by
    simp (disch := decide) only [opcodeOf_eq, encode, bitsOf_or, bitsOf_other]; rfl
  simp only [decodeSlot, decodeI, opcode, rowOf]
  simp (disch := decide) only [encode, or_and, field_and, bitsOf_or, bitsOf_same, bitsOf_other]
  simp [bitsOf]
theorem stt (g : BitVec 4) (r : BitVec 4) (a : BitVec 3) (c : BitVec 4) (n : BitVec 1) (sc : BitVec 2) : Statement (.stt g r a c n sc) := by
  rintro _ ⟨⟩
  have opcode : opcodeOf (encode (.stt g r a c n sc)) = 0x31 := by
    simp (disch := decide) only [opcodeOf_eq, encode, bitsOf_or, bitsOf_other]; rfl
  simp only [decodeSlot, decodeI, opcode, rowOf]
  simp (disch := decide) only [encode, or_and, field_and, bitsOf_or, bitsOf_same, bitsOf_other]
  simp [bitsOf]
theorem ldd (g : BitVec 4) (l : BitVec 4) (a : BitVec 3) (o : BitVec 6) (c : BitVec 4) (n : BitVec 1) (sc : BitVec 2) : Statement (.ldd g l a o c n sc) := by
  rintro _ ⟨⟩
  have opcode : opcodeOf (encode (.ldd g l a o c n sc)) = 0x32 := by
    simp (disch := decide) only [opcodeOf_eq, encode, bitsOf_or, bitsOf_other]; rfl
  simp only [decodeSlot, decodeI, opcode, rowOf]
  simp (disch := decide) only [encode, or_and, field_and, bitsOf_or, bitsOf_same, bitsOf_other]
  simp [bitsOf]
theorem std (g : BitVec 4) (r : BitVec 4) (a : BitVec 3) (c : BitVec 4) (n : BitVec 1) (sc : BitVec 2) : Statement (.std g r a c n sc) := by
  rintro _ ⟨⟩
  have opcode : opcodeOf (encode (.std g r a c n sc)) = 0x33 := by
    simp (disch := decide) only [opcodeOf_eq, encode, bitsOf_or, bitsOf_other]; rfl
  simp only [decodeSlot, decodeI, opcode, rowOf]
  simp (disch := decide) only [encode, or_and, field_and, bitsOf_or, bitsOf_same, bitsOf_other]
  simp [bitsOf]
theorem ldl (g : BitVec 4) (d : BitVec 7) (a : BitVec 6) (x : BitVec 1) (p : BitVec 1) (n : BitVec 5) : Statement (.ldl g d a x p n) := by
  rintro _ ⟨⟩
  have opcode : opcodeOf (encode (.ldl g d a x p n)) = 0x34 := by
    simp (disch := decide) only [opcodeOf_eq, encode, bitsOf_or, bitsOf_other]; rfl
  simp only [decodeSlot, decodeI, opcode, rowOf]
  simp (disch := decide) only [encode, or_and, field_and, bitsOf_or, bitsOf_same, bitsOf_other]
  simp [bitsOf]
theorem tqry (g : BitVec 4) (d : BitVec 7) (a : BitVec 6) : Statement (.tqry g d a) := by
  rintro _ ⟨⟩
  have opcode : opcodeOf (encode (.tqry g d a)) = 0x35 := by
    simp (disch := decide) only [opcodeOf_eq, encode, bitsOf_or, bitsOf_other]; rfl
  simp only [decodeSlot, decodeI, opcode, rowOf]
  simp (disch := decide) only [encode, or_and, field_and, bitsOf_or, bitsOf_same, bitsOf_other]
  simp [bitsOf]
theorem xmov (g : BitVec 4) (d : BitVec 7) (a : BitVec 7) (c : BitVec 2) : Statement (.xmov g d a c) := by
  rintro _ ⟨⟩
  have opcode : opcodeOf (encode (.xmov g d a c)) = 0x36 := by
    simp (disch := decide) only [opcodeOf_eq, encode, bitsOf_or, bitsOf_other]; rfl
  simp only [decodeSlot, decodeI, opcode, rowOf]
  simp (disch := decide) only [encode, or_and, field_and, bitsOf_or, bitsOf_same, bitsOf_other]
  simp [bitsOf]
theorem pld (g : BitVec 4) (l : BitVec 4) (a : BitVec 3) (o : BitVec 6) (c : BitVec 4) (n : BitVec 1) (sc : BitVec 2) : Statement (.pld g l a o c n sc) := by
  rintro _ ⟨⟩
  have opcode : opcodeOf (encode (.pld g l a o c n sc)) = 0x60 := by
    simp (disch := decide) only [opcodeOf_eq, encode, bitsOf_or, bitsOf_other]; rfl
  simp only [decodeSlot, decodeI, opcode, rowOf]
  simp (disch := decide) only [encode, or_and, field_and, bitsOf_or, bitsOf_same, bitsOf_other]
  simp [bitsOf]
theorem pst (g : BitVec 4) (r : BitVec 4) (a : BitVec 3) (c : BitVec 4) (n : BitVec 1) (sc : BitVec 2) : Statement (.pst g r a c n sc) := by
  rintro _ ⟨⟩
  have opcode : opcodeOf (encode (.pst g r a c n sc)) = 0x61 := by
    simp (disch := decide) only [opcodeOf_eq, encode, bitsOf_or, bitsOf_other]; rfl
  simp only [decodeSlot, decodeI, opcode, rowOf]
  simp (disch := decide) only [encode, or_and, field_and, bitsOf_or, bitsOf_same, bitsOf_other]
  simp [bitsOf]
theorem pldref (g : BitVec 4) (l : BitVec 4) (a : BitVec 3) (o : BitVec 6) (c : BitVec 4) (n : BitVec 1) : Statement (.pldref g l a o c n) := by
  rintro _ ⟨⟩
  have opcode : opcodeOf (encode (.pldref g l a o c n)) = 0x62 := by
    simp (disch := decide) only [opcodeOf_eq, encode, bitsOf_or, bitsOf_other]; rfl
  simp only [decodeSlot, decodeI, opcode, rowOf]
  simp (disch := decide) only [encode, or_and, field_and, bitsOf_or, bitsOf_same, bitsOf_other]
  simp [bitsOf]
theorem pstref (g : BitVec 4) (r : BitVec 4) (a : BitVec 3) (c : BitVec 4) (n : BitVec 1) : Statement (.pstref g r a c n) := by
  rintro _ ⟨⟩
  have opcode : opcodeOf (encode (.pstref g r a c n)) = 0x63 := by
    simp (disch := decide) only [opcodeOf_eq, encode, bitsOf_or, bitsOf_other]; rfl
  simp only [decodeSlot, decodeI, opcode, rowOf]
  simp (disch := decide) only [encode, or_and, field_and, bitsOf_or, bitsOf_same, bitsOf_other]
  simp [bitsOf]
theorem fadd (g : BitVec 4) (d : BitVec 7) (a : BitVec 7) (b : BitVec 7) : Statement (.fadd g d a b) := by
  rintro _ ⟨⟩
  have opcode : opcodeOf (encode (.fadd g d a b)) = 0x01 := by
    simp (disch := decide) only [opcodeOf_eq, encode, bitsOf_or, bitsOf_other]; rfl
  simp only [decodeSlot, decodeF, opcode, rowOf]
  simp (disch := decide) only [encode, or_and, field_and, bitsOf_or, bitsOf_same, bitsOf_other]
  simp [bitsOf]
theorem fsub (g : BitVec 4) (d : BitVec 7) (a : BitVec 7) (b : BitVec 7) : Statement (.fsub g d a b) := by
  rintro _ ⟨⟩
  have opcode : opcodeOf (encode (.fsub g d a b)) = 0x02 := by
    simp (disch := decide) only [opcodeOf_eq, encode, bitsOf_or, bitsOf_other]; rfl
  simp only [decodeSlot, decodeF, opcode, rowOf]
  simp (disch := decide) only [encode, or_and, field_and, bitsOf_or, bitsOf_same, bitsOf_other]
  simp [bitsOf]
theorem fmul (g : BitVec 4) (d : BitVec 7) (a : BitVec 7) (b : BitVec 7) : Statement (.fmul g d a b) := by
  rintro _ ⟨⟩
  have opcode : opcodeOf (encode (.fmul g d a b)) = 0x03 := by
    simp (disch := decide) only [opcodeOf_eq, encode, bitsOf_or, bitsOf_other]; rfl
  simp only [decodeSlot, decodeF, opcode, rowOf]
  simp (disch := decide) only [encode, or_and, field_and, bitsOf_or, bitsOf_same, bitsOf_other]
  simp [bitsOf]
theorem ffma (g : BitVec 4) (fl : BitVec 1) (d : BitVec 5) (a : BitVec 5) (b : BitVec 5) (c : BitVec 5) : Statement (.ffma g fl d a b c) := by
  rintro _ ⟨⟩
  have opcode : opcodeOf (encode (.ffma g fl d a b c)) = 0x04 := by
    simp (disch := decide) only [opcodeOf_eq, encode, bitsOf_or, bitsOf_other]; rfl
  simp only [decodeSlot, decodeF, opcode, rowOf]
  simp (disch := decide) only [encode, or_and, field_and, bitsOf_or, bitsOf_same, bitsOf_other]
  simp [bitsOf]
theorem ffms (g : BitVec 4) (fl : BitVec 1) (d : BitVec 5) (a : BitVec 5) (b : BitVec 5) (c : BitVec 5) : Statement (.ffms g fl d a b c) := by
  rintro _ ⟨⟩
  have opcode : opcodeOf (encode (.ffms g fl d a b c)) = 0x05 := by
    simp (disch := decide) only [opcodeOf_eq, encode, bitsOf_or, bitsOf_other]; rfl
  simp only [decodeSlot, decodeF, opcode, rowOf]
  simp (disch := decide) only [encode, or_and, field_and, bitsOf_or, bitsOf_same, bitsOf_other]
  simp [bitsOf]
theorem fnma (g : BitVec 4) (fl : BitVec 1) (d : BitVec 5) (a : BitVec 5) (b : BitVec 5) (c : BitVec 5) : Statement (.fnma g fl d a b c) := by
  rintro _ ⟨⟩
  have opcode : opcodeOf (encode (.fnma g fl d a b c)) = 0x06 := by
    simp (disch := decide) only [opcodeOf_eq, encode, bitsOf_or, bitsOf_other]; rfl
  simp only [decodeSlot, decodeF, opcode, rowOf]
  simp (disch := decide) only [encode, or_and, field_and, bitsOf_or, bitsOf_same, bitsOf_other]
  simp [bitsOf]
theorem fmin (g : BitVec 4) (d : BitVec 7) (a : BitVec 7) (b : BitVec 7) : Statement (.fmin g d a b) := by
  rintro _ ⟨⟩
  have opcode : opcodeOf (encode (.fmin g d a b)) = 0x07 := by
    simp (disch := decide) only [opcodeOf_eq, encode, bitsOf_or, bitsOf_other]; rfl
  simp only [decodeSlot, decodeF, opcode, rowOf]
  simp (disch := decide) only [encode, or_and, field_and, bitsOf_or, bitsOf_same, bitsOf_other]
  simp [bitsOf]
theorem fmax (g : BitVec 4) (d : BitVec 7) (a : BitVec 7) (b : BitVec 7) : Statement (.fmax g d a b) := by
  rintro _ ⟨⟩
  have opcode : opcodeOf (encode (.fmax g d a b)) = 0x08 := by
    simp (disch := decide) only [opcodeOf_eq, encode, bitsOf_or, bitsOf_other]; rfl
  simp only [decodeSlot, decodeF, opcode, rowOf]
  simp (disch := decide) only [encode, or_and, field_and, bitsOf_or, bitsOf_same, bitsOf_other]
  simp [bitsOf]
theorem fabs (g : BitVec 4) (d : BitVec 7) (a : BitVec 7) : Statement (.fabs g d a) := by
  rintro _ ⟨⟩
  have opcode : opcodeOf (encode (.fabs g d a)) = 0x09 := by
    simp (disch := decide) only [opcodeOf_eq, encode, bitsOf_or, bitsOf_other]; rfl
  simp only [decodeSlot, decodeF, opcode, rowOf]
  simp (disch := decide) only [encode, or_and, field_and, bitsOf_or, bitsOf_same, bitsOf_other]
  simp [bitsOf]
theorem fneg (g : BitVec 4) (d : BitVec 7) (a : BitVec 7) : Statement (.fneg g d a) := by
  rintro _ ⟨⟩
  have opcode : opcodeOf (encode (.fneg g d a)) = 0x0A := by
    simp (disch := decide) only [opcodeOf_eq, encode, bitsOf_or, bitsOf_other]; rfl
  simp only [decodeSlot, decodeF, opcode, rowOf]
  simp (disch := decide) only [encode, or_and, field_and, bitsOf_or, bitsOf_same, bitsOf_other]
  simp [bitsOf]
theorem fcps (g : BitVec 4) (d : BitVec 7) (a : BitVec 7) (b : BitVec 7) : Statement (.fcps g d a b) := by
  rintro _ ⟨⟩
  have opcode : opcodeOf (encode (.fcps g d a b)) = 0x0B := by
    simp (disch := decide) only [opcodeOf_eq, encode, bitsOf_or, bitsOf_other]; rfl
  simp only [decodeSlot, decodeF, opcode, rowOf]
  simp (disch := decide) only [encode, or_and, field_and, bitsOf_or, bitsOf_same, bitsOf_other]
  simp [bitsOf]
theorem fcmp (g : BitVec 4) (c : BitVec 3) (k : BitVec 3) (a : BitVec 7) (b : BitVec 7) : Statement (.fcmp g c k a b) := by
  rintro _ ⟨⟩
  have opcode : opcodeOf (encode (.fcmp g c k a b)) = 0x0C := by
    simp (disch := decide) only [opcodeOf_eq, encode, bitsOf_or, bitsOf_other]; rfl
  simp only [decodeSlot, decodeF, opcode, rowOf]
  simp (disch := decide) only [encode, or_and, field_and, bitsOf_or, bitsOf_same, bitsOf_other]
  simp [bitsOf]
theorem fcvt (g : BitVec 4) (d : BitVec 7) (a : BitVec 7) (sc : BitVec 2) (c : BitVec 3) (p : BitVec 2) : Statement (.fcvt g d a sc c p) := by
  rintro _ ⟨⟩
  have opcode : opcodeOf (encode (.fcvt g d a sc c p)) = 0x0D := by
    simp (disch := decide) only [opcodeOf_eq, encode, bitsOf_or, bitsOf_other]; rfl
  simp only [decodeSlot, decodeF, opcode, rowOf]
  simp (disch := decide) only [encode, or_and, field_and, bitsOf_or, bitsOf_same, bitsOf_other]
  simp [bitsOf]
theorem frnd (g : BitVec 4) (d : BitVec 7) (a : BitVec 7) (r : BitVec 2) : Statement (.frnd g d a r) := by
  rintro _ ⟨⟩
  have opcode : opcodeOf (encode (.frnd g d a r)) = 0x0E := by
    simp (disch := decide) only [opcodeOf_eq, encode, bitsOf_or, bitsOf_other]; rfl
  simp only [decodeSlot, decodeF, opcode, rowOf]
  simp (disch := decide) only [encode, or_and, field_and, bitsOf_or, bitsOf_same, bitsOf_other]
  simp [bitsOf]
theorem ftoi (g : BitVec 4) (d : BitVec 7) (a : BitVec 7) (r : BitVec 2) : Statement (.ftoi g d a r) := by
  rintro _ ⟨⟩
  have opcode : opcodeOf (encode (.ftoi g d a r)) = 0x0F := by
    simp (disch := decide) only [opcodeOf_eq, encode, bitsOf_or, bitsOf_other]; rfl
  simp only [decodeSlot, decodeF, opcode, rowOf]
  simp (disch := decide) only [encode, or_and, field_and, bitsOf_or, bitsOf_same, bitsOf_other]
  simp [bitsOf]
theorem itof (g : BitVec 4) (d : BitVec 7) (a : BitVec 7) : Statement (.itof g d a) := by
  rintro _ ⟨⟩
  have opcode : opcodeOf (encode (.itof g d a)) = 0x10 := by
    simp (disch := decide) only [opcodeOf_eq, encode, bitsOf_or, bitsOf_other]; rfl
  simp only [decodeSlot, decodeF, opcode, rowOf]
  simp (disch := decide) only [encode, or_and, field_and, bitsOf_or, bitsOf_same, bitsOf_other]
  simp [bitsOf]
theorem vadd (g : BitVec 4) (d : BitVec 7) (a : BitVec 7) (b : BitVec 7) : Statement (.vadd g d a b) := by
  rintro _ ⟨⟩
  have opcode : opcodeOf (encode (.vadd g d a b)) = 0x11 := by
    simp (disch := decide) only [opcodeOf_eq, encode, bitsOf_or, bitsOf_other]; rfl
  simp only [decodeSlot, decodeF, opcode, rowOf]
  simp (disch := decide) only [encode, or_and, field_and, bitsOf_or, bitsOf_same, bitsOf_other]
  simp [bitsOf]
theorem vsub (g : BitVec 4) (d : BitVec 7) (a : BitVec 7) (b : BitVec 7) : Statement (.vsub g d a b) := by
  rintro _ ⟨⟩
  have opcode : opcodeOf (encode (.vsub g d a b)) = 0x12 := by
    simp (disch := decide) only [opcodeOf_eq, encode, bitsOf_or, bitsOf_other]; rfl
  simp only [decodeSlot, decodeF, opcode, rowOf]
  simp (disch := decide) only [encode, or_and, field_and, bitsOf_or, bitsOf_same, bitsOf_other]
  simp [bitsOf]
theorem vmul (g : BitVec 4) (d : BitVec 7) (a : BitVec 7) (b : BitVec 7) : Statement (.vmul g d a b) := by
  rintro _ ⟨⟩
  have opcode : opcodeOf (encode (.vmul g d a b)) = 0x13 := by
    simp (disch := decide) only [opcodeOf_eq, encode, bitsOf_or, bitsOf_other]; rfl
  simp only [decodeSlot, decodeF, opcode, rowOf]
  simp (disch := decide) only [encode, or_and, field_and, bitsOf_or, bitsOf_same, bitsOf_other]
  simp [bitsOf]
theorem vmulh (g : BitVec 4) (d : BitVec 7) (a : BitVec 7) (b : BitVec 7) : Statement (.vmulh g d a b) := by
  rintro _ ⟨⟩
  have opcode : opcodeOf (encode (.vmulh g d a b)) = 0x14 := by
    simp (disch := decide) only [opcodeOf_eq, encode, bitsOf_or, bitsOf_other]; rfl
  simp only [decodeSlot, decodeF, opcode, rowOf]
  simp (disch := decide) only [encode, or_and, field_and, bitsOf_or, bitsOf_same, bitsOf_other]
  simp [bitsOf]
theorem vand (g : BitVec 4) (d : BitVec 7) (a : BitVec 7) (b : BitVec 7) : Statement (.vand g d a b) := by
  rintro _ ⟨⟩
  have opcode : opcodeOf (encode (.vand g d a b)) = 0x15 := by
    simp (disch := decide) only [opcodeOf_eq, encode, bitsOf_or, bitsOf_other]; rfl
  simp only [decodeSlot, decodeF, opcode, rowOf]
  simp (disch := decide) only [encode, or_and, field_and, bitsOf_or, bitsOf_same, bitsOf_other]
  simp [bitsOf]
theorem vor (g : BitVec 4) (d : BitVec 7) (a : BitVec 7) (b : BitVec 7) : Statement (.vor g d a b) := by
  rintro _ ⟨⟩
  have opcode : opcodeOf (encode (.vor g d a b)) = 0x16 := by
    simp (disch := decide) only [opcodeOf_eq, encode, bitsOf_or, bitsOf_other]; rfl
  simp only [decodeSlot, decodeF, opcode, rowOf]
  simp (disch := decide) only [encode, or_and, field_and, bitsOf_or, bitsOf_same, bitsOf_other]
  simp [bitsOf]
theorem vxor (g : BitVec 4) (d : BitVec 7) (a : BitVec 7) (b : BitVec 7) : Statement (.vxor g d a b) := by
  rintro _ ⟨⟩
  have opcode : opcodeOf (encode (.vxor g d a b)) = 0x17 := by
    simp (disch := decide) only [opcodeOf_eq, encode, bitsOf_or, bitsOf_other]; rfl
  simp only [decodeSlot, decodeF, opcode, rowOf]
  simp (disch := decide) only [encode, or_and, field_and, bitsOf_or, bitsOf_same, bitsOf_other]
  simp [bitsOf]
theorem vshl (g : BitVec 4) (d : BitVec 7) (a : BitVec 7) (b : BitVec 7) : Statement (.vshl g d a b) := by
  rintro _ ⟨⟩
  have opcode : opcodeOf (encode (.vshl g d a b)) = 0x18 := by
    simp (disch := decide) only [opcodeOf_eq, encode, bitsOf_or, bitsOf_other]; rfl
  simp only [decodeSlot, decodeF, opcode, rowOf]
  simp (disch := decide) only [encode, or_and, field_and, bitsOf_or, bitsOf_same, bitsOf_other]
  simp [bitsOf]
theorem vshr (g : BitVec 4) (d : BitVec 7) (a : BitVec 7) (b : BitVec 7) : Statement (.vshr g d a b) := by
  rintro _ ⟨⟩
  have opcode : opcodeOf (encode (.vshr g d a b)) = 0x19 := by
    simp (disch := decide) only [opcodeOf_eq, encode, bitsOf_or, bitsOf_other]; rfl
  simp only [decodeSlot, decodeF, opcode, rowOf]
  simp (disch := decide) only [encode, or_and, field_and, bitsOf_or, bitsOf_same, bitsOf_other]
  simp [bitsOf]
theorem vsar (g : BitVec 4) (d : BitVec 7) (a : BitVec 7) (b : BitVec 7) : Statement (.vsar g d a b) := by
  rintro _ ⟨⟩
  have opcode : opcodeOf (encode (.vsar g d a b)) = 0x1A := by
    simp (disch := decide) only [opcodeOf_eq, encode, bitsOf_or, bitsOf_other]; rfl
  simp only [decodeSlot, decodeF, opcode, rowOf]
  simp (disch := decide) only [encode, or_and, field_and, bitsOf_or, bitsOf_same, bitsOf_other]
  simp [bitsOf]
theorem vmin (g : BitVec 4) (d : BitVec 7) (a : BitVec 7) (b : BitVec 7) : Statement (.vmin g d a b) := by
  rintro _ ⟨⟩
  have opcode : opcodeOf (encode (.vmin g d a b)) = 0x1B := by
    simp (disch := decide) only [opcodeOf_eq, encode, bitsOf_or, bitsOf_other]; rfl
  simp only [decodeSlot, decodeF, opcode, rowOf]
  simp (disch := decide) only [encode, or_and, field_and, bitsOf_or, bitsOf_same, bitsOf_other]
  simp [bitsOf]
theorem vmax (g : BitVec 4) (d : BitVec 7) (a : BitVec 7) (b : BitVec 7) : Statement (.vmax g d a b) := by
  rintro _ ⟨⟩
  have opcode : opcodeOf (encode (.vmax g d a b)) = 0x1C := by
    simp (disch := decide) only [opcodeOf_eq, encode, bitsOf_or, bitsOf_other]; rfl
  simp only [decodeSlot, decodeF, opcode, rowOf]
  simp (disch := decide) only [encode, or_and, field_and, bitsOf_or, bitsOf_same, bitsOf_other]
  simp [bitsOf]
theorem vcmp (g : BitVec 4) (c : BitVec 3) (k : BitVec 3) (a : BitVec 7) (b : BitVec 7) : Statement (.vcmp g c k a b) := by
  rintro _ ⟨⟩
  have opcode : opcodeOf (encode (.vcmp g c k a b)) = 0x1D := by
    simp (disch := decide) only [opcodeOf_eq, encode, bitsOf_or, bitsOf_other]; rfl
  simp only [decodeSlot, decodeF, opcode, rowOf]
  simp (disch := decide) only [encode, or_and, field_and, bitsOf_or, bitsOf_same, bitsOf_other]
  simp [bitsOf]
theorem vsel (g : BitVec 4) (fl : BitVec 1) (d : BitVec 5) (a : BitVec 5) (b : BitVec 5) (k : BitVec 3) : Statement (.vsel g fl d a b k) := by
  rintro _ ⟨⟩
  have opcode : opcodeOf (encode (.vsel g fl d a b k)) = 0x1E := by
    simp (disch := decide) only [opcodeOf_eq, encode, bitsOf_or, bitsOf_other]; rfl
  simp only [decodeSlot, decodeF, opcode, rowOf]
  simp (disch := decide) only [encode, or_and, field_and, bitsOf_or, bitsOf_same, bitsOf_other]
  simp [bitsOf]
theorem vperm (g : BitVec 4) (d : BitVec 7) (a : BitVec 7) (b : BitVec 7) : Statement (.vperm g d a b) := by
  rintro _ ⟨⟩
  have opcode : opcodeOf (encode (.vperm g d a b)) = 0x1F := by
    simp (disch := decide) only [opcodeOf_eq, encode, bitsOf_or, bitsOf_other]; rfl
  simp only [decodeSlot, decodeF, opcode, rowOf]
  simp (disch := decide) only [encode, or_and, field_and, bitsOf_or, bitsOf_same, bitsOf_other]
  simp [bitsOf]
theorem vbcast (g : BitVec 4) (d : BitVec 7) (a : BitVec 7) (p : BitVec 1) (n : BitVec 5) : Statement (.vbcast g d a p n) := by
  rintro _ ⟨⟩
  have opcode : opcodeOf (encode (.vbcast g d a p n)) = 0x20 := by
    simp (disch := decide) only [opcodeOf_eq, encode, bitsOf_or, bitsOf_other]; rfl
  simp only [decodeSlot, decodeF, opcode, rowOf]
  simp (disch := decide) only [encode, or_and, field_and, bitsOf_or, bitsOf_same, bitsOf_other]
  simp [bitsOf]
theorem vred (g : BitVec 4) (d : BitVec 7) (a : BitVec 7) (fl : BitVec 1) (o : BitVec 2) (k : BitVec 3) : Statement (.vred g d a fl o k) := by
  rintro _ ⟨⟩
  have opcode : opcodeOf (encode (.vred g d a fl o k)) = 0x21 := by
    simp (disch := decide) only [opcodeOf_eq, encode, bitsOf_or, bitsOf_other]; rfl
  simp only [decodeSlot, decodeF, opcode, rowOf]
  simp (disch := decide) only [encode, or_and, field_and, bitsOf_or, bitsOf_same, bitsOf_other]
  simp [bitsOf]
theorem viota (g : BitVec 4) (d : BitVec 7) (t : BitVec 1) : Statement (.viota g d t) := by
  rintro _ ⟨⟩
  have opcode : opcodeOf (encode (.viota g d t)) = 0x22 := by
    simp (disch := decide) only [opcodeOf_eq, encode, bitsOf_or, bitsOf_other]; rfl
  simp only [decodeSlot, decodeF, opcode, rowOf]
  simp (disch := decide) only [encode, or_and, field_and, bitsOf_or, bitsOf_same, bitsOf_other]
  simp [bitsOf]
theorem vmov (g : BitVec 4) (d : BitVec 7) (a : BitVec 7) (sc : BitVec 1) : Statement (.vmov g d a sc) := by
  rintro _ ⟨⟩
  have opcode : opcodeOf (encode (.vmov g d a sc)) = 0x23 := by
    simp (disch := decide) only [opcodeOf_eq, encode, bitsOf_or, bitsOf_other]; rfl
  simp only [decodeSlot, decodeF, opcode, rowOf]
  simp (disch := decide) only [encode, or_and, field_and, bitsOf_or, bitsOf_same, bitsOf_other]
  simp [bitsOf]
theorem vtoi (g : BitVec 4) (d : BitVec 7) (a : BitVec 7) (x : BitVec 1) (p : BitVec 1) (n : BitVec 5) : Statement (.vtoi g d a x p n) := by
  rintro _ ⟨⟩
  have opcode : opcodeOf (encode (.vtoi g d a x p n)) = 0x24 := by
    simp (disch := decide) only [opcodeOf_eq, encode, bitsOf_or, bitsOf_other]; rfl
  simp only [decodeSlot, decodeF, opcode, rowOf]
  simp (disch := decide) only [encode, or_and, field_and, bitsOf_or, bitsOf_same, bitsOf_other]
  simp [bitsOf]
theorem kop (g : BitVec 4) (d : BitVec 7) (a : BitVec 7) (o : BitVec 3) (b : BitVec 3) : Statement (.kop g d a o b) := by
  rintro _ ⟨⟩
  have opcode : opcodeOf (encode (.kop g d a o b)) = 0x25 := by
    simp (disch := decide) only [opcodeOf_eq, encode, bitsOf_or, bitsOf_other]; rfl
  simp only [decodeSlot, decodeF, opcode, rowOf]
  simp (disch := decide) only [encode, or_and, field_and, bitsOf_or, bitsOf_same, bitsOf_other]
  simp [bitsOf]
theorem requant (g : BitVec 4) (d : BitVec 7) (a : BitVec 7) (fl : BitVec 1) (x : BitVec 6) : Statement (.requant g d a fl x) := by
  rintro _ ⟨⟩
  have opcode : opcodeOf (encode (.requant g d a fl x)) = 0x26 := by
    simp (disch := decide) only [opcodeOf_eq, encode, bitsOf_or, bitsOf_other]; rfl
  simp only [decodeSlot, decodeF, opcode, rowOf]
  simp (disch := decide) only [encode, or_and, field_and, bitsOf_or, bitsOf_same, bitsOf_other]
  simp [bitsOf]
theorem vdot4 (g : BitVec 4) (d : BitVec 7) (a : BitVec 7) (b : BitVec 7) : Statement (.vdot4 g d a b) := by
  rintro _ ⟨⟩
  have opcode : opcodeOf (encode (.vdot4 g d a b)) = 0x27 := by
    simp (disch := decide) only [opcodeOf_eq, encode, bitsOf_or, bitsOf_other]; rfl
  simp only [decodeSlot, decodeF, opcode, rowOf]
  simp (disch := decide) only [encode, or_and, field_and, bitsOf_or, bitsOf_same, bitsOf_other]
  simp [bitsOf]
theorem vxmov (g : BitVec 4) (d : BitVec 7) (a : BitVec 7) (c : BitVec 2) : Statement (.vxmov g d a c) := by
  rintro _ ⟨⟩
  have opcode : opcodeOf (encode (.vxmov g d a c)) = 0x28 := by
    simp (disch := decide) only [opcodeOf_eq, encode, bitsOf_or, bitsOf_other]; rfl
  simp only [decodeSlot, decodeF, opcode, rowOf]
  simp (disch := decide) only [encode, or_and, field_and, bitsOf_or, bitsOf_same, bitsOf_other]
  simp [bitsOf]
theorem fn (g : BitVec 4) (d : BitVec 7) (a : BitVec 7) (n : BitVec 4) : Statement (.fn g d a n) := by
  rintro _ ⟨⟩
  have opcode : opcodeOf (encode (.fn g d a n)) = 0x50 := by
    simp (disch := decide) only [opcodeOf_eq, encode, bitsOf_or, bitsOf_other]; rfl
  simp only [decodeSlot, decodeF, opcode, rowOf]
  simp (disch := decide) only [encode, or_and, field_and, bitsOf_or, bitsOf_same, bitsOf_other]
  simp [bitsOf]
theorem fnp (g : BitVec 4) (d : BitVec 7) (a : BitVec 7) (n : BitVec 4) : Statement (.fnp g d a n) := by
  rintro _ ⟨⟩
  have opcode : opcodeOf (encode (.fnp g d a n)) = 0x51 := by
    simp (disch := decide) only [opcodeOf_eq, encode, bitsOf_or, bitsOf_other]; rfl
  simp only [decodeSlot, decodeF, opcode, rowOf]
  simp (disch := decide) only [encode, or_and, field_and, bitsOf_or, bitsOf_same, bitsOf_other]
  simp [bitsOf]
theorem frcp (g : BitVec 4) (d : BitVec 7) (a : BitVec 7) : Statement (.frcp g d a) := by
  rintro _ ⟨⟩
  have opcode : opcodeOf (encode (.frcp g d a)) = 0x52 := by
    simp (disch := decide) only [opcodeOf_eq, encode, bitsOf_or, bitsOf_other]; rfl
  simp only [decodeSlot, decodeF, opcode, rowOf]
  simp (disch := decide) only [encode, or_and, field_and, bitsOf_or, bitsOf_same, bitsOf_other]
  simp [bitsOf]
theorem frsq (g : BitVec 4) (d : BitVec 7) (a : BitVec 7) : Statement (.frsq g d a) := by
  rintro _ ⟨⟩
  have opcode : opcodeOf (encode (.frsq g d a)) = 0x53 := by
    simp (disch := decide) only [opcodeOf_eq, encode, bitsOf_or, bitsOf_other]; rfl
  simp only [decodeSlot, decodeF, opcode, rowOf]
  simp (disch := decide) only [encode, or_and, field_and, bitsOf_or, bitsOf_same, bitsOf_other]
  simp [bitsOf]
theorem mcfg (g : BitVec 4) (a : BitVec 7) : Statement (.mcfg g a) := by
  rintro _ ⟨⟩
  have opcode : opcodeOf (encode (.mcfg g a)) = 0x01 := by
    simp (disch := decide) only [opcodeOf_eq, encode, bitsOf_or, bitsOf_other]; rfl
  simp only [decodeSlot, decodeM, opcode, rowOf]
  simp (disch := decide) only [encode, or_and, field_and, bitsOf_or, bitsOf_same, bitsOf_other]
  simp [bitsOf]
theorem tcfg (g : BitVec 4) (a : BitVec 7) (t : BitVec 3) : Statement (.tcfg g a t) := by
  rintro _ ⟨⟩
  have opcode : opcodeOf (encode (.tcfg g a t)) = 0x02 := by
    simp (disch := decide) only [opcodeOf_eq, encode, bitsOf_or, bitsOf_other]; rfl
  simp only [decodeSlot, decodeM, opcode, rowOf]
  simp (disch := decide) only [encode, or_and, field_and, bitsOf_or, bitsOf_same, bitsOf_other]
  simp [bitsOf]
theorem tzero (g : BitVec 4) (t : BitVec 3) : Statement (.tzero g t) := by
  rintro _ ⟨⟩
  have opcode : opcodeOf (encode (.tzero g t)) = 0x03 := by
    simp (disch := decide) only [opcodeOf_eq, encode, bitsOf_or, bitsOf_other]; rfl
  simp only [decodeSlot, decodeM, opcode, rowOf]
  simp (disch := decide) only [encode, or_and, field_and, bitsOf_or, bitsOf_same, bitsOf_other]
  simp [bitsOf]
theorem treshape (g : BitVec 4) (a : BitVec 7) (t : BitVec 3) : Statement (.treshape g a t) := by
  rintro _ ⟨⟩
  have opcode : opcodeOf (encode (.treshape g a t)) = 0x04 := by
    simp (disch := decide) only [opcodeOf_eq, encode, bitsOf_or, bitsOf_other]; rfl
  simp only [decodeSlot, decodeM, opcode, rowOf]
  simp (disch := decide) only [encode, or_and, field_and, bitsOf_or, bitsOf_same, bitsOf_other]
  simp [bitsOf]
theorem tldq (g : BitVec 4) (a : BitVec 7) (b : BitVec 7) : Statement (.tldq g a b) := by
  rintro _ ⟨⟩
  have opcode : opcodeOf (encode (.tldq g a b)) = 0x05 := by
    simp (disch := decide) only [opcodeOf_eq, encode, bitsOf_or, bitsOf_other]; rfl
  simp only [decodeSlot, decodeM, opcode, rowOf]
  simp (disch := decide) only [encode, or_and, field_and, bitsOf_or, bitsOf_same, bitsOf_other]
  simp [bitsOf]
theorem tld (g : BitVec 4) (a : BitVec 7) (t : BitVec 3) : Statement (.tld g a t) := by
  rintro _ ⟨⟩
  have opcode : opcodeOf (encode (.tld g a t)) = 0x06 := by
    simp (disch := decide) only [opcodeOf_eq, encode, bitsOf_or, bitsOf_other]; rfl
  simp only [decodeSlot, decodeM, opcode, rowOf]
  simp (disch := decide) only [encode, or_and, field_and, bitsOf_or, bitsOf_same, bitsOf_other]
  simp [bitsOf]
theorem tst (g : BitVec 4) (a : BitVec 7) (k : BitVec 1) (t : BitVec 3) : Statement (.tst g a k t) := by
  rintro _ ⟨⟩
  have opcode : opcodeOf (encode (.tst g a k t)) = 0x07 := by
    simp (disch := decide) only [opcodeOf_eq, encode, bitsOf_or, bitsOf_other]; rfl
  simp only [decodeSlot, decodeM, opcode, bit_eq, rowOf]
  simp (disch := decide) only [encode, or_and, field_and, bitsOf_or, bitsOf_same, bitsOf_other]
  simp [bitsOf]
theorem tstO (g : BitVec 4) (a : BitVec 7) (b : BitVec 7) (k : BitVec 1) : Statement (.tstO g a b k) := by
  rintro _ ⟨⟩
  have opcode : opcodeOf (encode (.tstO g a b k)) = 0x07 := by
    simp (disch := decide) only [opcodeOf_eq, encode, bitsOf_or, bitsOf_other]; rfl
  simp only [decodeSlot, decodeM, opcode, bit_eq, rowOf]
  simp (disch := decide) only [encode, or_and, field_and, bitsOf_or, bitsOf_same, bitsOf_other]
  simp [bitsOf]
theorem qbind (g : BitVec 4) (a : BitVec 7) (q : BitVec 1) : Statement (.qbind g a q) := by
  rintro _ ⟨⟩
  have opcode : opcodeOf (encode (.qbind g a q)) = 0x08 := by
    simp (disch := decide) only [opcodeOf_eq, encode, bitsOf_or, bitsOf_other]; rfl
  simp only [decodeSlot, decodeM, opcode, rowOf]
  simp (disch := decide) only [encode, or_and, field_and, bitsOf_or, bitsOf_same, bitsOf_other]
  simp [bitsOf]
theorem qdrop (g : BitVec 4) (q : BitVec 1) (u : BitVec 1) (fl : BitVec 1) : Statement (.qdrop g q u fl) := by
  rintro _ ⟨⟩
  have opcode : opcodeOf (encode (.qdrop g q u fl)) = 0x09 := by
    simp (disch := decide) only [opcodeOf_eq, encode, bitsOf_or, bitsOf_other]; rfl
  simp only [decodeSlot, decodeM, opcode, rowOf]
  simp (disch := decide) only [encode, or_and, field_and, bitsOf_or, bitsOf_same, bitsOf_other]
  simp [bitsOf]
theorem chain (g : BitVec 4) (a : BitVec 7) (im : BitVec 1) : Statement (.chain g a im) := by
  rintro _ ⟨⟩
  have opcode : opcodeOf (encode (.chain g a im)) = 0x0A := by
    simp (disch := decide) only [opcodeOf_eq, encode, bitsOf_or, bitsOf_other]; rfl
  simp only [decodeSlot, decodeM, opcode, rowOf]
  simp (disch := decide) only [encode, or_and, field_and, bitsOf_or, bitsOf_same, bitsOf_other]
  simp [bitsOf]
theorem chainm (g : BitVec 4) (a : BitVec 7) (m : BitVec 3) (im : BitVec 1) : Statement (.chainm g a m im) := by
  rintro _ ⟨⟩
  have opcode : opcodeOf (encode (.chainm g a m im)) = 0x0B := by
    simp (disch := decide) only [opcodeOf_eq, encode, bitsOf_or, bitsOf_other]; rfl
  simp only [decodeSlot, decodeM, opcode, rowOf]
  simp (disch := decide) only [encode, or_and, field_and, bitsOf_or, bitsOf_same, bitsOf_other]
  simp [bitsOf]
theorem chfin (g : BitVec 4) (k : BitVec 1) : Statement (.chfin g k) := by
  rintro _ ⟨⟩
  have opcode : opcodeOf (encode (.chfin g k)) = 0x0C := by
    simp (disch := decide) only [opcodeOf_eq, encode, bitsOf_or, bitsOf_other]; rfl
  simp only [decodeSlot, decodeM, opcode, rowOf]
  simp (disch := decide) only [encode, or_and, field_and, bitsOf_or, bitsOf_same, bitsOf_other]
  simp [bitsOf]
theorem stsave (g : BitVec 4) (a : BitVec 7) (b : BitVec 7) (k : BitVec 1) : Statement (.stsave g a b k) := by
  rintro _ ⟨⟩
  have opcode : opcodeOf (encode (.stsave g a b k)) = 0x0D := by
    simp (disch := decide) only [opcodeOf_eq, encode, bitsOf_or, bitsOf_other]; rfl
  simp only [decodeSlot, decodeM, opcode, rowOf]
  simp (disch := decide) only [encode, or_and, field_and, bitsOf_or, bitsOf_same, bitsOf_other]
  simp [bitsOf]
theorem stld (g : BitVec 4) (a : BitVec 7) : Statement (.stld g a) := by
  rintro _ ⟨⟩
  have opcode : opcodeOf (encode (.stld g a)) = 0x0E := by
    simp (disch := decide) only [opcodeOf_eq, encode, bitsOf_or, bitsOf_other]; rfl
  simp only [decodeSlot, decodeM, opcode, bit_eq, rowOf]
  simp (disch := decide) only [encode, or_and, field_and, bitsOf_or, bitsOf_same, bitsOf_other]
  simp [bitsOf]
theorem stldMerge (g : BitVec 4) (a : BitVec 7) (b : BitVec 7) : Statement (.stldMerge g a b) := by
  rintro _ ⟨⟩
  have opcode : opcodeOf (encode (.stldMerge g a b)) = 0x0E := by
    simp (disch := decide) only [opcodeOf_eq, encode, bitsOf_or, bitsOf_other]; rfl
  simp only [decodeSlot, decodeM, opcode, bit_eq, rowOf]
  simp (disch := decide) only [encode, or_and, field_and, bitsOf_or, bitsOf_same, bitsOf_other]
  simp [bitsOf]
theorem mcall (g : BitVec 4) (a : BitVec 7) : Statement (.mcall g a) := by
  rintro _ ⟨⟩
  have opcode : opcodeOf (encode (.mcall g a)) = 0x0F := by
    simp (disch := decide) only [opcodeOf_eq, encode, bitsOf_or, bitsOf_other]; rfl
  simp only [decodeSlot, decodeM, opcode, rowOf]
  simp (disch := decide) only [encode, or_and, field_and, bitsOf_or, bitsOf_same, bitsOf_other]
  simp [bitsOf]
theorem mrep (g : BitVec 4) (a : BitVec 7) : Statement (.mrep g a) := by
  rintro _ ⟨⟩
  have opcode : opcodeOf (encode (.mrep g a)) = 0x10 := by
    simp (disch := decide) only [opcodeOf_eq, encode, bitsOf_or, bitsOf_other]; rfl
  simp only [decodeSlot, decodeM, opcode, rowOf]
  simp (disch := decide) only [encode, or_and, field_and, bitsOf_or, bitsOf_same, bitsOf_other]
  simp [bitsOf]
theorem mvb (g : BitVec 4) (a : BitVec 7) (b : BitVec 7) : Statement (.mvb g a b) := by
  rintro _ ⟨⟩
  have opcode : opcodeOf (encode (.mvb g a b)) = 0x11 := by
    simp (disch := decide) only [opcodeOf_eq, encode, bitsOf_or, bitsOf_other]; rfl
  simp only [decodeSlot, decodeM, opcode, rowOf]
  simp (disch := decide) only [encode, or_and, field_and, bitsOf_or, bitsOf_same, bitsOf_other]
  simp [bitsOf]
theorem mv (g : BitVec 4) (a : BitVec 7) (t : BitVec 3) : Statement (.mv g a t) := by
  rintro _ ⟨⟩
  have opcode : opcodeOf (encode (.mv g a t)) = 0x12 := by
    simp (disch := decide) only [opcodeOf_eq, encode, bitsOf_or, bitsOf_other]; rfl
  simp only [decodeSlot, decodeM, opcode, rowOf]
  simp (disch := decide) only [encode, or_and, field_and, bitsOf_or, bitsOf_same, bitsOf_other]
  simp [bitsOf]
theorem mpoll (g : BitVec 4) (a : BitVec 7) : Statement (.mpoll g a) := by
  rintro _ ⟨⟩
  have opcode : opcodeOf (encode (.mpoll g a)) = 0x13 := by
    simp (disch := decide) only [opcodeOf_eq, encode, bitsOf_or, bitsOf_other]; rfl
  simp only [decodeSlot, decodeM, opcode, rowOf]
  simp (disch := decide) only [encode, or_and, field_and, bitsOf_or, bitsOf_same, bitsOf_other]
  simp [bitsOf]
theorem chld (g : BitVec 4) (a : BitVec 7) (b : BitVec 7) : Statement (.chld g a b) := by
  rintro _ ⟨⟩
  have opcode : opcodeOf (encode (.chld g a b)) = 0x30 := by
    simp (disch := decide) only [opcodeOf_eq, encode, bitsOf_or, bitsOf_other]; rfl
  simp only [decodeSlot, decodeM, opcode, rowOf]
  simp (disch := decide) only [encode, or_and, field_and, bitsOf_or, bitsOf_same, bitsOf_other]
  simp [bitsOf]
theorem ftld (g : BitVec 4) (a : BitVec 7) (n : BitVec 4) : Statement (.ftld g a n) := by
  rintro _ ⟨⟩
  have opcode : opcodeOf (encode (.ftld g a n)) = 0x31 := by
    simp (disch := decide) only [opcodeOf_eq, encode, bitsOf_or, bitsOf_other]; rfl
  simp only [decodeSlot, decodeM, opcode, rowOf]
  simp (disch := decide) only [encode, or_and, field_and, bitsOf_or, bitsOf_same, bitsOf_other]
  simp [bitsOf]
theorem fmld (g : BitVec 4) (a : BitVec 7) (n : BitVec 4) : Statement (.fmld g a n) := by
  rintro _ ⟨⟩
  have opcode : opcodeOf (encode (.fmld g a n)) = 0x32 := by
    simp (disch := decide) only [opcodeOf_eq, encode, bitsOf_or, bitsOf_other]; rfl
  simp only [decodeSlot, decodeM, opcode, rowOf]
  simp (disch := decide) only [encode, or_and, field_and, bitsOf_or, bitsOf_same, bitsOf_other]
  simp [bitsOf]
theorem rowstat (g : BitVec 4) (a : BitVec 7) (o : BitVec 2) (h : BitVec 1) (t : BitVec 3) : Statement (.rowstat g a o h t) := by
  rintro _ ⟨⟩
  have opcode : opcodeOf (encode (.rowstat g a o h t)) = 0x33 := by
    simp (disch := decide) only [opcodeOf_eq, encode, bitsOf_or, bitsOf_other]; rfl
  simp only [decodeSlot, decodeM, opcode, rowOf]
  simp (disch := decide) only [encode, or_and, field_and, bitsOf_or, bitsOf_same, bitsOf_other]
  simp [bitsOf]
theorem cpy (g : BitVec 4) (k : BitVec 1) : Statement (.cpy g k) := by
  rintro _ ⟨⟩
  have opcode : opcodeOf (encode (.cpy g k)) = 0x01 := by
    simp (disch := decide) only [opcodeOf_eq, encode, bitsOf_or, bitsOf_other]; rfl
  simp only [decodeSlot, decodeD, opcode, rowOf]
  simp (disch := decide) only [encode, or_and, field_and, bitsOf_or, bitsOf_same, bitsOf_other]
  simp [bitsOf]
theorem cpyl (g : BitVec 4) (a : BitVec 7) (b : BitVec 7) (k : BitVec 1) : Statement (.cpyl g a b k) := by
  rintro _ ⟨⟩
  have opcode : opcodeOf (encode (.cpyl g a b k)) = 0x02 := by
    simp (disch := decide) only [opcodeOf_eq, encode, bitsOf_or, bitsOf_other]; rfl
  simp only [decodeSlot, decodeD, opcode, rowOf]
  simp (disch := decide) only [encode, or_and, field_and, bitsOf_or, bitsOf_same, bitsOf_other]
  simp [bitsOf]
theorem cpyq (g : BitVec 4) (k : BitVec 1) (q : BitVec 1) : Statement (.cpyq g k q) := by
  rintro _ ⟨⟩
  have opcode : opcodeOf (encode (.cpyq g k q)) = 0x03 := by
    simp (disch := decide) only [opcodeOf_eq, encode, bitsOf_or, bitsOf_other]; rfl
  simp only [decodeSlot, decodeD, opcode, rowOf]
  simp (disch := decide) only [encode, or_and, field_and, bitsOf_or, bitsOf_same, bitsOf_other]
  simp [bitsOf]
theorem kvcommit (g : BitVec 4) (a : BitVec 7) (b : BitVec 7) (k : BitVec 1) : Statement (.kvcommit g a b k) := by
  rintro _ ⟨⟩
  have opcode : opcodeOf (encode (.kvcommit g a b k)) = 0x04 := by
    simp (disch := decide) only [opcodeOf_eq, encode, bitsOf_or, bitsOf_other]; rfl
  simp only [decodeSlot, decodeD, opcode, rowOf]
  simp (disch := decide) only [encode, or_and, field_and, bitsOf_or, bitsOf_same, bitsOf_other]
  simp [bitsOf]
theorem give (g : BitVec 4) (a : BitVec 7) (b : BitVec 7) (e : BitVec 3) (h : BitVec 2) : Statement (.give g a b e h) := by
  rintro _ ⟨⟩
  have opcode : opcodeOf (encode (.give g a b e h)) = 0x05 := by
    simp (disch := decide) only [opcodeOf_eq, encode, bitsOf_or, bitsOf_other]; rfl
  simp only [decodeSlot, decodeD, opcode, rowOf]
  simp (disch := decide) only [encode, or_and, field_and, bitsOf_or, bitsOf_same, bitsOf_other]
  simp [bitsOf]
theorem take (g : BitVec 4) (a : BitVec 7) (b : BitVec 7) (e : BitVec 3) (h : BitVec 2) : Statement (.take g a b e h) := by
  rintro _ ⟨⟩
  have opcode : opcodeOf (encode (.take g a b e h)) = 0x06 := by
    simp (disch := decide) only [opcodeOf_eq, encode, bitsOf_or, bitsOf_other]; rfl
  simp only [decodeSlot, decodeD, opcode, rowOf]
  simp (disch := decide) only [encode, or_and, field_and, bitsOf_or, bitsOf_same, bitsOf_other]
  simp [bitsOf]
theorem cbcfg (g : BitVec 4) (a : BitVec 7) (n : BitVec 3) : Statement (.cbcfg g a n) := by
  rintro _ ⟨⟩
  have opcode : opcodeOf (encode (.cbcfg g a n)) = 0x07 := by
    simp (disch := decide) only [opcodeOf_eq, encode, bitsOf_or, bitsOf_other]; rfl
  simp only [decodeSlot, decodeD, opcode, rowOf]
  simp (disch := decide) only [encode, or_and, field_and, bitsOf_or, bitsOf_same, bitsOf_other]
  simp [bitsOf]
theorem cbpush (g : BitVec 4) (n : BitVec 3) : Statement (.cbpush g n) := by
  rintro _ ⟨⟩
  have opcode : opcodeOf (encode (.cbpush g n)) = 0x08 := by
    simp (disch := decide) only [opcodeOf_eq, encode, bitsOf_or, bitsOf_other]; rfl
  simp only [decodeSlot, decodeD, opcode, rowOf]
  simp (disch := decide) only [encode, or_and, field_and, bitsOf_or, bitsOf_same, bitsOf_other]
  simp [bitsOf]
theorem cbpop (g : BitVec 4) (a : BitVec 7) (n : BitVec 3) : Statement (.cbpop g a n) := by
  rintro _ ⟨⟩
  have opcode : opcodeOf (encode (.cbpop g a n)) = 0x09 := by
    simp (disch := decide) only [opcodeOf_eq, encode, bitsOf_or, bitsOf_other]; rfl
  simp only [decodeSlot, decodeD, opcode, rowOf]
  simp (disch := decide) only [encode, or_and, field_and, bitsOf_or, bitsOf_same, bitsOf_other]
  simp [bitsOf]
theorem cpyst (g : BitVec 4) (a : BitVec 7) : Statement (.cpyst g a) := by
  rintro _ ⟨⟩
  have opcode : opcodeOf (encode (.cpyst g a)) = 0x0A := by
    simp (disch := decide) only [opcodeOf_eq, encode, bitsOf_or, bitsOf_other]; rfl
  simp only [decodeSlot, decodeD, opcode, rowOf]
  simp (disch := decide) only [encode, or_and, field_and, bitsOf_or, bitsOf_same, bitsOf_other]
  simp [bitsOf]
theorem ttinv (g : BitVec 4) (a : BitVec 7) (b : BitVec 7) (m : BitVec 2) : Statement (.ttinv g a b m) := by
  rintro _ ⟨⟩
  have opcode : opcodeOf (encode (.ttinv g a b m)) = 0x0B := by
    simp (disch := decide) only [opcodeOf_eq, encode, bitsOf_or, bitsOf_other]; rfl
  simp only [decodeSlot, decodeD, opcode, rowOf]
  simp (disch := decide) only [encode, or_and, field_and, bitsOf_or, bitsOf_same, bitsOf_other]
  simp [bitsOf]
theorem badd (g : BitVec 4) (a : BitVec 7) (b : BitVec 7) (c : BitVec 4) (z : BitVec 2) : Statement (.badd g a b c z) := by
  rintro _ ⟨⟩
  have opcode : opcodeOf (encode (.badd g a b c z)) = 0x20 := by
    simp (disch := decide) only [opcodeOf_eq, encode, bitsOf_or, bitsOf_other]; rfl
  simp only [decodeSlot, decodeD, opcode, rowOf]
  simp (disch := decide) only [encode, or_and, field_and, bitsOf_or, bitsOf_same, bitsOf_other]
  simp [bitsOf]
theorem bfadd (g : BitVec 4) (a : BitVec 7) (b : BitVec 7) (c : BitVec 4) (fl : BitVec 2) : Statement (.bfadd g a b c fl) := by
  rintro _ ⟨⟩
  have opcode : opcodeOf (encode (.bfadd g a b c fl)) = 0x21 := by
    simp (disch := decide) only [opcodeOf_eq, encode, bitsOf_or, bitsOf_other]; rfl
  simp only [decodeSlot, decodeD, opcode, rowOf]
  simp (disch := decide) only [encode, or_and, field_and, bitsOf_or, bitsOf_same, bitsOf_other]
  simp [bitsOf]
theorem bmin (g : BitVec 4) (a : BitVec 7) (b : BitVec 7) (c : BitVec 4) (u : BitVec 1) (z : BitVec 2) : Statement (.bmin g a b c u z) := by
  rintro _ ⟨⟩
  have opcode : opcodeOf (encode (.bmin g a b c u z)) = 0x22 := by
    simp (disch := decide) only [opcodeOf_eq, encode, bitsOf_or, bitsOf_other]; rfl
  simp only [decodeSlot, decodeD, opcode, rowOf]
  simp (disch := decide) only [encode, or_and, field_and, bitsOf_or, bitsOf_same, bitsOf_other]
  simp [bitsOf]
theorem bmax (g : BitVec 4) (a : BitVec 7) (b : BitVec 7) (c : BitVec 4) (u : BitVec 1) (z : BitVec 2) : Statement (.bmax g a b c u z) := by
  rintro _ ⟨⟩
  have opcode : opcodeOf (encode (.bmax g a b c u z)) = 0x23 := by
    simp (disch := decide) only [opcodeOf_eq, encode, bitsOf_or, bitsOf_other]; rfl
  simp only [decodeSlot, decodeD, opcode, rowOf]
  simp (disch := decide) only [encode, or_and, field_and, bitsOf_or, bitsOf_same, bitsOf_other]
  simp [bitsOf]
theorem band (g : BitVec 4) (a : BitVec 7) (b : BitVec 7) (c : BitVec 4) (z : BitVec 2) : Statement (.band g a b c z) := by
  rintro _ ⟨⟩
  have opcode : opcodeOf (encode (.band g a b c z)) = 0x24 := by
    simp (disch := decide) only [opcodeOf_eq, encode, bitsOf_or, bitsOf_other]; rfl
  simp only [decodeSlot, decodeD, opcode, rowOf]
  simp (disch := decide) only [encode, or_and, field_and, bitsOf_or, bitsOf_same, bitsOf_other]
  simp [bitsOf]
theorem bor (g : BitVec 4) (a : BitVec 7) (b : BitVec 7) (c : BitVec 4) (z : BitVec 2) : Statement (.bor g a b c z) := by
  rintro _ ⟨⟩
  have opcode : opcodeOf (encode (.bor g a b c z)) = 0x25 := by
    simp (disch := decide) only [opcodeOf_eq, encode, bitsOf_or, bitsOf_other]; rfl
  simp only [decodeSlot, decodeD, opcode, rowOf]
  simp (disch := decide) only [encode, or_and, field_and, bitsOf_or, bitsOf_same, bitsOf_other]
  simp [bitsOf]
theorem bxor (g : BitVec 4) (a : BitVec 7) (b : BitVec 7) (c : BitVec 4) (z : BitVec 2) : Statement (.bxor g a b c z) := by
  rintro _ ⟨⟩
  have opcode : opcodeOf (encode (.bxor g a b c z)) = 0x26 := by
    simp (disch := decide) only [opcodeOf_eq, encode, bitsOf_or, bitsOf_other]; rfl
  simp only [decodeSlot, decodeD, opcode, rowOf]
  simp (disch := decide) only [encode, or_and, field_and, bitsOf_or, bitsOf_same, bitsOf_other]
  simp [bitsOf]
theorem bswp (g : BitVec 4) (a : BitVec 7) (b : BitVec 7) (c : BitVec 4) (z : BitVec 2) : Statement (.bswp g a b c z) := by
  rintro _ ⟨⟩
  have opcode : opcodeOf (encode (.bswp g a b c z)) = 0x27 := by
    simp (disch := decide) only [opcodeOf_eq, encode, bitsOf_or, bitsOf_other]; rfl
  simp only [decodeSlot, decodeD, opcode, rowOf]
  simp (disch := decide) only [encode, or_and, field_and, bitsOf_or, bitsOf_same, bitsOf_other]
  simp [bitsOf]
theorem bcas (g : BitVec 4) (a : BitVec 7) (b : BitVec 7) (c : BitVec 4) (z : BitVec 2) : Statement (.bcas g a b c z) := by
  rintro _ ⟨⟩
  have opcode : opcodeOf (encode (.bcas g a b c z)) = 0x28 := by
    simp (disch := decide) only [opcodeOf_eq, encode, bitsOf_or, bitsOf_other]; rfl
  simp only [decodeSlot, decodeD, opcode, rowOf]
  simp (disch := decide) only [encode, or_and, field_and, bitsOf_or, bitsOf_same, bitsOf_other]
  simp [bitsOf]
theorem bfaa (g : BitVec 4) (a : BitVec 7) (b : BitVec 7) (c : BitVec 4) (z : BitVec 2) : Statement (.bfaa g a b c z) := by
  rintro _ ⟨⟩
  have opcode : opcodeOf (encode (.bfaa g a b c z)) = 0x29 := by
    simp (disch := decide) only [opcodeOf_eq, encode, bitsOf_or, bitsOf_other]; rfl
  simp only [decodeSlot, decodeD, opcode, rowOf]
  simp (disch := decide) only [encode, or_and, field_and, bitsOf_or, bitsOf_same, bitsOf_other]
  simp [bitsOf]
theorem tktake (g : BitVec 4) (a : BitVec 7) (c : BitVec 4) : Statement (.tktake g a c) := by
  rintro _ ⟨⟩
  have opcode : opcodeOf (encode (.tktake g a c)) = 0x2A := by
    simp (disch := decide) only [opcodeOf_eq, encode, bitsOf_or, bitsOf_other]; rfl
  simp only [decodeSlot, decodeD, opcode, rowOf]
  simp (disch := decide) only [encode, or_and, field_and, bitsOf_or, bitsOf_same, bitsOf_other]
  simp [bitsOf]
theorem tknext (g : BitVec 4) (a : BitVec 7) (c : BitVec 4) (r : BitVec 1) : Statement (.tknext g a c r) := by
  rintro _ ⟨⟩
  have opcode : opcodeOf (encode (.tknext g a c r)) = 0x2B := by
    simp (disch := decide) only [opcodeOf_eq, encode, bitsOf_or, bitsOf_other]; rfl
  simp only [decodeSlot, decodeD, opcode, rowOf]
  simp (disch := decide) only [encode, or_and, field_and, bitsOf_or, bitsOf_same, bitsOf_other]
  simp [bitsOf]
theorem put (g : BitVec 4) (a : BitVec 7) (b : BitVec 7) (c : BitVec 4) (z : BitVec 2) : Statement (.put g a b c z) := by
  rintro _ ⟨⟩
  have opcode : opcodeOf (encode (.put g a b c z)) = 0x2C := by
    simp (disch := decide) only [opcodeOf_eq, encode, bitsOf_or, bitsOf_other]; rfl
  simp only [decodeSlot, decodeD, opcode, rowOf]
  simp (disch := decide) only [encode, or_and, field_and, bitsOf_or, bitsOf_same, bitsOf_other]
  simp [bitsOf]
theorem lqbind (g : BitVec 4) (a : BitVec 7) (u : BitVec 1) (m : BitVec 1) (d : BitVec 1) (n : BitVec 3) : Statement (.lqbind g a u m d n) := by
  rintro _ ⟨⟩
  have opcode : opcodeOf (encode (.lqbind g a u m d n)) = 0x40 := by
    simp (disch := decide) only [opcodeOf_eq, encode, bitsOf_or, bitsOf_other]; rfl
  simp only [decodeSlot, decodeD, opcode, rowOf]
  simp (disch := decide) only [encode, or_and, field_and, bitsOf_or, bitsOf_same, bitsOf_other]
  simp [bitsOf]
theorem radd (g : BitVec 4) (a : BitVec 7) (b : BitVec 7) (c : BitVec 4) (r : BitVec 1) (w : BitVec 1) : Statement (.radd g a b c r w) := by
  rintro _ ⟨⟩
  have opcode : opcodeOf (encode (.radd g a b c r w)) = 0x41 := by
    simp (disch := decide) only [opcodeOf_eq, encode, bitsOf_or, bitsOf_other]; rfl
  simp only [decodeSlot, decodeD, opcode, rowOf]
  simp (disch := decide) only [encode, or_and, field_and, bitsOf_or, bitsOf_same, bitsOf_other]
  simp [bitsOf]
theorem rcas (g : BitVec 4) (a : BitVec 7) (b : BitVec 7) (c : BitVec 4) (w : BitVec 1) : Statement (.rcas g a b c w) := by
  rintro _ ⟨⟩
  have opcode : opcodeOf (encode (.rcas g a b c w)) = 0x42 := by
    simp (disch := decide) only [opcodeOf_eq, encode, bitsOf_or, bitsOf_other]; rfl
  simp only [decodeSlot, decodeD, opcode, rowOf]
  simp (disch := decide) only [encode, or_and, field_and, bitsOf_or, bitsOf_same, bitsOf_other]
  simp [bitsOf]
theorem rswp (g : BitVec 4) (a : BitVec 7) (b : BitVec 7) (c : BitVec 4) (w : BitVec 1) : Statement (.rswp g a b c w) := by
  rintro _ ⟨⟩
  have opcode : opcodeOf (encode (.rswp g a b c w)) = 0x43 := by
    simp (disch := decide) only [opcodeOf_eq, encode, bitsOf_or, bitsOf_other]; rfl
  simp only [decodeSlot, decodeD, opcode, rowOf]
  simp (disch := decide) only [encode, or_and, field_and, bitsOf_or, bitsOf_same, bitsOf_other]
  simp [bitsOf]
theorem rred (g : BitVec 4) (a : BitVec 7) (b : BitVec 7) (c : BitVec 4) (fl : BitVec 2) : Statement (.rred g a b c fl) := by
  rintro _ ⟨⟩
  have opcode : opcodeOf (encode (.rred g a b c fl)) = 0x44 := by
    simp (disch := decide) only [opcodeOf_eq, encode, bitsOf_or, bitsOf_other]; rfl
  simp only [decodeSlot, decodeD, opcode, rowOf]
  simp (disch := decide) only [encode, or_and, field_and, bitsOf_or, bitsOf_same, bitsOf_other]
  simp [bitsOf]
theorem rget (g : BitVec 4) (a : BitVec 7) (b : BitVec 7) (c : BitVec 4) (z : BitVec 2) : Statement (.rget g a b c z) := by
  rintro _ ⟨⟩
  have opcode : opcodeOf (encode (.rget g a b c z)) = 0x45 := by
    simp (disch := decide) only [opcodeOf_eq, encode, bitsOf_or, bitsOf_other]; rfl
  simp only [decodeSlot, decodeD, opcode, rowOf]
  simp (disch := decide) only [encode, or_and, field_and, bitsOf_or, bitsOf_same, bitsOf_other]
  simp [bitsOf]
theorem rput (g : BitVec 4) (a : BitVec 7) (b : BitVec 7) (c : BitVec 4) (z : BitVec 2) : Statement (.rput g a b c z) := by
  rintro _ ⟨⟩
  have opcode : opcodeOf (encode (.rput g a b c z)) = 0x46 := by
    simp (disch := decide) only [opcodeOf_eq, encode, bitsOf_or, bitsOf_other]; rfl
  simp only [decodeSlot, decodeD, opcode, rowOf]
  simp (disch := decide) only [encode, or_and, field_and, bitsOf_or, bitsOf_same, bitsOf_other]
  simp [bitsOf]
theorem beadld (g : BitVec 4) (a : BitVec 7) (b : BitVec 7) (m : BitVec 1) (n : BitVec 2) : Statement (.beadld g a b m n) := by
  rintro _ ⟨⟩
  have opcode : opcodeOf (encode (.beadld g a b m n)) = 0x47 := by
    simp (disch := decide) only [opcodeOf_eq, encode, bitsOf_or, bitsOf_other]; rfl
  simp only [decodeSlot, decodeD, opcode, rowOf]
  simp (disch := decide) only [encode, or_and, field_and, bitsOf_or, bitsOf_same, bitsOf_other]
  simp [bitsOf]
theorem pnew (g : BitVec 4) (a : BitVec 7) (b : BitVec 7) : Statement (.pnew g a b) := by
  rintro _ ⟨⟩
  have opcode : opcodeOf (encode (.pnew g a b)) = 0x50 := by
    simp (disch := decide) only [opcodeOf_eq, encode, bitsOf_or, bitsOf_other]; rfl
  simp only [decodeSlot, decodeD, opcode, rowOf]
  simp (disch := decide) only [encode, or_and, field_and, bitsOf_or, bitsOf_same, bitsOf_other]
  simp [bitsOf]
theorem pgrow (g : BitVec 4) (a : BitVec 7) (b : BitVec 7) : Statement (.pgrow g a b) := by
  rintro _ ⟨⟩
  have opcode : opcodeOf (encode (.pgrow g a b)) = 0x51 := by
    simp (disch := decide) only [opcodeOf_eq, encode, bitsOf_or, bitsOf_other]; rfl
  simp only [decodeSlot, decodeD, opcode, rowOf]
  simp (disch := decide) only [encode, or_and, field_and, bitsOf_or, bitsOf_same, bitsOf_other]
  simp [bitsOf]
theorem ptrim (g : BitVec 4) (a : BitVec 7) (b : BitVec 7) : Statement (.ptrim g a b) := by
  rintro _ ⟨⟩
  have opcode : opcodeOf (encode (.ptrim g a b)) = 0x52 := by
    simp (disch := decide) only [opcodeOf_eq, encode, bitsOf_or, bitsOf_other]; rfl
  simp only [decodeSlot, decodeD, opcode, rowOf]
  simp (disch := decide) only [encode, or_and, field_and, bitsOf_or, bitsOf_same, bitsOf_other]
  simp [bitsOf]
theorem post (g : BitVec 4) (a : BitVec 7) (b : BitVec 7) : Statement (.post g a b) := by
  rintro _ ⟨⟩
  have opcode : opcodeOf (encode (.post g a b)) = 0x53 := by
    simp (disch := decide) only [opcodeOf_eq, encode, bitsOf_or, bitsOf_other]; rfl
  simp only [decodeSlot, decodeD, opcode, rowOf]
  simp (disch := decide) only [encode, or_and, field_and, bitsOf_or, bitsOf_same, bitsOf_other]
  simp [bitsOf]
theorem precv (g : BitVec 4) (a : BitVec 7) (b : BitVec 7) : Statement (.precv g a b) := by
  rintro _ ⟨⟩
  have opcode : opcodeOf (encode (.precv g a b)) = 0x54 := by
    simp (disch := decide) only [opcodeOf_eq, encode, bitsOf_or, bitsOf_other]; rfl
  simp only [decodeSlot, decodeD, opcode, rowOf]
  simp (disch := decide) only [encode, or_and, field_and, bitsOf_or, bitsOf_same, bitsOf_other]
  simp [bitsOf]
theorem pfree (g : BitVec 4) (a : BitVec 7) : Statement (.pfree g a) := by
  rintro _ ⟨⟩
  have opcode : opcodeOf (encode (.pfree g a)) = 0x55 := by
    simp (disch := decide) only [opcodeOf_eq, encode, bitsOf_or, bitsOf_other]; rfl
  simp only [decodeSlot, decodeD, opcode, rowOf]
  simp (disch := decide) only [encode, or_and, field_and, bitsOf_or, bitsOf_same, bitsOf_other]
  simp [bitsOf]
theorem bundlePresentation : Statement .bundlePresentation := nofun
theorem deferredTrap : Statement .deferredTrap := nofun
theorem latencyWriteback : Statement .latencyWriteback := nofun
theorem landingDataArrival : Statement .landingDataArrival := nofun
theorem freezeTimeout : Statement .freezeTimeout := nofun
theorem commandRecordEntry : Statement .commandRecordEntry := nofun
theorem slipStop : Statement .slipStop := nofun
theorem secondaryForcedIssue : Statement .secondaryForcedIssue := nofun
theorem cbProducerCompletion : Statement .cbProducerCompletion := nofun
theorem cbConsumerCompletion : Statement .cbConsumerCompletion := nofun
theorem takeFlip : Statement .takeFlip := nofun
theorem cbpopGrant : Statement .cbpopGrant := nofun
theorem deliveredResultWrite : Statement .deliveredResultWrite := nofun
theorem cbcfgApply : Statement .cbcfgApply := nofun
theorem completionRecord : Statement .completionRecord := nofun
theorem ttinvCompletion : Statement .ttinvCompletion := nofun
theorem portAccess : Statement .portAccess := nofun
theorem tileTableMiss : Statement .tileTableMiss := nofun
theorem pageAnswer : Statement .pageAnswer := nofun
theorem uncorrectableHbmError : Statement .uncorrectableHbmError := nofun
theorem bankAccess : Statement .bankAccess := nofun
theorem dmUncorrectableError : Statement .dmUncorrectableError := nofun
theorem monitorWake : Statement .monitorWake := nofun
theorem barrierCompletion : Statement .barrierCompletion := nofun
theorem superstepCompletion : Statement .superstepCompletion := nofun
theorem putArrival : Statement .putArrival := nofun
theorem pairFire : Statement .pairFire := nofun
theorem chainCommit : Statement .chainCommit := nofun
theorem mvGroupCommit : Statement .mvGroupCommit := nofun
theorem charmCompletion : Statement .charmCompletion := nofun
theorem charmWrite : Statement .charmWrite := nofun
theorem boundQueueWord : Statement .boundQueueWord := nofun
theorem requestInject : Statement .requestInject := nofun
theorem remoteRequestReceive : Statement .remoteRequestReceive := nofun
theorem remoteReply : Statement .remoteReply := nofun
theorem retransmitTimeout : Statement .retransmitTimeout := nofun
theorem circuitFlitArrival : Statement .circuitFlitArrival := nofun
theorem sendFifoPartialFlush : Statement .sendFifoPartialFlush := nofun
theorem unsafeMapUpdate : Statement .unsafeMapUpdate := nofun
theorem laneRetirement : Statement .laneRetirement := nofun
theorem beadTableCommit : Statement .beadTableCommit := nofun
theorem mailboxGrant : Statement .mailboxGrant := nofun
theorem parcelArrival : Statement .parcelArrival := nofun
theorem parcelDeliveryAck : Statement .parcelDeliveryAck := nofun
theorem schedulingPoint : Statement .schedulingPoint := nofun
theorem urgentStop : Statement .urgentStop := nofun
theorem roleSwap : Statement .roleSwap := nofun
theorem sliceEndEviction : Statement .sliceEndEviction := nofun
theorem antiStarvationRaise : Statement .antiStarvationRaise := nofun
theorem launchEnd : Statement .launchEnd := nofun
theorem deadlineExpiry : Statement .deadlineExpiry := nofun
theorem wrapupBudgetExpiry : Statement .wrapupBudgetExpiry := nofun
theorem waittLimitExpiry : Statement .waittLimitExpiry := nofun
theorem firmwareCycleWalk : Statement .firmwareCycleWalk := nofun
theorem debugHaltRequest : Statement .debugHaltRequest := nofun
theorem debugResume : Statement .debugResume := nofun
theorem locketCancel : Statement .locketCancel := nofun
theorem debuggerRegisterWrite : Statement .debuggerRegisterWrite := nofun
theorem coreSplitWrite : Statement .coreSplitWrite := nofun
theorem bankFmtWrite : Statement .bankFmtWrite := nofun
theorem registerWrite : Statement .registerWrite := nofun
theorem doorbell : Statement .doorbell := nofun
theorem queueIdleUnmap : Statement .queueIdleUnmap := nofun
theorem nopPacket : Statement .nopPacket := nofun
theorem launch : Statement .launch := nofun
theorem barrierAnd : Statement .barrierAnd := nofun
theorem barrierAndEvaluation : Statement .barrierAndEvaluation := nofun
theorem signal : Statement .signal := nofun
theorem copy : Statement .copy := nofun
theorem segtab : Statement .segtab := nofun
theorem segmentCopyComplete : Statement .segmentCopyComplete := nofun
theorem frontEndTick : Statement .frontEndTick := nofun
theorem tokenBucketEmpty : Statement .tokenBucketEmpty := nofun
theorem frontEndWake : Statement .frontEndWake := nofun
theorem queueReset : Statement .queueReset := nofun
theorem queueDestroy : Statement .queueDestroy := nofun
theorem tableUpdate : Statement .tableUpdate := nofun
theorem lockstepMismatch : Statement .lockstepMismatch := nofun
theorem workerFailure : Statement .workerFailure := nofun
theorem vfRecord : Statement .vfRecord := nofun
theorem vfReset : Statement .vfReset := nofun
theorem interfaceLock : Statement .interfaceLock := nofun
theorem interfaceStart : Statement .interfaceStart := nofun
theorem interfaceStop : Statement .interfaceStop := nofun
theorem sessionEnd : Statement .sessionEnd := nofun
theorem getMeasurements : Statement .getMeasurements := nofun
theorem tileMove : Statement .tileMove := nofun
theorem preCopyRound : Statement .preCopyRound := nofun
theorem finalRound : Statement .finalRound := nofun
theorem activation : Statement .activation := nofun
theorem migrationEnd : Statement .migrationEnd := nofun
theorem bringUp : Statement .bringUp := nofun
theorem recoveryBootImage : Statement .recoveryBootImage := nofun
theorem ptpSync : Statement .ptpSync := nofun
theorem timeUnlocked : Statement .timeUnlocked := nofun
theorem healthMonitorSample : Statement .healthMonitorSample := nofun
theorem healthReport : Statement .healthReport := nofun
theorem fatalEvent : Statement .fatalEvent := nofun
theorem fatalNodump : Statement .fatalNodump := nofun
theorem resetPackage : Statement .resetPackage := nofun
theorem stripTransferCompletion : Statement .stripTransferCompletion := nofun
theorem dispenserAccess : Statement .dispenserAccess := nofun
theorem endpointPacketArrival : Statement .endpointPacketArrival := nofun
theorem spdmSessionStart : Statement .spdmSessionStart := nofun
end ReadBack
end Sys2Proof.Laws
end

