-- ==== Sys2Proof/Tests/Slice0.lean ====
section
/-!
SUPPORT. Tests: terms that well-formedness refuses, words the spec writes out and one word of every slot constructor put
together from the spec's encodings, single steps whose results the spec gives or that are worked out by hand, and for every
statement with hypotheses theorems `witness_<its name>` that show states and operands meeting them.
-/
namespace Sys2Proof.Tests

set_option Elab.async false
open Sys2Proof Sys2Proof.Machine
/-- A task of VF 0 on unit 0 of die 0. -/
def t1 : Task :=
  { Task.zero with key := 1, launch := 1, priv := true, state := .primary, lsSize := 4, dmSize := 4096, taskId := 0x77 }
/-- A VF record with some of everything on die 0. -/
def vf0 : VfSt :=
  { VfSt.zero with valid := true, dmSize := Vector.replicate 12 65536, tkCount := 4, mbxCount := 4, pclCount := 8,
                   iface := .run, tdtBase := 0x10000, tdtCount := 16, qcbBase := 0x4000,
                   pclBase := Vector.replicate 12 0, pclSize := Vector.replicate 12 64,
                   segBase := Vector.replicate 12 0, segBound := Vector.replicate 12 16 }
/-- A launch of one task. -/
def l1 : Launch := { Launch.zero with live := true, lsTiles := 4, left := [0] }
/-- The package with that task in the foreground. -/
def s0 : State :=
  { State.reset with
    fg := t1, nid := 10, ctl := { Ctl.none with on := true }, vfs := [(0, vf0)], launches := [(1, l1)],
    units := [(0, { UnitSt.zero with prim := 1 })] }
/-- Set an i register of the running column. -/
def seti (s : State) (n : Nat) (w : Word) : State := s.setBank { s.bank with ireg := vset s.bank.ireg n w }
/-- The DM number of an offset of VF 0 on die 0. -/
def dm (off : Nat) : Nat := dmNo 0 off
/-- Store a doubleword. -/
def put8 (s : State) (a x : Nat) : State := s.setNum a 8 x
/-- Set the foreground task. -/
def withFg (s : State) (f : Task → Task) : State := { s with fg := f s.fg }
/-- An outcome is a next state. -/
def isNext : Host.Outcome State Fault Refusal → Bool | .next _ => true | _ => false
/-- The next state. -/
def getNext : Host.Outcome State Fault Refusal → State | .next t => t | _ => State.reset
/-- An insertion into the clasp table fits, closes a cycle, or finds the table full. -/
def fits : ClaspRes → Bool | .ok _ => true | _ => false
def closes : ClaspRes → Bool | .dead _ => true | _ => false
def overfull : ClaspRes → Bool | .full _ => true | _ => false
/-! Well-formedness: for each check, a term it refuses. -/

theorem test_wf_i_field : (Instr.add 0 (64 + 5) 1 2).wf = false ∧ (Instr.add 0 (64 + 56) 1 2).wf = false ∧
    (Instr.add 0 (64 + 55) 1 2).wf = true ∧ (Instr.add 0 63 1 2).wf = true := by decide
theorem test_wf_engine_field : (Instr.tld 0 56 0).wf = false ∧ (Instr.tld 0 55 0).wf = true := by decide
theorem test_wf_v_field : (Instr.fadd 0 32 1 2).wf = false ∧ (Instr.fadd 0 (64 + 15) 1 2).wf = false := by decide
theorem test_wf_p_field : (Instr.pset 0 16 1).wf = false ∧ (Instr.pset 0 (64 + 7) 1).wf = false := by decide
theorem test_wf_pset_value : (Instr.pset 0 3 2).wf = false := by decide
theorem test_wf_k_field : (Instr.kop 0 8 0 0 0).wf = false ∧ (Instr.kop 0 (64 + 1) 0 0 0).wf = false := by decide
theorem test_wf_one_of_eight : (Instr.movim 0 8 1).wf = false ∧ (Instr.movie 0 9 1).wf = false ∧
    (Instr.agset 0 8 1 2).wf = false := by decide
theorem test_wf_landing_field : (Instr.vmov 0 1 16 1).wf = false ∧ (Instr.ldl 0 1 16 0 0 0).wf = false := by decide
theorem test_wf_tqry_generator : (Instr.tqry 0 1 8).wf = false := by decide
theorem test_wf_lane_read : (Instr.ldl 0 1 2 1 1 0).wf = false ∧ (Instr.vtoi 0 1 2 0 1 3).wf = false := by decide
theorem test_wf_fcvt : (Instr.fcvt 0 1 2 0 7 0).wf = false ∧ (Instr.fcvt 0 1 2 0 0 2).wf = false ∧
    (Instr.fcvt 0 1 2 1 6 0).wf = false := by decide
theorem test_wf_special_register : (Instr.getsr 0 1 0x00F).wf = false ∧ (Instr.setsr 0 1 0x071).wf = false := by decide
theorem test_wf_fencesc : (Instr.fencesc 0 0).wf = false := by decide
theorem test_wf_bar_scope : (Instr.bar 0 0).wf = false ∧ (Instr.bar 0 6).wf = false := by decide
theorem test_wf_sstep_scope : (Instr.sstep 0 2).wf = false ∧ (Instr.sstep 0 5).wf = false := by decide
theorem test_wf_prio : (Instr.prio 0 4).wf = false := by decide
theorem test_wf_shift_amount : (Instr.shli 0 1 2 64).wf = false ∧ (Instr.shri 0 1 2 64).wf = false ∧
    (Instr.sari 0 1 2 64).wf = false := by decide
theorem test_wf_compare_destination : (Instr.cmp 0 1 0 7 1 2).wf = false ∧ (Instr.cmpi 0 1 0 7 1 2).wf = false := by decide
theorem test_wf_setib : (Instr.setib 0 3 1 0).wf = false := by decide
theorem test_wf_load_latency : (Instr.lds 0 3 2 7 0 0 0).wf = false ∧ (Instr.ldd 0 3 2 7 0 0 0).wf = false ∧
    (Instr.ldt 0 3 2 7 0 0 0).wf = false ∧ (Instr.pld 0 3 2 7 0 0 0).wf = false ∧
    (Instr.pldref 0 3 2 7 0 0).wf = false := by decide
theorem test_wf_vector_conditions : (Instr.fcmp 0 5 1 2 3).wf = false ∧ (Instr.vcmp 0 6 1 2 3).wf = false := by decide
theorem test_wf_vbcast_pair : (Instr.vbcast 0 1 2 1 3).wf = false := by decide
theorem test_wf_vred : (Instr.vred 0 1 2 1 3 0).wf = false := by decide
theorem test_wf_kop : (Instr.kop 0 1 2 6 0).wf = false ∧ (Instr.kop 0 1 2 4 1).wf = false := by decide
theorem test_wf_qdrop : (Instr.qdrop 0 0 0 0).wf = false := by decide
theorem test_wf_give_engine : (Instr.give 0 1 2 4 0).wf = false ∧ (Instr.take 0 1 2 4 0).wf = false := by decide
theorem test_wf_bank_size : (Instr.badd 0 1 2 0 2).wf = false ∧ (Instr.bfaa 0 1 2 0 3).wf = false := by decide
theorem test_wf_float_codes : (Instr.bfadd 0 1 2 0 3).wf = false ∧ (Instr.rred 0 1 2 0 3).wf = false := by decide
theorem test_wf_cas_pair : (Instr.bcas 0 1 3 0 0).wf = false ∧ (Instr.rcas 0 1 3 0 0).wf = false := by decide
theorem test_wf_lqbind : (Instr.lqbind 0 1 1 1 0 0).wf = false ∧ (Instr.lqbind 0 1 1 0 0 0).wf = false := by decide

/-! Decoding: the words the spec writes out in its examples. -/

theorem test_decode_examples_1 :
    decodeSlot .i 0x02014286 = .instr (.add 0 5 5 6) ∧ decodeSlot .i 0x4008C082 = .instr (.cmp 0 0 2 3 1 2) ∧
    decodeSlot .i 0x4400FFFB = .instr (.li 0 3 0x3FFB) ∧ decodeSlot .i 0x4C008380 = .instr (.movim 0 2 7) ∧
    decodeSlot .c 0x1400C001 = .instr (.pset 0 3 1) ∧ decodeSlot .f 0x08184653 = .instr (.ffma 0 1 16 17 18 19) ∧
    decodeSlot .i 0x5C068C00 = .instr (.lds 0 3 2 12 0 0 0) ∧ decodeSlot .c 0x26000060 = .instr (.fencec 0 0x0003) ∧
    decodeSlot .c 0x1002FFFC = .instr (.loopr 0 0 2 0xFFFC) ∧ decodeSlot .c 0x053FFFFC = .instr (.brn 9 0x1FFFFC) := by
  decide +kernel
theorem test_decode_examples_2 :
    decodeSlot .d 0xA6010300 = .instr (.post 0 4 6) ∧ decodeSlot .d 0xA8020480 = .instr (.precv 0 8 9) ∧
    decodeSlot .d 0xAA010000 = .instr (.pfree 0 4) ∧ decodeSlot .m 0x2602C000 = .instr (.mpoll 0 11) ∧
    decodeSlot .f 0x02004103 = .instr (.fadd 0 1 2 3) ∧ decodeSlot .f 0x18048205 = .instr (.fcmp 0 2 2 4 5) ∧
    decodeSlot .f 0x1A00C201 = .instr (.fcvt 0 3 4 0 0 1) ∧ decodeSlot .f 0x3C031D03 = .instr (.vsel 0 0 6 7 8 3) ∧
    decodeSlot .f 0x46140001 = .instr (.vmov 0 0x50 0 1) ∧ decodeSlot .f 0x48024185 = .instr (.vtoi 0 9 3 0 0 5) := by
  decide +kernel
theorem test_decode_examples_3 :
    decodeSlot .f 0x4A00411B = .instr (.kop 0 1 2 3 3) ∧ decodeSlot .f 0x42008481 = .instr (.vred 0 2 9 0 0 1) ∧
    decodeSlot .f 0x4C01437F = .instr (.requant 0 5 6 1 0x3F) ∧ decodeSlot .c 0x66000205 = .instr (.waitv 0 4 5) ∧
    decodeSlot .c 0x6E000184 = .instr (.tkwait 0 3 4) ∧ decodeSlot .m 0x60018380 = .instr (.chld 0 6 7) ∧
    decodeSlot .m 0x10028020 = .instr (.qbind 0 10 1) ∧ decodeSlot .m 0x12000001 = .instr (.qdrop 0 0 0 1) ∧
    decodeSlot .i 0x6A024080 = .instr (.tqry 0 9 1) ∧ decodeSlot .d 0x5801C480 = .instr (.put 0 7 9 0 0) := by
  decide +kernel
theorem test_decode_reserved :
    decodeSlot .f 0x00000001 = .rejected .reservedBits ∧ decodeSlot .m 0x12000000 = .rejected .reservedValue := by
  decide +kernel

/-! One word of every constructor of a slot, its fields put at the places the spec's encodings give them. -/

theorem test_decode_control_1 :
    decodeSlot .c 0x00600000 = .instr (.nop 3) ∧
    decodeSlot .c 0x03269737 = .instr (.br 9 431927) ∧
    decodeSlot .c 0x04690594 = .instr (.brn 3 591252) ∧
    decodeSlot .c 0x06684B29 = .instr (.call 3 543529) ∧
    decodeSlot .c 0x09200300 = .instr (.callr 9 6) ∧
    decodeSlot .c 0x0A600380 = .instr (.jmpr 3 7) ∧
    decodeSlot .c 0x0C000000 = .instr (.ret 0) ∧
    decodeSlot .c 0x0E1F22B3 = .instr (.loop 0 3 467635) ∧
    decodeSlot .c 0x10795C58 = .instr (.loopr 3 3 1 23640) ∧
    decodeSlot .c 0x1270DF40 = .instr (.lexit 3 2 57152) ∧
    decodeSlot .c 0x1400C001 = .instr (.pset 0 3 1) ∧
    decodeSlot .c 0x16608282 = .instr (.pand 3 2 5 2) := by
  decide +kernel
theorem test_decode_control_2 :
    decodeSlot .c 0x1921C283 = .instr (.por 9 7 5 3) ∧
    decodeSlot .c 0x1A018104 = .instr (.pxor 0 6 2 4) ∧
    decodeSlot .c 0x1C01C080 = .instr (.pnot 0 7 1) ∧
    decodeSlot .c 0x1E610185 = .instr (.pandn 3 4 3 5) ∧
    decodeSlot .c 0x2120008E = .instr (.trap 9 142) ∧
    decodeSlot .c 0x22600000 = .instr (.eret 3) ∧
    decodeSlot .c 0x252000EA = .instr (.bkpt 9 234) ∧
    decodeSlot .c 0x27259EC0 = .instr (.fencec 9 11510) ∧
    decodeSlot .c 0x28000010 = .instr (.fencesc 0 4) ∧
    decodeSlot .c 0x2A610000 = .instr (.getln 3 4) ∧
    decodeSlot .c 0x2C600300 = .instr (.setln 3 6) ∧
    decodeSlot .c 0x2E000000 = .instr (.halt 0) := by
  decide +kernel
theorem test_decode_control_3 :
    decodeSlot .c 0x61200000 = .instr (.exit 9) ∧
    decodeSlot .c 0x62000000 = .instr (.yield 0) ∧
    decodeSlot .c 0x64000008 = .instr (.bar 0 2) ∧
    decodeSlot .c 0x66600306 = .instr (.waitv 3 6 6) ∧
    decodeSlot .c 0x68608305 = .instr (.waitt 3 2 6 5) ∧
    decodeSlot .c 0x6B200300 = .instr (.lock 9 6) ∧
    decodeSlot .c 0x6D200180 = .instr (.unlock 9 3) ∧
    decodeSlot .c 0x6E000087 = .instr (.tkwait 0 1 7) ∧
    decodeSlot .c 0x70600010 = .instr (.sstep 3 4) ∧
    decodeSlot .c 0x72600001 = .instr (.prio 3 1) ∧
    decodeSlot .c 0x7401C000 = .instr (.gettime 0 7) ∧
    decodeSlot .c 0x77210002 = .instr (.dlinfo 9 4 2) := by
  decide +kernel
theorem test_decode_control_4 :
    decodeSlot .c 0x7800C100 = .instr (.valid 0 3 2) ∧
    decodeSlot .c 0x7A600080 = .instr (.wobj 3 1) ∧
    decodeSlot .c 0x7D200300 = .instr (.wdrop 9 6) := by
  decide +kernel
theorem test_decode_integer_1 :
    decodeSlot .i 0x0201C301 = .instr (.add 0 7 6 1) ∧
    decodeSlot .i 0x05204205 = .instr (.addi 9 1 4 5) ∧
    decodeSlot .i 0x06008381 = .instr (.sub 0 2 7 1) ∧
    decodeSlot .i 0x08604086 = .instr (.mul 3 1 1 6) ∧
    decodeSlot .i 0x0A01C103 = .instr (.mulh 0 7 2 3) ∧
    decodeSlot .i 0x0C014284 = .instr (.mulhu 0 5 5 4) ∧
    decodeSlot .i 0x0F214384 = .instr (.div 9 5 7 4) ∧
    decodeSlot .i 0x1121C102 = .instr (.divu 9 7 2 2) ∧
    decodeSlot .i 0x12018382 = .instr (.rem 0 6 7 2) ∧
    decodeSlot .i 0x14008205 = .instr (.remu 0 2 4 5) ∧
    decodeSlot .i 0x16608107 = .instr (.and 3 2 2 7) ∧
    decodeSlot .i 0x18018385 = .instr (.andi 0 6 7 5) := by
  decide +kernel
theorem test_decode_integer_2 :
    decodeSlot .i 0x1A61C185 = .instr (.or 3 7 3 5) ∧
    decodeSlot .i 0x1C614107 = .instr (.ori 3 5 2 7) ∧
    decodeSlot .i 0x1E60C385 = .instr (.xor 3 3 7 5) ∧
    decodeSlot .i 0x21214107 = .instr (.xori 9 5 2 7) ∧
    decodeSlot .i 0x23210305 = .instr (.shl 9 4 6 5) ∧
    decodeSlot .i 0x2521C203 = .instr (.shli 9 7 4 3) ∧
    decodeSlot .i 0x26608207 = .instr (.shr 3 2 4 7) ∧
    decodeSlot .i 0x29204301 = .instr (.shri 9 1 6 1) ∧
    decodeSlot .i 0x2A614387 = .instr (.sar 3 5 7 7) ∧
    decodeSlot .i 0x2C610102 = .instr (.sari 3 4 2 2) ∧
    decodeSlot .i 0x2E610207 = .instr (.min 3 4 4 7) ∧
    decodeSlot .i 0x31214103 = .instr (.max 9 5 2 3) := by
  decide +kernel
theorem test_decode_integer_3 :
    decodeSlot .i 0x32014104 = .instr (.minu 0 5 2 4) ∧
    decodeSlot .i 0x3520C205 = .instr (.maxu 9 3 4 5) ∧
    decodeSlot .i 0x36008100 = .instr (.clz 0 2 2) ∧
    decodeSlot .i 0x38610280 = .instr (.popc 3 4 5) ∧
    decodeSlot .i 0x3A014303 = .instr (.bfx 0 5 6 3) ∧
    decodeSlot .i 0x3C004305 = .instr (.bfi 0 1 6 5) ∧
    decodeSlot .i 0x3E01C202 = .instr (.sel 0 7 4 2) ∧
    decodeSlot .i 0x413E4304 = .instr (.cmp 9 1 3 9 6 4) ∧
    decodeSlot .i 0x4217C381 = .instr (.cmpi 0 1 1 15 7 1) ∧
    decodeSlot .i 0x4461C001 = .instr (.li 3 7 1) ∧
    decodeSlot .i 0x46604022 = .instr (.lih 3 1 34) ∧
    decodeSlot .i 0x49204300 = .instr (.mov 9 1 6) := by
  decide +kernel
theorem test_decode_integer_4 :
    decodeSlot .i 0x4A01C300 = .instr (.moviv 0 7 6) ∧
    decodeSlot .i 0x4C610200 = .instr (.movim 3 4 4) ∧
    decodeSlot .i 0x4F21C100 = .instr (.movie 9 7 2) ∧
    decodeSlot .i 0x50604284 = .instr (.setib 3 1 5 4) ∧
    decodeSlot .i 0x52614001 = .instr (.getsr 3 5 1) ∧
    decodeSlot .i 0x55218010 = .instr (.setsr 9 6 16) ∧
    decodeSlot .i 0x5721C307 = .instr (.agset 9 7 6 7) ∧
    decodeSlot .i 0x58608180 = .instr (.agpos 3 2 3) ∧
    decodeSlot .i 0x5A614687 = .instr (.aginc 3 5 13 7) ∧
    decodeSlot .i 0x5D350CAA = .instr (.lds 9 10 4 12 10 1 2) ∧
    decodeSlot .i 0x5E170039 = .instr (.sts 0 11 4 3 1 1) ∧
    decodeSlot .i 0x607F895A = .instr (.ldt 3 15 6 9 5 1 2) := by
  decide +kernel
theorem test_decode_integer_5 :
    decodeSlot .i 0x627A806A = .instr (.stt 3 13 2 6 1 2) ∧
    decodeSlot .i 0x652748FA = .instr (.ldd 9 3 5 8 15 1 2) ∧
    decodeSlot .i 0x67234079 = .instr (.std 9 1 5 7 1 1) ∧
    decodeSlot .i 0x687D840F = .instr (.ldl 3 118 8 0 0 15) ∧
    decodeSlot .i 0x6A008180 = .instr (.tqry 0 2 3) ∧
    decodeSlot .i 0x6D204103 = .instr (.xmov 9 1 2 3) ∧
    decodeSlot .i 0xC130885A = .instr (.pld 9 8 2 8 5 1 2) ∧
    decodeSlot .i 0xC33B80DB = .instr (.pst 9 13 6 13 1 3) ∧
    decodeSlot .i 0xC47A8C48 = .instr (.pldref 3 13 2 12 4 1) ∧
    decodeSlot .i 0xC66440F8 = .instr (.pstref 3 2 1 15 1) := by
  decide +kernel
theorem test_decode_vector_1 :
    decodeSlot .f 0x02010201 = .instr (.fadd 0 4 4 1) ∧
    decodeSlot .f 0x04618104 = .instr (.fsub 3 6 2 4) ∧
    decodeSlot .f 0x06608106 = .instr (.fmul 3 2 2 6) ∧
    decodeSlot .f 0x081D703C = .instr (.ffma 0 1 26 28 1 28) ∧
    decodeSlot .f 0x0B348732 = .instr (.ffms 9 1 9 1 25 18) ∧
    decodeSlot .f 0x0C1293B7 = .instr (.fnma 0 1 5 4 29 23) ∧
    decodeSlot .f 0x0E014105 = .instr (.fmin 0 5 2 5) ∧
    decodeSlot .f 0x10010105 = .instr (.fmax 0 4 2 5) ∧
    decodeSlot .f 0x13208200 = .instr (.fabs 9 2 4) ∧
    decodeSlot .f 0x14010200 = .instr (.fneg 0 4 4) ∧
    decodeSlot .f 0x17204383 = .instr (.fcps 9 1 7 3) ∧
    decodeSlot .f 0x19290206 = .instr (.fcmp 9 4 4 4 6) := by
  decide +kernel
theorem test_decode_vector_2 :
    decodeSlot .f 0x1B20414D = .instr (.fcvt 9 1 2 2 3 1) ∧
    decodeSlot .f 0x1C01C1E0 = .instr (.frnd 0 7 3 3) ∧
    decodeSlot .f 0x1E6041E0 = .instr (.ftoi 3 1 3 3) ∧
    decodeSlot .f 0x21208280 = .instr (.itof 9 2 5) ∧
    decodeSlot .f 0x2321C181 = .instr (.vadd 9 7 3 1) ∧
    decodeSlot .f 0x2401C082 = .instr (.vsub 0 7 1 2) ∧
    decodeSlot .f 0x26604302 = .instr (.vmul 3 1 6 2) ∧
    decodeSlot .f 0x29210181 = .instr (.vmulh 9 4 3 1) ∧
    decodeSlot .f 0x2A008282 = .instr (.vand 0 2 5 2) ∧
    decodeSlot .f 0x2C008284 = .instr (.vor 0 2 5 4) ∧
    decodeSlot .f 0x2E618381 = .instr (.vxor 3 6 7 1) ∧
    decodeSlot .f 0x31204286 = .instr (.vshl 9 1 5 6) := by
  decide +kernel
theorem test_decode_vector_3 :
    decodeSlot .f 0x32018185 = .instr (.vshr 0 6 3 5) ∧
    decodeSlot .f 0x34008102 = .instr (.vsar 0 2 2 2) ∧
    decodeSlot .f 0x36610283 = .instr (.vmin 3 4 5 3) ∧
    decodeSlot .f 0x3920C282 = .instr (.vmax 9 3 5 2) ∧
    decodeSlot .f 0x3A654287 = .instr (.vcmp 3 2 5 5 7) ∧
    decodeSlot .f 0x3C13B446 = .instr (.vsel 0 1 7 13 2 6) ∧
    decodeSlot .f 0x3F218103 = .instr (.vperm 9 6 2 3) ∧
    decodeSlot .f 0x412081B2 = .instr (.vbcast 9 2 3 1 18) ∧
    decodeSlot .f 0x426041B2 = .instr (.vred 3 1 3 1 2 2) ∧
    decodeSlot .f 0x45204001 = .instr (.viota 9 1 1) ∧
    decodeSlot .f 0x46014301 = .instr (.vmov 0 5 6 1) ∧
    decodeSlot .f 0x4860C496 = .instr (.vtoi 3 3 9 0 0 22) := by
  decide +kernel
theorem test_decode_vector_4 :
    decodeSlot .f 0x4B208093 = .instr (.kop 9 2 1 2 3) ∧
    decodeSlot .f 0x4D210349 = .instr (.requant 9 4 6 1 9) ∧
    decodeSlot .f 0x4E610303 = .instr (.vdot4 3 4 6 3) ∧
    decodeSlot .f 0x5060C281 = .instr (.vxmov 3 3 5 1) ∧
    decodeSlot .f 0xA1204386 = .instr (.fn 9 1 7 6) ∧
    decodeSlot .f 0xA201C385 = .instr (.fnp 0 7 7 5) ∧
    decodeSlot .f 0xA4010100 = .instr (.frcp 0 4 2) ∧
    decodeSlot .f 0xA6008380 = .instr (.frsq 0 2 7) := by
  decide +kernel
theorem test_decode_chain_1 :
    decodeSlot .m 0x02614000 = .instr (.mcfg 3 5) ∧
    decodeSlot .m 0x04608003 = .instr (.tcfg 3 2 3) ∧
    decodeSlot .m 0x07200002 = .instr (.tzero 9 2) ∧
    decodeSlot .m 0x0800C001 = .instr (.treshape 0 3 1) ∧
    decodeSlot .m 0x0A618300 = .instr (.tldq 3 6 6) ∧
    decodeSlot .m 0x0C610002 = .instr (.tld 3 4 2) ∧
    decodeSlot .m 0x0E604041 = .instr (.tst 3 1 1 1) ∧
    decodeSlot .m 0x0F2040C8 = .instr (.tstO 9 1 1 1) ∧
    decodeSlot .m 0x10030000 = .instr (.qbind 0 12 0) ∧
    decodeSlot .m 0x13200003 = .instr (.qdrop 9 0 1 1) ∧
    decodeSlot .m 0x14608001 = .instr (.chain 3 2 1) ∧
    decodeSlot .m 0x16610007 = .instr (.chainm 3 4 3 1) := by
  decide +kernel
theorem test_decode_chain_2 :
    decodeSlot .m 0x18600040 = .instr (.chfin 3 1) ∧
    decodeSlot .m 0x1A014240 = .instr (.stsave 0 5 4 1) ∧
    decodeSlot .m 0x1D208000 = .instr (.stld 9 2) ∧
    decodeSlot .m 0x1C008381 = .instr (.stldMerge 0 2 7) ∧
    decodeSlot .m 0x1E610000 = .instr (.mcall 3 4) ∧
    decodeSlot .m 0x20608000 = .instr (.mrep 3 2) ∧
    decodeSlot .m 0x23204380 = .instr (.mvb 9 1 7) ∧
    decodeSlot .m 0x24614005 = .instr (.mv 3 5 5) ∧
    decodeSlot .m 0x26604000 = .instr (.mpoll 3 1) ∧
    decodeSlot .m 0x61208100 = .instr (.chld 9 2 2) ∧
    decodeSlot .m 0x6261800D = .instr (.ftld 3 6 13) ∧
    decodeSlot .m 0x64018003 = .instr (.fmld 0 6 3) := by
  decide +kernel
theorem test_decode_chain_3 :
    decodeSlot .m 0x6721C06E = .instr (.rowstat 9 7 3 1 6) := by
  decide +kernel
theorem test_decode_data_1 :
    decodeSlot .d 0x03200040 = .instr (.cpy 9 1) ∧
    decodeSlot .d 0x0400C2C0 = .instr (.cpyl 0 3 5 1) ∧
    decodeSlot .d 0x06000060 = .instr (.cpyq 0 1 1) ∧
    decodeSlot .d 0x08008240 = .instr (.kvcommit 0 2 4 1) ∧
    decodeSlot .d 0x0A6040A8 = .instr (.give 3 1 1 2 2) ∧
    decodeSlot .d 0x0C0182AC = .instr (.take 0 6 5 2 3) ∧
    decodeSlot .d 0x0E00C007 = .instr (.cbcfg 0 3 7) ∧
    decodeSlot .d 0x10600003 = .instr (.cbpush 3 3) ∧
    decodeSlot .d 0x12604004 = .instr (.cbpop 3 1 4) ∧
    decodeSlot .d 0x14010000 = .instr (.cpyst 0 4) ∧
    decodeSlot .d 0x16018302 = .instr (.ttinv 0 6 6 2) ∧
    decodeSlot .d 0x406181B9 = .instr (.badd 3 6 3 7 1) := by
  decide +kernel
theorem test_decode_data_2 :
    decodeSlot .d 0x42604289 = .instr (.bfadd 3 1 5 1 1) ∧
    decodeSlot .d 0x4520C135 = .instr (.bmin 9 3 2 6 1 1) ∧
    decodeSlot .d 0x4601C08D = .instr (.bmax 0 7 1 1 1 1) ∧
    decodeSlot .d 0x486041C9 = .instr (.band 3 1 3 9 1) ∧
    decodeSlot .d 0x4A614211 = .instr (.bor 3 5 4 2 1) ∧
    decodeSlot .d 0x4C0041C1 = .instr (.bxor 0 1 3 8 1) ∧
    decodeSlot .d 0x4E61C319 = .instr (.bswp 3 7 6 3 1) ∧
    decodeSlot .d 0x50618221 = .instr (.bcas 3 6 4 4 1) ∧
    decodeSlot .d 0x520101F9 = .instr (.bfaa 0 4 3 15 1) ∧
    decodeSlot .d 0x5460C038 = .instr (.tktake 3 3 7) ∧
    decodeSlot .d 0x56018019 = .instr (.tknext 0 6 3 1) ∧
    decodeSlot .d 0x58614191 = .instr (.put 3 5 3 2 1) := by
  decide +kernel
theorem test_decode_data_3 :
    decodeSlot .d 0x813A0006 = .instr (.lqbind 9 104 0 0 0 6) ∧
    decodeSlot .d 0x8320C293 = .instr (.radd 9 3 5 2 1 1) ∧
    decodeSlot .d 0x85214251 = .instr (.rcas 9 5 4 10 1) ∧
    decodeSlot .d 0x872041C1 = .instr (.rswp 9 1 3 8 1) ∧
    decodeSlot .d 0x8861C362 = .instr (.rred 3 7 6 12 2) ∧
    decodeSlot .d 0x8A6103DB = .instr (.rget 3 4 7 11 3) ∧
    decodeSlot .d 0x8D2042F3 = .instr (.rput 9 1 5 14 3) ∧
    decodeSlot .d 0x8E004185 = .instr (.beadld 0 1 3 1 1) ∧
    decodeSlot .d 0xA1208080 = .instr (.pnew 9 2 1) ∧
    decodeSlot .d 0xA3208180 = .instr (.pgrow 9 2 3) ∧
    decodeSlot .d 0xA460C280 = .instr (.ptrim 3 3 5) ∧
    decodeSlot .d 0xA600C100 = .instr (.post 0 3 2) := by
  decide +kernel
theorem test_decode_data_4 :
    decodeSlot .d 0xA9210180 = .instr (.precv 9 4 3) ∧
    decodeSlot .d 0xAA60C000 = .instr (.pfree 3 3) := by
  decide +kernel

/-! One step at a time. Expected values are the spec's own examples, or are worked out by hand from its rules. -/

/-- The first write that an instruction leaves for later: its distance, the write and its flags. -/
def wrote (i : Instr) (s : State) : Option (Nat × RegWrite × Lane) :=
  match exec i s with | .next t => t.fg.pend.head?.map (fun x => (x.due - s.fg.dist, x.w, x.flags)) | _ => none
/-- The lane of the v register that an instruction writes. -/
def wroteLane (i : Instr) (s : State) (n : Nat) : Option Lane :=
  match wrote i s with | some (_, .v _ w, _) => some (lane w n) | _ => none
/-- Two i registers of the running column. -/
def regs (a b : Word) : State := seti (seti s0 1 a) 2 b
/-- Lane 0 of v1 and v2. -/
def vecs (a b : Lane) : State :=
  s0.setBank { s0.bank with vreg := vset (vset s0.bank.vreg 1 (ofLanes [a])) 2 (ofLanes [b]) }

theorem test_add_wraps : wrote (.add 0 3 1 2) (regs (-1) 2) = some (1, .i 3 1, 0) := by decide +kernel
/-- R125's example: i2 = −7 and i3 = 2 give −1 at distance 18. -/
theorem test_rem_sign : wrote (.rem 0 4 1 2) (regs (-7) 2) = some (18, .i 4 (-1), 0) := by decide +kernel
theorem test_div_by_zero : wrote (.div 0 3 1 2) (regs 5 0) = some (18, .i 3 (-1), 0) := by decide +kernel
theorem test_mulhu_top : wrote (.mulhu 0 3 1 2) (regs (-1) (-1)) = some (3, .i 3 (-2), 0) := by decide +kernel
theorem test_mulh_signed : wrote (.mulh 0 3 1 2) (regs (-1) (-1)) = some (3, .i 3 0, 0) := by decide +kernel
theorem test_sar_low_six_bits : wrote (.sar 0 3 1 2) (regs (-8) 65) = some (1, .i 3 (-4), 0) := by decide +kernel
/-- R128's example: a field of 12 bits at bit 4. -/
theorem test_bfx : wrote (.bfx 0 3 1 2) (regs 0x12345 0x0C04) = some (1, .i 3 0x234, 0) := by decide +kernel
theorem test_clz_zero : wrote (.clz 0 3 1) (regs 0 0) = some (1, .i 3 64, 0) := by decide +kernel
theorem test_cmp_lt_is_signed : wrote (.cmp 0 0 2 3 1 2) (regs (-1) 1) = some (2, .p 3 true, 0) ∧
    wrote (.cmp 0 0 3 3 1 2) (regs (-1) 1) = some (2, .p 3 false, 0) := by decide +kernel
theorem test_li_sign : wrote (.li 0 3 0x3FFB) s0 = some (1, .i 3 (-5), 0) := by decide +kernel
/-- R137's examples. -/
theorem test_setib : wrote (.setib 0 1 1 3) (regs 0 0) = some (3, .ib 1 3, 0) ∧
    wrote (.setib 0 1 1 0) (regs (-1) 0) = some (3, .ib 1 15, 0) := by decide +kernel
theorem test_false_guard : wrote (.add 1 3 1 2) (regs 1 2) = none := by decide +kernel
theorem test_fadd_tie_to_even : wroteLane (.fadd 0 3 1 2) (vecs 0x3F800000 0x33800000) 0 = some 0x3F800000 := by decide +kernel
theorem test_fadd_infinities : wroteLane (.fadd 0 3 1 2) (vecs 0x7F800000 0xFF800000) 0 = some 0x7FC00000 := by decide +kernel
theorem test_fmul_subnormal : wroteLane (.fmul 0 3 1 2) (vecs 0x00800000 0x3F000000) 0 = some 0x00400000 := by decide +kernel
theorem test_fmin_zeros : wroteLane (.fmin 0 3 1 2) (vecs 0 0x80000000) 0 = some 0x80000000 := by decide +kernel
/-- Table 05.5: 3.5, −2.5 and 3·10⁹ to int32. -/
theorem test_ftoi : wroteLane (.ftoi 0 3 1 0) (vecs 0x40600000 0) 0 = some 4 ∧
    wroteLane (.ftoi 0 3 1 1) (vecs 0x40600000 0) 0 = some 3 ∧ wroteLane (.ftoi 0 3 1 0) (vecs 0xC0200000 0) 0 = some (-2) ∧
    wroteLane (.ftoi 0 3 1 0) (vecs 0x4F32D05E 0) 0 = some 2147483647 := by decide +kernel
/-- Table 05.5: two ties to bf16, and a saturation to fp8e4. -/
theorem test_fcvt : wroteLane (.fcvt 0 3 1 0 0 0) (vecs 0x3F808000 0) 0 = some 0x3F80 ∧
    wroteLane (.fcvt 0 3 1 0 0 0) (vecs 0x3F818000 0) 0 = some 0x3F82 ∧
    wroteLane (.fcvt 0 3 1 0 2 0) (vecs 0x43FA0000 0) 0 = some 0x7E := by decide +kernel
theorem test_vadd_wraps : wroteLane (.vadd 0 3 1 2) (vecs (-1) 2) 0 = some 1 := by decide +kernel
theorem test_vcmp_is_signed : wrote (.vcmp 0 2 1 1 2) (vecs (-1) 1) = some (4, .k 1 1, 0) := by decide +kernel
/-- Table 05.7: elements 6, 3, 1.5, 0.5 with scale 127 and delta −1 give 6, 6, 3, 1. -/
theorem test_requant : wroteLane (.requant 0 1 2 1 0x3F) (vecs 0x1357 127) 0 = some 0x2577 := by decide +kernel
/-- 08 Table 08.4: TRAP_CAUSE of a STALL_SHORT at bundle 41. -/
theorem test_trap_cause : ((withFg s0 (fun t => { t with pc := 41 })).fg.trapTo ⟨4, 2, 0, true, false, false, false⟩ 200).trapCause
    = 0x29029A204 := by decide +kernel
/-- A store writes its low byte at the lowest address; the bytes next to it stay. -/
theorem test_store_byte_order : (put8 s0 (dm 8) 0x1122334455667788).byte (dm 8) = 0x88 ∧
    (put8 s0 (dm 8) 0x1122334455667788).byte (dm 15) = 0x11 ∧ (put8 s0 (dm 8) 0x1122334455667788).byte (dm 16) = 0 := by
  decide +kernel
/-- Writing what an unlisted byte reads as removes its entry. -/
theorem test_memory_canonical : (put8 (put8 s0 (dm 8) 5) (dm 8) 0).mem = s0.mem := by decide +kernel
/-- The first instruction after reset runs: it is fetched, decoded and executed. -/
theorem test_first_step : (match step (State.reset.withFetchWord 32 0x4400FFFB) with
    | .next t => (t.fg.pend.head?.map Pend.w, t.fg.pc) | _ => (none, 0)) = (some (.i 3 (-5)), 1) := by decide +kernel

/-! Witnesses. Each conjunct is a hypothesis of the statement named, at concrete states and operands; where a statement has
several clauses, those of every clause are met, at the ends of their ranges. A hypothesis that several clauses share stands
once. -/

namespace Present
def unit1 (f : UnitSt → UnitSt) (s : State := s0) : State := s.mapUnit 0 f
def c2 : State := withFg { s0 with turns := [(0,false),(0,true)] } (fun t => {t with idle := 2})
def rq_1 := [((0:Nat),true)]
def obj1 : CodeObj := { CodeObj.empty with traps := [(0x11, 5)], trapDef := some 9 }
def l2 : Launch := { l1 with obj := obj1 }
def c3 : State := withFg { s0 with launches := [(1, l2)] } (fun t => {t with deferred := [⟨0x11, 2⟩, ⟨0x12, 1⟩], pc := 77, follower := some 3})
def v2_d : DTrap := ⟨0x11, 2⟩
def rq_3 := [(⟨0x12, 1⟩ : DTrap)]
def c4 (due : Nat) : State := withFg s0 (fun t => {t with pend := [⟨due, 1, .i 7 9, 0⟩], dist := 5})
def st_4 : State := c4 5
def v5_x : Pend := ⟨5, 1, .i 7 9, 0⟩
def st_6 : State := c4 6
def v7_x : Pend := ⟨6, 1, .i 7 9, 0⟩
def ln5 : Landing := ⟨3, 8, 0, 2, none, none, 65536, false⟩
def c5 : State := withFg s0 (fun t => {t with land := [ln5], dist := 8})
def c6 := unit1 (fun x => { x with secIdle := 4095 })
def c7 (h : Bool) : State := unit1 (fun x => { x with segBusy := vset x.segBusy h.toNat (64 + 2 + 1) }) { s0 with launches := [(1, { l1 with segs := [(0,0),(0,0),(0x2000, 1 + h.toNat * 2^11)], vf := 0 })] }
def st_8 : State := c7 true
def c7b : State := { c7 true with vfs := [(0, {vf0 with segBound := Vector.replicate 12 0})] }
def f10 : Flight := ⟨1, 3, 5, some 0x12⟩
/-- An LDS stands at the pc, and a fence orders an access before it. -/
def c11 : State := withFg (State.reset.withFetchWord 32 0x5C068C00) (fun t =>
  { t with deferred := [⟨0x11, 2⟩], fences := [⟨0xFFFF, false, false, [9], [], []⟩] })
def c12 : State := { c11 with launches := [(1, { c11.launchOf c11.fg with
  obj := { (c11.launchOf c11.fg).obj with traps := [(0x11, 5)] } })] }
def c10 : State := { c5 with flight := [⟨2, 3, 4, none⟩, f10] }
theorem witness_PresentationEvents :
    s0.turns = [] ∧ c2.turns = (0, false) :: rq_1 ∧ (c2.unit 0).prim = c2.fg.key ∧ c2.fg.key ≠ 0 ∧ c2.fg.unit = 0 ∧
    c2.fg.wrapLeft = none ∧ c2.fg.divDue = false ∧ (c2.unit 0).slip = [] ∧ c2.fg.exiting = false ∧ c2.fg.stop = StopState.run ∧ 0 < c2.fg.idle ∧
    c2.fg.pend = [] ∧ c2.fg.land = [] ∧ vget 0 (c7b.unit 0).segBusy true.toNat = 66 + 1 ∧
    c7b.vfRead (c7b.launchOf (c7b.task (66 / 64))).vf ((lget (0, 0) (c7b.launchOf (c7b.task (66 / 64))).segs (66 % 64)).1 % 2 ^ 44) (24 * ((lget (0, 0) (c7b.launchOf (c7b.task (66 / 64))).segs (66 % 64)).2 % 2048 + 1) * (c7b.launchOf (c7b.task (66 / 64))).width) = none ∧
    st_4.fg.pend = [v5_x] ∧ v5_x.w = RegWrite.i 7 9 ∧ 7 < 56 ∧ v5_x.col < 4 ∧ st_4.fg.land = [] ∧ v5_x.due ≤ st_4.fg.dist ∧
    List.find? (fun f => decide (f.task = 1) && decide (f.id = 3)) c10.flight = some f10 ∧ (c10.task 1).key = 1 ∧
    c3.fg.resident = true ∧ c3.fg.stop = StopState.run ∧ c3.fg.idle = 0 ∧ c3.fg.waiting = false ∧ c3.fg.exiting = false ∧
    c3.fg.divert = false ∧ c3.fg.resumeAt = none ∧ c3.fg.lateLanding = false ∧ c3.frozen (c3.fg.unit / 4) = false ∧
    c12.fg.resident = true ∧ c12.fg.stop = StopState.run ∧ c12.fg.idle = 0 ∧ c12.fg.waiting = false ∧ c12.fg.exiting = false ∧
    c12.fg.divert = false ∧ c12.fg.resumeAt = none ∧ c12.fg.lateLanding = false ∧ c12.frozen (c12.fg.unit / 4) = false ∧
    (c12.writeBack c12.fg.key).fg.first = false ∧ (c12.writeBack c12.fg.key).fg.deferred = [⟨0x11, 2⟩] ∧
    (c12.writeBack c12.fg.key).fg.active = false ∧
    (c12.writeBack c12.fg.key).handler (c12.writeBack c12.fg.key).fg 0x11 = some 5 ∧
    (c12.writeBack c12.fg.key).fenceHeld = true ∧ (c3.writeBack c3.fg.key).fg.first = false ∧
    (c3.writeBack c3.fg.key).fg.deferred = v2_d :: rq_3 ∧ (c3.writeBack c3.fg.key).fg.active = false ∧
    (c3.writeBack c3.fg.key).handler (c3.writeBack c3.fg.key).fg v2_d.cause = some 5 ∧
    (c3.writeBack c3.fg.key).fenceHeld = false ∧ vget 0 (st_8.unit 0).segBusy true.toNat = 66 + 1 ∧
    (lget (0, 0) (st_8.launchOf (st_8.task (66 / 64))).segs (66 % 64)).2 / 2 ^ 11 % 2 = true.toNat ∧
    st_8.vfRead (st_8.launchOf (st_8.task (66 / 64))).vf ((lget (0, 0) (st_8.launchOf (st_8.task (66 / 64))).segs (66 % 64)).1 % 2 ^ 44) (24 * ((lget (0, 0) (st_8.launchOf (st_8.task (66 / 64))).segs (66 % 64)).2 % 2048 + 1) * (st_8.launchOf (st_8.task (66 / 64))).width) = some (List.replicate 192 0) ∧
    4095 ≤ (c6.unit 0).secIdle ∧ ln5 ∈ c5.fg.land ∧ ln5.data = none ∧ 65536 ≤ ln5.frozen ∧ st_6.fg.pend = [v7_x] ∧
    v7_x.w = RegWrite.i 7 9 ∧ v7_x.col < 4 ∧ st_6.fg.land = [] ∧ st_6.fg.dist < v7_x.due ∧
    (¬(BitVec.toNat (3 : Lane) % 8 = 1 ∨ BitVec.toNat (3 : Lane) % 8 = 2 ∨ BitVec.toNat (3 : Lane) % 8 = 4)) ∧
    (BitVec.toNat (2 : Lane) % 8 = 1 ∨ BitVec.toNat (2 : Lane) % 8 = 2 ∨ BitVec.toNat (2 : Lane) % 8 = 4) ∧
    ((List.range 4).any fun n => !(s0.unit (0 * 4 + n)).residents.isEmpty) = true ∧ 3 < 8 ∧
    BitVec.toNat (8388992 : Word) % 1024 ≤ 128 * 3 ∧ 128 * 3 + 128 ≤ BitVec.toNat (8388992 : Word) % 1024 + BitVec.toNat (8388992 : Word) / 65536 % 2048 ∧
    BitVec.toNat (1 : Lane) % 16 ≤ 11 ∧
    (¬(BitVec.toNat (327680 : Word) % 1024 ≤ 128 * 3 ∧ 128 * 3 + 128 ≤ BitVec.toNat (327680 : Word) % 1024 + BitVec.toNat (327680 : Word) / 65536 % 2048) ∨ 11 < BitVec.toNat (1 : Lane) % 16) ∧
    ((List.range 4).any fun n => !(s0.unit (7 * 4 + n)).residents.isEmpty) = false ∧
    s0.pmap.splitFits 7 (BitVec.toNat (2 : Lane) % 8) = true := by
  and_intros <;> decide +kernel
end Present

namespace Command
def unit1 (f : UnitSt → UnitSt) (s : State := s0) : State := s.mapUnit 0 f
def rc (i : Instr) (x y : Word := 0) (id : Nat := 3) (col : Nat := 0) : Rec := ⟨id, 1, col, i, x, y, 0, [], 0, 0, 4, 0⟩
def r1 := rc (.pfree 0 4)
def c1 := unit1 (fun x => { x with slip := [r1, rc (.mcfg 0 3) 0 0 4] })
def c1b := unit1 (fun x => { x with slip := [r1, rc (.mcfg 0 3) 0 0 4], qFabric := List.replicate 16 (rc (.pfree 0 4) 0 0 1) })
def c2 := unit1 (fun x => { x with slip := [r1, rc (.mcfg 0 3) 0 0 4], count := 17 })
def r3 := rc (.take 0 4 5 1 0) 1 2
def w3 (s : State) : State := unit1 (fun x => { x with qCopy := [r3] }) (withFg s (fun t => {t with width := 4}))
def mine := ownerByte 1 0 0
def c3 : State := { w3 s0 with lsOwn := [(1, mine), (2, mine)] }
def c3b : State := { w3 s0 with lsOwn := [(1, 0x80), (2, 0x80)] }
def r4 (x : Word) := rc (.cbcfg 0 4 3) x
def d1 : Word := BitVec.ofNat 64 (1 + 2*2^10 + 2^45)
def c4 : State := unit1 (fun x => { x with qCopy := [r4 d1] }) (withFg s0 (fun t => {t with width := 4}))
def c4b : State := unit1 (fun x => { x with cbTask := vset x.cbTask 3 2 }) c4
def rq_1 := r4 d1
def c5 (p : Bool) : State := unit1 (fun x => { x with cb := vset x.cb 3 d1, cbTask := vset x.cbTask 3 1, cbDue := [(3, p)] }) (withFg s0 (fun t => {t with width := 4}))
def st_2 : State := c5 true
def st_3 : State := c5 false
def d2 : Word := BitVec.ofNat 64 (1 + 2*2^10 + 2^19 + 2^45)
def r6 := rc (.cbpop 0 8 3)
def pr6 : PendRes := ⟨3, 0, false, 4, none, none⟩
def c6 : State := unit1 (fun x => { x with cb := vset x.cb 3 d2, cbTask := vset x.cbTask 3 1, pops := [r6] }) (withFg s0 (fun t => {t with width := 4, results := [pr6]}))
def pr7 : PendRes := ⟨3, 1, false, 4, some 77, none⟩
def c7 : State := withFg s0 (fun t => {t with results := [pr7]})
def cpy8 (w4 : Word) : Rec := { rc (.cpy 0 0) with stag := [0,0,0,0,w4,0,0,0] }
def q8 (w4 : Word) : Run := ⟨cpy8 w4, 0, Vector.replicate 8 0, 0, 3, 3, 3, 640, true, false, false, false, [], none, []⟩
def c8 (w4 : Word) : State := { s0 with chans := [(0, { Chan.zero with run := some (q8 w4), status := 3 })] }
def w8 : Word := BitVec.ofNat 64 (2^63 + 0x100)
def q8f (w4 : Word) : Run := { q8 w4 with fail := some (1, 0x14, 2, false), fin := 2 }
def c8f (w4 : Word) : State := { s0 with chans := [(0, { Chan.zero with run := some (q8f w4), status := 3 })] }
def q8s (w4 : Word) : Run := { q8 w4 with stop := true }
def c8s (w4 : Word) : State := { s0 with chans := [(0, { Chan.zero with run := some (q8s w4), status := 3 })] }
def st_8 : State := c8s 0
def st_4 : State := c8 w8
def st_5 : State := c8 0
def st_6 : State := c8f 0
def q9 (m : BitVec 2) : Run := ⟨rc (.ttinv 0 4 5 m) 3 (BitVec.ofNat 64 (2 + 3 * 2^32)), 0, Vector.replicate 8 0, 0, 0, 0, 1, 0, false, false, false, false, [], none, []⟩
def c9 (m : BitVec 2) : State := { s0 with chans := [(0, { Chan.zero with run := some (q9 m), status := 3 })], ports := [(2, { PortSt.zero with tile := [⟨0,3,1,9⟩,⟨0,3,2,9⟩,⟨0,3,4,9⟩,⟨0,3,5,9⟩,⟨1,3,2,9⟩,⟨0,4,2,9⟩] })] }
def st_7 : State := c9 0
theorem witness_CommandEvents_8 :
    (st_6.chan 0).run = some (q8f 0) ∧ (q8f 0).cmd.ins = Instr.cpy 0 0 ∧ (st_6.chan 0).page = false ∧ (q8f 0).ents = [] ∧
    (st_6.unit (q8f 0).unit).cbDue = [] ∧ st_6.lsStores (0 / 4) = false ∧ (st_6.task (q8f 0).cmd.task).exiting = false ∧
    (q8f 0).fail = some (1, 20, 2, false) ∧ BitVec.getLsbD (lget (0 : Word) (q8f (0 : Word)).cmd.stag 4) 63 = false ∧
    (st_5.chan 0).run = some (q8 0) ∧ (q8 0).cmd.ins = Instr.cpy 0 0 ∧ (st_5.chan 0).page = false ∧ (q8 0).ents = [] ∧
    (st_5.unit (q8 0).unit).cbDue = [] ∧ st_5.lsStores (0 / 4) = false ∧ (st_5.task (q8 0).cmd.task).exiting = false ∧
    (st_8.chan 0).run = some (q8s 0) ∧ (q8s 0).cmd.ins = Instr.cpy 0 0 ∧ (st_8.chan 0).page = false ∧ (q8s 0).ents = [] ∧
    (st_8.unit (q8s 0).unit).cbDue = [] ∧ st_8.lsStores (0 / 4) = false ∧ (st_8.task (q8s 0).cmd.task).exiting = false ∧
    (q8s 0).fail = none ∧ (q8s 0).stop = true ∧ BitVec.getLsbD (lget (0 : Word) (q8s (0 : Word)).cmd.stag 4) 63 = false ∧
    (q8 0).fail = none ∧ (q8 0).stop = false ∧ (q8 0).tot ≤ (q8 0).n ∧ BitVec.getLsbD (lget (0 : Word) (q8 (0 : Word)).cmd.stag 4) 63 = false ∧
    (st_4.chan 0).run = some (q8 w8) ∧ (q8 w8).cmd.ins = Instr.cpy 0 0 ∧ (st_4.chan 0).page = false ∧ (q8 w8).ents = [] ∧
    (st_4.unit (q8 w8).unit).cbDue = [] ∧ st_4.lsStores (0 / 4) = false ∧ (st_4.task (q8 w8).cmd.task).exiting = false ∧
    (q8 w8).fail = none ∧ (q8 w8).stop = false ∧ (q8 w8).tot ≤ (q8 w8).n ∧ BitVec.getLsbD (lget (0 : Word) (q8 w8).cmd.stag 4) 63 = true ∧
    (∀ x ∈ st_4.tasks, x.sleep = none) := by
  and_intros <;> decide +kernel
theorem witness_CommandEvents_9 :
    (st_7.chan 0).run = some (q9 0) ∧ (q9 0).cmd.ins = Instr.ttinv 0 4 5 0 ∧
    (st_7.task (q9 0).cmd.task).exiting = false := by
  and_intros <;> decide +kernel
theorem witness_CommandEvents_1 :
    (c1.unit 0).slip = [r1, rc (Instr.mcfg 0 3) 0 0 4] ∧ queueOf r1.ins = some Queue.fabric ∧
    (∀ x ∈ [rc (Instr.mcfg 0 3) 0 0 4], x.id ≠ r1.id) ∧ (c1.unit 0).qFabric.length < 16 ∧
    (c1b.unit 0).slip = [r1, rc (Instr.mcfg 0 3) 0 0 4] ∧ 16 ≤ (c1b.unit 0).qFabric.length := by
  and_intros <;> decide +kernel
theorem witness_CommandEvents_2 :
    r1 ∈ (c2.unit 0).slip ∧ r1.born + 16 < (c2.unit 0).count := by
  and_intros <;> decide +kernel
theorem witness_CommandEvents_5 :
    3 < 8 ∧ 0 < cbCount (st_2.cb 0 3) ∧ cbCount (st_2.cb 0 3) ≤ 256 ∧ (st_2.unit 0).qCopy = [] ∧
    (∀ e ∈ st_2.chans, e.2.run = none) ∧ (3, true) ∈ (st_2.unit 0).cbDue ∧ 0 < cbCount (st_3.cb 0 3) ∧
    cbCount (st_3.cb 0 3) ≤ 256 ∧ (st_3.unit 0).qCopy = [] ∧ (∀ e ∈ st_3.chans, e.2.run = none) ∧
    (3, false) ∈ (st_3.unit 0).cbDue := by
  and_intros <;> decide +kernel
theorem witness_CommandEvents_4 :
    (c4.chan 0).run = none ∧
    List.find? (fun r => decide (r.col = (c4.unitOfCol 0).2)) (c4.unit (c4.unitOfCol 0).1).qCopy = some rq_1 ∧
    rq_1.ins = Instr.cbcfg 0 4 3 ∧
    (vget 0 (c4.unit (c4.task rq_1.task).unit).cbTask (BitVec.toNat (3 : BitVec 3)) = 0 ∨ vget 0 (c4.unit (c4.task rq_1.task).unit).cbTask (BitVec.toNat (3 : BitVec 3)) = rq_1.task) ∧
    cbImageOk (c4.task rq_1.task) (putBits (putBits (putBits rq_1.s1 27 19 0) 36 28 0) 63 55 0) = true ∧
    (∀ (p : Bool), (BitVec.toNat (3 : BitVec 3), p) ∉ (c4.unit (c4.task rq_1.task).unit).cbDue) ∧
    vget none (c4.unit (c4.task rq_1.task).unit).cbGrant (BitVec.toNat (3 : BitVec 3)) = none ∧
    (∀ (p : Bool), c4.sideOpen (c4.task rq_1.task).unit (BitVec.toNat (3 : BitVec 3)) p = false) ∧
    (c4b.chan 0).run = none ∧
    List.find? (fun r => decide (r.col = (c4b.unitOfCol 0).2)) (c4b.unit (c4b.unitOfCol 0).1).qCopy = some rq_1 ∧
    vget 0 (c4b.unit (c4b.task rq_1.task).unit).cbTask (BitVec.toNat (3 : BitVec 3)) ≠ 0 ∧
    vget 0 (c4b.unit (c4b.task rq_1.task).unit).cbTask (BitVec.toNat (3 : BitVec 3)) ≠ rq_1.task := by
  and_intros <;> decide +kernel
theorem witness_CommandEvents_7 :
    (c7.task 1).key = 1 ∧ (c7.task 1).resident = true ∧ (c7.task 1).stop = StopState.run ∧ (c7.task 1).results = [pr7] ∧
    pr7.val = some 77 ∧ pr7.vec = false ∧ pr7.reg < 56 ∧ pr7.col < 4 := by
  and_intros <;> decide +kernel
theorem witness_CommandEvents_3 :
    (c3b.chan 0).run = none ∧
    List.find? (fun r => decide (r.col = (c3b.unitOfCol 0).2)) (c3b.unit (c3b.unitOfCol 0).1).qCopy = some r3 ∧
    r3.ins = Instr.take 0 4 5 1 0 ∧ 1 ≤ BitVec.toNat r3.s2 % 2048 ∧ BitVec.toNat r3.s2 % 2048 ≤ 1024 ∧
    BitVec.toNat r3.s1 % 1024 + BitVec.toNat r3.s2 % 2048 ≤ (c3b.task r3.task).lsSize ∧
    (∀ k < BitVec.toNat r3.s2 % 2048, c3b.agentBusy (c3b.task r3.task) (ownerByte (BitVec.toNat (1 : BitVec 3)) (BitVec.toNat (0 : BitVec 2)) ((c3b.task r3.task).unit % 4)) (BitVec.toNat r3.s1 % 1024 + k) (fun q => decide (q.ent < r3.ent)) true false = false) ∧
    0 < BitVec.toNat r3.s2 % 2048 ∧
    c3b.owner (coreOf (c3b.task r3.task).unit) ((c3b.task r3.task).lsBase + (BitVec.toNat r3.s1 % 1024 + 0)) ≠ ownerByte (BitVec.toNat (1 : BitVec 3)) (BitVec.toNat (0 : BitVec 2)) ((c3b.task r3.task).unit % 4) ∧
    (c3.chan 0).run = none ∧
    List.find? (fun r => decide (r.col = (c3.unitOfCol 0).2)) (c3.unit (c3.unitOfCol 0).1).qCopy = some r3 ∧
    BitVec.toNat r3.s1 % 1024 + BitVec.toNat r3.s2 % 2048 ≤ (c3.task r3.task).lsSize ∧
    (∀ k < BitVec.toNat r3.s2 % 2048, c3.agentBusy (c3.task r3.task) (ownerByte (BitVec.toNat (1 : BitVec 3)) (BitVec.toNat (0 : BitVec 2)) ((c3.task r3.task).unit % 4)) (BitVec.toNat r3.s1 % 1024 + k) (fun q => decide (q.ent < r3.ent)) true false = false) ∧
    (∀ k < BitVec.toNat r3.s2 % 2048, c3.owner (coreOf (c3.task r3.task).unit) ((c3.task r3.task).lsBase + (BitVec.toNat r3.s1 % 1024 + k)) = ownerByte (BitVec.toNat (1 : BitVec 3)) (BitVec.toNat (0 : BitVec 2)) ((c3.task r3.task).unit % 4)) := by
  and_intros <;> decide +kernel
theorem witness_CommandEvents_6 :
    (c6.unit 0).pops = [r6] ∧ r6.ins = Instr.cbpop 0 8 3 ∧ BitVec.toNat (3 : BitVec 3) = 3 ∧
    cbCoreSide (c6.cb 0 3) = some (cbCoreSide d2).get! ∧ c6.cbMine (c6.task r6.task) 3 = true ∧
    vget none (c6.unit 0).cbGrant 3 = none ∧ c6.cbReady 0 3 (cbCoreSide d2).get! = true := by
  and_intros <;> decide +kernel
end Command

namespace Tensor
def ag (c0 : BitVec 16) (tid : BitVec 16 := 3) : Ag := ⟨tid, false, #v[c0, 0, 0, 0], #v[1,0,0,0]⟩
def dd : DescE := ⟨0, 3, #v[7, 3, 2^63, 0x3000]⟩
def te : Nat := 2^63 + 2^62 + 2^60 + 2
def pt (e : Nat) : PortSt := { PortSt.zero with desc := [dd], tile := [⟨0,3,1,e⟩] }
def rqn (k : ReqKind) (i : Instr) (size : Nat) (val : List Byte) (g : Ag := ag 5) (addr : Nat := 17) : Req := ⟨3, 1, 0, 0, 0, k, i, addr, size, val, 0, 0, g, 4, none⟩
def acc3 (ld st : Bool) : Acc := ⟨3, 1, ld, st, .hbm 0, 0, 8, [], []⟩
def base (r : Req) (p : List (Nat × PortSt)) (ld : Bool := true) : State :=
  { withFg s0 (fun t => {t with accs := [acc3 ld (!ld)], land := [⟨3, 8, 0, 2, none, none, 0, false⟩]}) with reqs := [r], ports := p }
def rl := rqn .tnLoad (.ldt 0 2 2 0 1 0 3) 4 []
def rs := rqn .tnStore (.stt 0 2 2 1 0 3) 4 [1,2,3,4]
def c1 := put8 (base rl [(1, pt te), (0, pt te)]) (hbmNo 0 0x2000) 0x1122334455667788
def c1e := base rl [(1, pt (te + 2^61)), (0, pt te)]
def c1s := base rs [(1, pt te), (0, pt te)] false
def c1f := base { rl with ag := ag 9 } [(1, pt te), (0, pt te)]
def c1g := base { rs with ag := ag 9 } [(1, pt te), (0, pt te)] false
def pc0 : Parcel := ⟨.localP, 64, [0], [2]⟩
def rp := rqn (.pcLoad false) (.pld 0 2 2 0 1 0 2) 8 [] (ag 16) 16
def rps := rqn .pcStore (.pst 0 2 2 1 0 0) 8 [1,2,3,4,5,6,7,8] (ag 16) 16
def c1h : State := { base rp [] with parcels := [(3, pc0)] }
def c1i : State := { base rp [] with parcels := [(3, {pc0 with len := 16})] }
def c1j : State := { base rp [] with parcels := [(3, {pc0 with st := .sealedP})] }
def c1k : State := { base rps [] false with parcels := [(3, pc0)] }
def rq_1 := ({ rl with ag := ag 9 } : Req)
def rq_2 := ({ rs with ag := ag 9 } : Req)
def c2 : State := put8 (base rl [(1, { pt te with tile := [] }), (0, { pt te with tile := [] })]) (hbmNo 0 0x3008) te
def c2n : State := base rl [(1, { pt te with tile := [] }), (0, { pt te with tile := [] })]
def pg0 : PageReq := ⟨6, 0, 0, 3, 1, false, [], []⟩
def pg1 : PageReq := { pg0 with reqs := [3] }
def c3a : State := { s0 with pages := [pg0] }
def rl6 := { rl with tag := some 6 }
def c3b : State := withFg { base rl6 [] with pages := [pg1] } (fun t => {t with stop := .page, pages := [6]})
def pg2 : PageReq := { pg0 with chans := [2] }
def inMem (s : State) : State := put8 (put8 (put8 (put8 s (hbmNo 0 0x10060) 7) (hbmNo 0 0x10068) 3) (hbmNo 0 0x10070) (2^63)) (hbmNo 0 0x10078) 0x3000
def c3c : State := inMem { base rl [(1, pt te), (0, pt te)] with pages := [pg2], reqs := [], chans := [(2, { Chan.zero with page := true })] }
def tew : Word := BitVec.ofNat 64 te
def c4 : State := { s0 with ports := [(3, { PortSt.zero with poison := [7, 11] })] }
theorem witness_MemoryEvents_3_Tensor :
    c3c.pages = [pg2] ∧ pg2.port / 8 ∉ c3c.fw.down ∧ 0 ∉ c3c.fw.down ∧ pg1.port / 8 ∉ c3b.fw.down ∧ 0 ∉ c3b.fw.down ∧
    pg0.port / 8 ∉ c3a.fw.down ∧ 0 ∉ c3a.fw.down ∧ pg2.reqs = [] ∧ pg2.chans = [2] ∧ tePresent (BitVec.toNat tew) = true ∧
    c3c.readDesc pg2.vf pg2.tid = DescRes.ok dd ∧
    (c3c.vfWrite pg2.vf (dd.base + 8 * pg2.tile) (bytesOf 8 (BitVec.toNat tew))).isSome = true ∧ c3b.pages = [pg1] ∧
    pg1.reqs = [rl6.id] ∧ pg1.chans = [] ∧ c3b.req rl6.id = some rl6 ∧ rl6.task = c3b.fg.key ∧
    c3b.fg.stop = StopState.page ∧ c3b.fg.pages = [pg1.tag] ∧ c3b.fg.resumeAt = none ∧ c3b.lsWaiting rl6.task = false ∧
    c3b.fg.state = TaskState.primary ∧ (∀ x ∈ fvals c3b.bg, x.key ≠ c3b.fg.key) ∧ c3a.pages = [pg0] ∧ pg0.reqs = [] ∧
    pg0.chans = [] := by
  and_intros <;> decide +kernel
theorem witness_MemoryEvents_1_Tensor :
    c1j.req rp.id = some rp ∧ rp.tag = none ∧ (c1j.task rp.task).may rp.id = May.home ∧ c1j.lsWaiting rp.task = false ∧
    rp.kind = ReqKind.pcLoad false ∧ (c1j.parcel rp.vf rp.ag.tid.toNat).st ≠ PState.localP ∧ c1j.sealing rp = false ∧
    c1i.req rp.id = some rp ∧ (c1i.task rp.task).may rp.id = May.home ∧ c1i.lsWaiting rp.task = false ∧
    (c1i.parcel rp.vf rp.ag.tid.toNat).st = PState.localP ∧ (c1i.parcel rp.vf rp.ag.tid.toNat).len < rp.addr + rp.size ∧
    c1.req rl.id = some rl ∧ rl.tag = none ∧ (c1.task rl.task).may rl.id = May.home ∧ c1.lsWaiting rl.task = false ∧
    c1.translate rl.die rl.vf rl.ag.tid.toNat rl.ag.coord (decide (rl.kind = ReqKind.tnStore)) rl.size = PortRes.ok 1 1 dd 14987979559889010690 0 8196 false ∧
    rl.kind = ReqKind.tnLoad ∧ c1f.req rq_1.id = some rq_1 ∧ rq_1.tag = none ∧
    (c1f.task rq_1.task).may rq_1.id = May.home ∧ c1f.lsWaiting rq_1.task = false ∧
    c1f.translate rq_1.die rq_1.vf rq_1.ag.tid.toNat rq_1.ag.coord (decide (rq_1.kind = ReqKind.tnStore)) rq_1.size = PortRes.fault 17 false ∧
    rq_1.kind = ReqKind.tnLoad ∧ c1e.req rl.id = some rl ∧ (c1e.task rl.task).may rl.id = May.home ∧
    c1e.lsWaiting rl.task = false ∧
    c1e.translate rl.die rl.vf rl.ag.tid.toNat rl.ag.coord (decide (rl.kind = ReqKind.tnStore)) rl.size = PortRes.ok 1 1 dd 17293822569102704642 0 8196 true ∧
    c1h.req rp.id = some rp ∧ (c1h.task rp.task).may rp.id = May.home ∧ c1h.lsWaiting rp.task = false ∧
    (c1h.parcel rp.vf rp.ag.tid.toNat).st = PState.localP ∧ rp.addr + rp.size ≤ (c1h.parcel rp.vf rp.ag.tid.toNat).len ∧
    c1h.parcelPoison rp.vf rp.ag.tid.toNat (c1h.parcel rp.vf rp.ag.tid.toNat) rp.addr = false ∧
    c1g.req rq_2.id = some rq_2 ∧ rq_2.tag = none ∧ (c1g.task rq_2.task).may rq_2.id = May.home ∧
    c1g.lsWaiting rq_2.task = false ∧
    c1g.translate rq_2.die rq_2.vf rq_2.ag.tid.toNat rq_2.ag.coord (decide (rq_2.kind = ReqKind.tnStore)) rq_2.size = PortRes.fault 17 false ∧
    rq_2.kind = ReqKind.tnStore ∧ c1k.req rps.id = some rps ∧ rps.tag = none ∧ (c1k.task rps.task).may rps.id = May.home ∧
    c1k.lsWaiting rps.task = false ∧ rps.kind = ReqKind.pcStore ∧ (c1k.parcel rps.vf rps.ag.tid.toNat).st = PState.localP ∧
    rps.addr + rps.size ≤ (c1k.parcel rps.vf rps.ag.tid.toNat).len ∧ rps.ag.tid.toNat < 49152 ∧
    rps.ag.tid.toNat % 4096 < (c1k.vf rps.vf).pclCount ∧
    (c1k.vfWrite rps.vf (c1k.parcelAddr rps.vf rps.ag.tid.toNat (c1k.parcel rps.vf rps.ag.tid.toNat) rps.addr) rps.val).isSome = true ∧
    c1s.req rs.id = some rs ∧ rs.tag = none ∧ (c1s.task rs.task).may rs.id = May.home ∧ c1s.lsWaiting rs.task = false ∧
    c1s.translate rs.die rs.vf rs.ag.tid.toNat rs.ag.coord (decide (rs.kind = ReqKind.tnStore)) rs.size = PortRes.ok 1 1 dd 14987979559889010690 0 8196 false ∧
    rs.kind = ReqKind.tnStore ∧ teDirty 14987979559889010690 = true ∧
    (8195 < hbmNo 0 8196 ∨ hbmNo 0 8196 + rs.val.length ≤ 8195) := by
  and_intros <;> decide +kernel
theorem witness_MemoryEvents_4_Tensor :
    11 ∈ (c4.port (0 * 8 + 11 % 8)).poison ∧ 19 ∉ (c4.port (0 * 8 + 19 % 8)).poison ∧
    (c4.port (0 * 8 + 19 % 8)).poison.length < 4096 := by
  and_intros <;> decide +kernel
theorem witness_MemoryEvents_2_Tensor :
    c2.req rl.id = some rl ∧
    c2.translate rl.die rl.vf rl.ag.tid.toNat rl.ag.coord (decide (rl.kind = ReqKind.tnStore)) rl.size = PortRes.miss 1 3 1 dd ∧
    c2.vfNum rl.vf (dd.base + 8 * 1) 8 = some te ∧ (∀ (m : Miss), (c2.port 1).missOf rl.vf 3 1 = some m → m.tag = none) ∧
    tePresent te = true ∧ c2n.req rl.id = some rl ∧
    c2n.translate rl.die rl.vf rl.ag.tid.toNat rl.ag.coord (decide (rl.kind = ReqKind.tnStore)) rl.size = PortRes.miss 1 3 1 dd ∧
    c2n.vfNum rl.vf (dd.base + 8 * 1) 8 = some 0 ∧ (∀ (m : Miss), (c2n.port 1).missOf rl.vf 3 1 = some m → m.tag = none) ∧
    tePresent 0 = false ∧ c2n.pages = [] ∧ c2n.missFull 1 rl.vf 3 1 = false ∧ 1 / 8 ∉ c2n.fw.down ∧ 0 ∉ c2n.fw.down := by
  and_intros <;> decide +kernel
end Tensor

namespace Dm
def acc3 (ld st : Bool) : Acc := ⟨3, 1, ld, st, .dm 0, dm 0x40, 8, [], []⟩
def rqd (k : ReqKind) (i : Instr) (size : Nat) (val : List Byte) (addr : Nat) (v e : Word := 0) : Req := ⟨3, 1, 0, 0, 0, k, i, addr, size, val, v, e, Ag.zero, 4, none⟩
def base (r : Req) (ld : Bool := true) : State :=
  put8 ({ withFg s0 (fun t => {t with accs := [acc3 ld (!ld)], land := [⟨3, 8, 0, 2, none, none, 0, false⟩]}) with reqs := [r] }) (dm 0x40) 0xFFFFFFF011223344
def r5 := rqd .dmLoad (.ldd 0 2 2 0 1 0 2) 8 [] (dm 0x40)
def r5s := rqd .dmStore (.std 0 2 2 1 0 1) 4 [1,2,3,4] (dm 0x44)
def c5 := base r5
def c5p : State := { base r5 with dmPois := [((dm 0x40) / 64, true)] }
def st_1 : State := base r5s false
def rb1 := rqd .bank (.badd 0 4 5 1 0) 8 [] 0x40 0x00000000F1223345 0x11223344
def st_2 : State := base rb1
def rb5 := rqd .bank (.bfaa 0 4 5 1 0) 8 [] 0x40 0x00000000F1223345 0x11223344
def st_6 : State := base rb5
def rb9 := rqd .bank (.band 0 4 5 1 0) 8 [] 0x40 0x00000000F1223345 0x11223344
def st_10 : State := base rb9
def rb13 := rqd .bank (.bor 0 4 5 1 0) 8 [] 0x40 0x00000000F1223345 0x11223344
def st_14 : State := base rb13
def rb17 := rqd .bank (.bxor 0 4 5 1 0) 8 [] 0x40 0x00000000F1223345 0x11223344
def st_18 : State := base rb17
def rb21 := rqd .bank (.bswp 0 4 5 1 0) 8 [] 0x40 0x00000000F1223345 0x11223344
def st_22 : State := base rb21
def rb25 := rqd .bank (.bcas 0 4 5 1 0) 8 [] 0x40 0x00000000F1223345 0x11223344
def st_26 : State := base rb25
def rb29 := rqd .bank (.bmin 0 4 5 1 1 0) 8 [] 0x40 0x00000000F1223345 0x11223344
def st_30 : State := base rb29
def rb33 := rqd .bank (.bmax 0 4 5 1 1 0) 8 [] 0x40 0x00000000F1223345 0x11223344
def st_34 : State := base rb33
def rb37 := rqd .bank (.bmin 0 4 5 1 0 0) 8 [] 0x40 0x00000000F1223345 0x11223344
def st_38 : State := base rb37
def rb41 := rqd .bank (.bmax 0 4 5 1 0 0) 8 [] 0x40 0x00000000F1223345 0x11223344
def st_42 : State := base rb41
def rbo := rqd .bank (.badd 0 4 5 1 0) 8 [] 65536 3
def st_46 : State := base rbo
def rbp := rqd .bank (.badd 0 4 5 1 0) 8 [] 0x40 3
def st_47 : State := { base rbp with dmPois := [((dm 0x40) / 64, true)] }
def st_48 : State := { s0 with dmPois := [((dmNo 2 0) / 64 + 9, true)] }
def rt1 := rqd .tkTake (.tktake 0 4 1) 8 [] 2
def rt2 := rqd (.tkNext false) (.tknext 0 4 1 0) 8 [] 2
def rt3 := rqd (.tkNext true) (.tknext 0 4 1 1) 8 [] 2
def rt4 := rqd (.tkNext true) (.tknext 0 4 1 1) 8 [] 4
def bt (r : Req) : State := { base r with tickets := [(2, ⟨2^32-1, 2^32-1, []⟩)] }
def st_49 : State := bt rt1
def st_50 : State := bt rt2
def st_51 : State := bt rt3
def st_52 : State := bt rt4
def t2 : Task := { t1 with key := 2, idx := 1, unit := 4, state := .primary, lsBase := 8 }
def t2p : Task := { t2 with state := .pending }
def rpt (a : Nat) := rqd .put (.put 0 4 5 1 0) 8 [1,2,3,4,5,6,7,8] a
def bp (r : Req) (t : Task) : State := { base r with bg := [(2, t)], launches := [(1, { l1 with left := [0,1], xm := 1 })] }
def st_53 : State := bp (rpt (2*2^28)) t2
def rq_54 := rpt (2*2^28)
def st_55 : State := bp (rpt (1*2^28+2^63+0x80)) t2
def rq_56 := rpt (1*2^28+2^63+0x80)
def st_57 : State := bp (rpt (1*2^28+0x1080)) t2
def rq_58 := rpt (1*2^28+0x1080)
def st_59 : State := bp (rpt (1*2^28+0x1080)) t2p
theorem witness_MemoryEvents_5_Dm :
    st_6.req rb5.id = some rb5 ∧ (st_6.task rb5.task).may rb5.id = May.home ∧ st_6.lsWaiting rb5.task = false ∧
    rb5.kind = ReqKind.bank ∧ rb5.addr % rb5.size = 0 ∧ rb5.addr + rb5.size ≤ vget 0 (st_6.vf rb5.vf).dmSize rb5.die ∧
    st_6.dmPoisoned (dmNo rb5.die (vget 0 (st_6.vf rb5.vf).dmBase rb5.die * 32768 + rb5.addr)) rb5.size = false ∧
    (∀ x ∈ st_6.tasks, x.sleep = none) ∧ 0 < rb5.size ∧ rb5.ins = Instr.bfaa 0 4 5 1 0 ∧ true = true ∧
    (17592186044479 < dmNo rb5.die (vget 0 (st_6.vf rb5.vf).dmBase rb5.die * 32768 + rb5.addr) ∨ dmNo rb5.die (vget 0 (st_6.vf rb5.vf).dmBase rb5.die * 32768 + rb5.addr) + rb5.size ≤ 17592186044479) ∧
    st_22.req rb21.id = some rb21 ∧ (st_22.task rb21.task).may rb21.id = May.home ∧ st_22.lsWaiting rb21.task = false ∧
    rb21.kind = ReqKind.bank ∧ rb21.addr % rb21.size = 0 ∧
    rb21.addr + rb21.size ≤ vget 0 (st_22.vf rb21.vf).dmSize rb21.die ∧
    st_22.dmPoisoned (dmNo rb21.die (vget 0 (st_22.vf rb21.vf).dmBase rb21.die * 32768 + rb21.addr)) rb21.size = false ∧
    (∀ x ∈ st_22.tasks, x.sleep = none) ∧ 0 < rb21.size ∧ rb21.ins = Instr.bswp 0 4 5 1 0 ∧
    (17592186044479 < dmNo rb21.die (vget 0 (st_22.vf rb21.vf).dmBase rb21.die * 32768 + rb21.addr) ∨ dmNo rb21.die (vget 0 (st_22.vf rb21.vf).dmBase rb21.die * 32768 + rb21.addr) + rb21.size ≤ 17592186044479) ∧
    st_26.req rb25.id = some rb25 ∧ (st_26.task rb25.task).may rb25.id = May.home ∧ st_26.lsWaiting rb25.task = false ∧
    rb25.kind = ReqKind.bank ∧ rb25.addr % rb25.size = 0 ∧
    rb25.addr + rb25.size ≤ vget 0 (st_26.vf rb25.vf).dmSize rb25.die ∧
    st_26.dmPoisoned (dmNo rb25.die (vget 0 (st_26.vf rb25.vf).dmBase rb25.die * 32768 + rb25.addr)) rb25.size = false ∧
    (∀ x ∈ st_26.tasks, x.sleep = none) ∧ 0 < rb25.size ∧ rb25.ins = Instr.bcas 0 4 5 1 0 ∧
    (17592186044479 < dmNo rb25.die (vget 0 (st_26.vf rb25.vf).dmBase rb25.die * 32768 + rb25.addr) ∨ dmNo rb25.die (vget 0 (st_26.vf rb25.vf).dmBase rb25.die * 32768 + rb25.addr) + rb25.size ≤ 17592186044479) ∧
    c5.req r5.id = some r5 ∧ (c5.task r5.task).may r5.id = May.home ∧ c5.lsWaiting r5.task = false ∧
    r5.kind = ReqKind.dmLoad ∧ c5.dmPoisoned r5.addr r5.size = false ∧ c5p.req r5.id = some r5 ∧
    (c5p.task r5.task).may r5.id = May.home ∧ c5p.lsWaiting r5.task = false ∧ c5p.dmPoisoned r5.addr r5.size = true ∧
    st_1.req r5s.id = some r5s ∧ (st_1.task r5s.task).may r5s.id = May.home ∧ st_1.lsWaiting r5s.task = false ∧
    r5s.kind = ReqKind.dmStore ∧ (∀ x ∈ st_1.tasks, x.sleep = none) ∧
    (17592186044483 < r5s.addr ∨ r5s.addr + r5s.val.length ≤ 17592186044483) ∧ st_2.req rb1.id = some rb1 ∧
    (st_2.task rb1.task).may rb1.id = May.home ∧ st_2.lsWaiting rb1.task = false ∧ rb1.kind = ReqKind.bank ∧
    rb1.addr % rb1.size = 0 ∧ rb1.addr + rb1.size ≤ vget 0 (st_2.vf rb1.vf).dmSize rb1.die ∧
    st_2.dmPoisoned (dmNo rb1.die (vget 0 (st_2.vf rb1.vf).dmBase rb1.die * 32768 + rb1.addr)) rb1.size = false ∧
    (∀ x ∈ st_2.tasks, x.sleep = none) ∧ 0 < rb1.size ∧ rb1.ins = Instr.badd 0 4 5 1 0 ∧
    (17592186044479 < dmNo rb1.die (vget 0 (st_2.vf rb1.vf).dmBase rb1.die * 32768 + rb1.addr) ∨ dmNo rb1.die (vget 0 (st_2.vf rb1.vf).dmBase rb1.die * 32768 + rb1.addr) + rb1.size ≤ 17592186044479) ∧
    st_10.req rb9.id = some rb9 ∧ (st_10.task rb9.task).may rb9.id = May.home ∧ st_10.lsWaiting rb9.task = false ∧
    rb9.kind = ReqKind.bank ∧ rb9.addr % rb9.size = 0 ∧ rb9.addr + rb9.size ≤ vget 0 (st_10.vf rb9.vf).dmSize rb9.die ∧
    st_10.dmPoisoned (dmNo rb9.die (vget 0 (st_10.vf rb9.vf).dmBase rb9.die * 32768 + rb9.addr)) rb9.size = false ∧
    (∀ x ∈ st_10.tasks, x.sleep = none) ∧ 0 < rb9.size ∧ rb9.ins = Instr.band 0 4 5 1 0 ∧
    (17592186044479 < dmNo rb9.die (vget 0 (st_10.vf rb9.vf).dmBase rb9.die * 32768 + rb9.addr) ∨ dmNo rb9.die (vget 0 (st_10.vf rb9.vf).dmBase rb9.die * 32768 + rb9.addr) + rb9.size ≤ 17592186044479) ∧
    st_14.req rb13.id = some rb13 ∧ (st_14.task rb13.task).may rb13.id = May.home ∧ st_14.lsWaiting rb13.task = false ∧
    rb13.kind = ReqKind.bank ∧ rb13.addr % rb13.size = 0 ∧
    rb13.addr + rb13.size ≤ vget 0 (st_14.vf rb13.vf).dmSize rb13.die ∧
    st_14.dmPoisoned (dmNo rb13.die (vget 0 (st_14.vf rb13.vf).dmBase rb13.die * 32768 + rb13.addr)) rb13.size = false ∧
    (∀ x ∈ st_14.tasks, x.sleep = none) ∧ 0 < rb13.size ∧ rb13.ins = Instr.bor 0 4 5 1 0 ∧
    (17592186044479 < dmNo rb13.die (vget 0 (st_14.vf rb13.vf).dmBase rb13.die * 32768 + rb13.addr) ∨ dmNo rb13.die (vget 0 (st_14.vf rb13.vf).dmBase rb13.die * 32768 + rb13.addr) + rb13.size ≤ 17592186044479) ∧
    st_18.req rb17.id = some rb17 ∧ (st_18.task rb17.task).may rb17.id = May.home ∧ st_18.lsWaiting rb17.task = false ∧
    rb17.kind = ReqKind.bank ∧ rb17.addr % rb17.size = 0 ∧
    rb17.addr + rb17.size ≤ vget 0 (st_18.vf rb17.vf).dmSize rb17.die ∧
    st_18.dmPoisoned (dmNo rb17.die (vget 0 (st_18.vf rb17.vf).dmBase rb17.die * 32768 + rb17.addr)) rb17.size = false ∧
    (∀ x ∈ st_18.tasks, x.sleep = none) ∧ 0 < rb17.size ∧ rb17.ins = Instr.bxor 0 4 5 1 0 ∧
    (17592186044479 < dmNo rb17.die (vget 0 (st_18.vf rb17.vf).dmBase rb17.die * 32768 + rb17.addr) ∨ dmNo rb17.die (vget 0 (st_18.vf rb17.vf).dmBase rb17.die * 32768 + rb17.addr) + rb17.size ≤ 17592186044479) ∧
    st_30.req rb29.id = some rb29 ∧ (st_30.task rb29.task).may rb29.id = May.home ∧ st_30.lsWaiting rb29.task = false ∧
    rb29.kind = ReqKind.bank ∧ rb29.addr % rb29.size = 0 ∧
    rb29.addr + rb29.size ≤ vget 0 (st_30.vf rb29.vf).dmSize rb29.die ∧
    st_30.dmPoisoned (dmNo rb29.die (vget 0 (st_30.vf rb29.vf).dmBase rb29.die * 32768 + rb29.addr)) rb29.size = false ∧
    (∀ x ∈ st_30.tasks, x.sleep = none) ∧ 0 < rb29.size ∧ rb29.ins = Instr.bmin 0 4 5 1 1 0 ∧
    (17592186044479 < dmNo rb29.die (vget 0 (st_30.vf rb29.vf).dmBase rb29.die * 32768 + rb29.addr) ∨ dmNo rb29.die (vget 0 (st_30.vf rb29.vf).dmBase rb29.die * 32768 + rb29.addr) + rb29.size ≤ 17592186044479) ∧
    st_34.req rb33.id = some rb33 ∧ (st_34.task rb33.task).may rb33.id = May.home ∧ st_34.lsWaiting rb33.task = false ∧
    rb33.kind = ReqKind.bank ∧ rb33.addr % rb33.size = 0 ∧
    rb33.addr + rb33.size ≤ vget 0 (st_34.vf rb33.vf).dmSize rb33.die ∧
    st_34.dmPoisoned (dmNo rb33.die (vget 0 (st_34.vf rb33.vf).dmBase rb33.die * 32768 + rb33.addr)) rb33.size = false ∧
    (∀ x ∈ st_34.tasks, x.sleep = none) ∧ 0 < rb33.size ∧ rb33.ins = Instr.bmax 0 4 5 1 1 0 ∧
    (17592186044479 < dmNo rb33.die (vget 0 (st_34.vf rb33.vf).dmBase rb33.die * 32768 + rb33.addr) ∨ dmNo rb33.die (vget 0 (st_34.vf rb33.vf).dmBase rb33.die * 32768 + rb33.addr) + rb33.size ≤ 17592186044479) ∧
    st_38.req rb37.id = some rb37 ∧ (st_38.task rb37.task).may rb37.id = May.home ∧ st_38.lsWaiting rb37.task = false ∧
    rb37.kind = ReqKind.bank ∧ rb37.addr % rb37.size = 0 ∧
    rb37.addr + rb37.size ≤ vget 0 (st_38.vf rb37.vf).dmSize rb37.die ∧
    st_38.dmPoisoned (dmNo rb37.die (vget 0 (st_38.vf rb37.vf).dmBase rb37.die * 32768 + rb37.addr)) rb37.size = false ∧
    (∀ x ∈ st_38.tasks, x.sleep = none) ∧ 0 < rb37.size ∧ rb37.ins = Instr.bmin 0 4 5 1 0 0 ∧
    (17592186044479 < dmNo rb37.die (vget 0 (st_38.vf rb37.vf).dmBase rb37.die * 32768 + rb37.addr) ∨ dmNo rb37.die (vget 0 (st_38.vf rb37.vf).dmBase rb37.die * 32768 + rb37.addr) + rb37.size ≤ 17592186044479) ∧
    st_42.req rb41.id = some rb41 ∧ (st_42.task rb41.task).may rb41.id = May.home ∧ st_42.lsWaiting rb41.task = false ∧
    rb41.kind = ReqKind.bank ∧ rb41.addr % rb41.size = 0 ∧
    rb41.addr + rb41.size ≤ vget 0 (st_42.vf rb41.vf).dmSize rb41.die ∧
    st_42.dmPoisoned (dmNo rb41.die (vget 0 (st_42.vf rb41.vf).dmBase rb41.die * 32768 + rb41.addr)) rb41.size = false ∧
    (∀ x ∈ st_42.tasks, x.sleep = none) ∧ 0 < rb41.size ∧ rb41.ins = Instr.bmax 0 4 5 1 0 0 ∧
    (17592186044479 < dmNo rb41.die (vget 0 (st_42.vf rb41.vf).dmBase rb41.die * 32768 + rb41.addr) ∨ dmNo rb41.die (vget 0 (st_42.vf rb41.vf).dmBase rb41.die * 32768 + rb41.addr) + rb41.size ≤ 17592186044479) ∧
    st_46.req rbo.id = some rbo ∧ (st_46.task rbo.task).may rbo.id = May.home ∧ st_46.lsWaiting rbo.task = false ∧
    rbo.kind = ReqKind.bank ∧ rbo.addr % rbo.size = 0 ∧ vget 0 (st_46.vf rbo.vf).dmSize rbo.die < rbo.addr + rbo.size ∧
    bankReturns rbo.ins = false ∧ st_47.req rbp.id = some rbp ∧ (st_47.task rbp.task).may rbp.id = May.home ∧
    st_47.lsWaiting rbp.task = false ∧ rbp.kind = ReqKind.bank ∧ rbp.addr % rbp.size = 0 ∧
    rbp.addr + rbp.size ≤ vget 0 (st_47.vf rbp.vf).dmSize rbp.die ∧
    st_47.dmPoisoned (dmNo rbp.die (vget 0 (st_47.vf rbp.vf).dmBase rbp.die * 32768 + rbp.addr)) rbp.size = true ∧
    bankReturns rbp.ins = false := by
  and_intros <;> decide +kernel
theorem witness_MemoryEvents_7_Dm :
    st_49.req rt1.id = some rt1 ∧ rt1.addr < (st_49.vf rt1.vf).tkCount ∧ rt1.kind = ReqKind.tkTake ∧
    (st_49.task rt1.task).may rt1.id = May.home ∧ st_52.req rt4.id = some rt4 ∧ (st_52.vf rt4.vf).tkCount ≤ rt4.addr ∧
    st_50.req rt2.id = some rt2 ∧ rt2.addr < (st_50.vf rt2.vf).tkCount ∧ before (st_50.task rt2.task).accs rt2.id = [] ∧
    rt2.kind = ReqKind.tkNext false ∧ st_51.req rt3.id = some rt3 ∧ rt3.addr < (st_51.vf rt3.vf).tkCount ∧
    before (st_51.task rt3.task).accs rt3.id = [] ∧ rt3.kind = ReqKind.tkNext true := by
  and_intros <;> decide +kernel
theorem witness_MemoryEvents_6_Dm :
    9 < 2097152 ∧ 2 < 12 ∧ fget false st_48.dmPois (dmNo 2 0 / 64 + 9) = true ∧ 2097151 < 2097152 ∧ 11 < 12 ∧
    fget false s0.dmPois (dmNo 11 0 / 64 + 2097151) = false := by
  and_intros <;> decide +kernel
theorem witness_MemoryEvents_8_Dm :
    st_53.req rq_54.id = some rq_54 ∧ (st_53.task rq_54.task).may rq_54.id = May.home ∧ rq_54.val.length = rq_54.size ∧
    st_53.lsWaiting rq_54.task = false ∧ rq_54.addr % 2 ^ 28 % rq_54.size = 0 ∧ 0 < rq_54.size ∧
    ((st_53.launchOf (st_53.task rq_54.task)).xm + 1) * ((st_53.launchOf (st_53.task rq_54.task)).ym + 1) * ((st_53.launchOf (st_53.task rq_54.task)).zm + 1) ≤ rq_54.addr / 2 ^ 28 % 2 ^ 32 ∧
    st_55.req rq_56.id = some rq_56 ∧ (st_55.task rq_56.task).may rq_56.id = May.home ∧ rq_56.val.length = rq_56.size ∧
    st_55.lsWaiting rq_56.task = false ∧ rq_56.addr % 2 ^ 28 % rq_56.size = 0 ∧ 0 < rq_56.size ∧
    rq_56.addr / 2 ^ 28 % 2 ^ 32 < ((st_55.launchOf (st_55.task rq_56.task)).xm + 1) * ((st_55.launchOf (st_55.task rq_56.task)).ym + 1) * ((st_55.launchOf (st_55.task rq_56.task)).zm + 1) ∧
    st_55.putTarget (st_55.task rq_56.task).launch (rq_56.addr / 2 ^ 28 % 2 ^ 32) = some t2 ∧ rq_56.addr / 2 ^ 63 % 2 = 1 ∧
    rq_56.addr % 2 ^ 28 + rq_56.size ≤ vget 0 (st_55.vf rq_56.vf).dmSize t2.die ∧ (∀ x ∈ st_55.tasks, x.sleep = none) ∧
    st_59.req rq_58.id = some rq_58 ∧ (st_59.task rq_58.task).may rq_58.id = May.home ∧ rq_58.val.length = rq_58.size ∧
    st_59.lsWaiting rq_58.task = false ∧ rq_58.addr % 2 ^ 28 % rq_58.size = 0 ∧ 0 < rq_58.size ∧
    rq_58.addr / 2 ^ 28 % 2 ^ 32 < ((st_59.launchOf (st_59.task rq_58.task)).xm + 1) * ((st_59.launchOf (st_59.task rq_58.task)).ym + 1) * ((st_59.launchOf (st_59.task rq_58.task)).zm + 1) ∧
    st_59.putTarget (st_59.task rq_58.task).launch (rq_58.addr / 2 ^ 28 % 2 ^ 32) = some t2p ∧
    rq_58.addr / 2 ^ 63 % 2 = 0 ∧ rq_58.addr % 2 ^ 28 < 2 ^ 22 ∧
    rq_58.addr % 2 ^ 28 + rq_58.size ≤ (st_59.launchOf (st_59.task rq_58.task)).lsTiles * 4096 ∧
    t2p.state = TaskState.pending ∧ st_57.req rq_58.id = some rq_58 ∧ (st_57.task rq_58.task).may rq_58.id = May.home ∧
    st_57.lsWaiting rq_58.task = false ∧
    rq_58.addr / 2 ^ 28 % 2 ^ 32 < ((st_57.launchOf (st_57.task rq_58.task)).xm + 1) * ((st_57.launchOf (st_57.task rq_58.task)).ym + 1) * ((st_57.launchOf (st_57.task rq_58.task)).zm + 1) ∧
    st_57.putTarget (st_57.task rq_58.task).launch (rq_58.addr / 2 ^ 28 % 2 ^ 32) = some t2 ∧
    rq_58.addr % 2 ^ 28 + rq_58.size ≤ (st_57.launchOf (st_57.task rq_58.task)).lsTiles * 4096 ∧
    t2.state = TaskState.primary ∧
    (st_57.owner (coreOf t2.unit) (t2.lsBase + rq_58.addr % 2 ^ 28 / 4096)).getLsbD 7 = false := by
  and_intros <;> decide +kernel
end Dm

namespace Sync
def sl1 (c : Nat) (v : Word) (l : Option Nat := some 16) : Sleep := ⟨.word 0 (dm 0x40), v, l, c, 5, none, none⟩
def s1 (c : Nat) (v : Word) (l : Option Nat := some 16) (cyc : Nat := 46) : State := put8 { withFg s0 (fun t => {t with sleep := some (sl1 c v l)}) with cycle := cyc } (dm 0x40) 9
def st_1 : State := s1 0 9
def st_2 : State := s1 0 8
def st_3 : State := s1 0 8 (some 17)
def bb (step : Bool) : Barr := ⟨1, step, 3, 0, 2, []⟩
def b2 (step : Bool) : State := 
  let s : State := { s0 with bars := [bb step] }
  let o := s.barValue (bb step) 1
  withFg s (fun t => {t with sleep := some ⟨if step then .super 0 o else .barrier 0 o, 0, none, 0, 5, none, none⟩ })
def o2 (step : Bool) : Nat := ({ s0 with bars := [bb step] } : State).barValue (bb step) 1
def st_4 : State := b2 true
def v5_sl : Sleep := ⟨.super 0 (o2 true), 0, none, 0, 5, none, none⟩
def st_6 : State := b2 false
def v7_sl : Sleep := ⟨.barrier 0 (o2 false), 0, none, 0, 5, none, none⟩
def obj1 : CodeObj := { CodeObj.empty with traps := [(0x20, 5)] }
def oA := objWord 0 0 0x40
def oB := objWord 0 0 0x80
def slA : Sleep := ⟨.lock 0 (dm 0x40), 0, none, 0, 33, some 44, none⟩
def t2 : Task := { t1 with key := 2, idx := 1, unit := 4, state := .primary, sleep := some ⟨.lock 0 (dm 0x80), 0, none, 0, 5, none, none⟩ }
def s3 : State := { withFg s0 (fun t => {t with sleep := some slA, waitStat := 8, pc := 99 }) with
  launches := [(1, { l1 with obj := obj1 })], bg := [(2, t2)], ev := .firmwareCycleWalk 1,
  clasp := [(0, [⟨.hold, oA, 0, 2⟩, ⟨.wait, oA, 0, 1⟩, ⟨.hold, oB, 0, 1⟩, ⟨.wait, oB, 0, 2⟩])] }
def pin : ParcelIn := { vf := 0, pkg := 3, die := 0, mbox := 9, len := 16 , words := [], marks := [] }
def x5 : Xfer := ⟨8, none, 0, 3, 1, 0, 2, 64, [], [], none⟩
def pc0 : Parcel := ⟨.sealedP, 64, [0], [2]⟩
def s5 : State := { s0 with xfers := [x5], parcels := [(3, pc0)] }
def x6 : Xfer := { x5 with dst := some 0 }
def s6 : State := { s0 with xfers := [x6], parcels := [(0, ⟨.transit, 64, [1], []⟩), (3, pc0)], mailbox := [(2, [5])] }
def x7 : Xfer := { x5 with far := some 3 }
def s7 : State := withFg { s0 with xfers := [x7], parcels := [(3, pc0)] } (fun t => {t with results := [⟨4, 0, false, 4, none, none⟩]})
theorem witness_SynchronisationEvents :
    s7.xfers = [x7] ∧ x7.far = some 3 ∧ x7.id % 2 = 0 ∧ x7.src < 49152 ∧ x7.src % 4096 < (s7.vf x7.vf).pclCount ∧
    (st_1.task 1).key = 1 ∧ (st_1.task 1).sleep = some (sl1 0 9) ∧ (sl1 0 9).obj = WaitObj.word 0 (dm 64) ∧
    waitTest (sl1 0 (9 : Word)).cond (BitVec.ofNat 64 (st_1.num (dm 64) 8)) (sl1 0 (9 : Word)).val = true ∧
    (sl1 0 9).limit = some 16 ∧ 16 ≤ st_1.now / 8 * 8 ∧ (st_2.task 1).key = 1 ∧ (st_2.task 1).sleep = some (sl1 0 8) ∧
    (sl1 0 8).obj = WaitObj.word 0 (dm 64) ∧
    waitTest (sl1 0 (8 : Word)).cond (BitVec.ofNat 64 (st_2.num (dm 64) 8)) (sl1 0 (8 : Word)).val = false ∧
    (sl1 0 8).limit = some 16 ∧ 16 ≤ st_2.now / 8 * 8 ∧ s3.ev = Event.firmwareCycleWalk s3.fg.key ∧
    s3.fg.sleep = some slA ∧ s3.sleepWord s3.fg = some oA ∧ BitVec.getLsbD s3.fg.waitStat 3 = true ∧
    (s3.walk s3.fg oA (2 ^ 64) (s3.tasks.length + 1) [(oA, [(s3.fg.key, oA)])] 0).2.1.isSome = true ∧
    s3.fg.pend = [] ∧ s3.fg.land = [] ∧ s3.fg.divDue = false ∧ s3.frozen (s3.fg.unit / 4) = false ∧
    s3.fg.active = false ∧ s3.handler s3.fg 32 = some 5 ∧ s5.xfers = [x5] ∧ x5.far = none ∧ x5.dst = none ∧ x5.id % 2 = 0 ∧
    s5.leaving x5.vf = false ∧ s5.freeHandle x5.vf x5.die = some 0 ∧ 0 < 49152 ∧ 0 % 4096 < (s5.vf x5.vf).pclCount ∧
    0 ≠ x5.src ∧ (s5.arrivedAt x5.vf x5.die x5.mbox).length < 16 ∧ pagesOf x5.len ≤ (s5.freePages x5.vf x5.die).length ∧
    (∀ a ∈ (s5.task x5.task).accs, x5.id / 2 ≤ a.id) ∧ s6.xfers = [x6] ∧ x6.dst = some 0 ∧ x6.id % 2 = 0 ∧
    0 % 4096 < (s6.vf x6.vf).pclCount ∧
    (∀ e ∈ s6.claspOf x6.die, ¬(e.sort = ClaspSort.wait ∧ e.obj = objWord 4 x6.die x6.mbox ∧ e.vf = x6.vf)) ∧
    st_4.barOf (objWord 3 0 (o2 true)) = some (bb true) ∧ o2 true % 2 ^ 32 < (bb true).count ∧ st_4.fg.sleep = some v5_sl ∧
    (∀ x ∈ fvals st_4.bg, x.key ≠ st_4.fg.key) ∧ (bb true).step = true ∧ v5_sl.obj = WaitObj.super 0 (o2 true) ∧
    st_6.barOf (objWord 3 0 (o2 false)) = some (bb false) ∧ o2 false % 2 ^ 32 < (bb false).count ∧
    st_6.fg.sleep = some v7_sl ∧ (∀ x ∈ fvals st_6.bg, x.key ≠ st_6.fg.key) ∧ (bb false).step = false ∧
    v7_sl.obj = WaitObj.barrier 0 (o2 false) ∧ s0.mboxRefuses pin.vf pin.die pin.mbox pin.len = true ∧
    (∀ x ∈ s0.xfers, x.id ≠ 2 * (pin.pkg * 2 ^ 64 + 8) + 1) ∧ (st_3.task 1).key = 1 ∧
    (st_3.task 1).sleep = some (sl1 0 8 (some 17)) ∧ (sl1 0 8 (some 17)).obj = WaitObj.word 0 (dm 64) ∧
    waitTest (sl1 0 (8 : Word) (some 17)).cond (BitVec.ofNat 64 (st_3.num (dm 64) 8)) (sl1 0 (8 : Word) (some 17)).val = false ∧
    (sl1 0 8 (some 17)).limit = some 17 ∧ st_3.now / 8 * 8 < 17 := by
  and_intros <;> decide +kernel
def mg3 : Mig := ⟨0, 0, 5, 0, 3, (0, 0), 0⟩
def s8 : State := { s0 with migs := [mg3] }
def s9 : State := { s7 with pod := { s7.pod with ez := 4 } }
theorem witness_SynchronisationEvents_moved :
    s8.migs = [mg3] ∧ mg3.vf = pin.vf ∧ mg3.round = 3 ∧ (∀ m, m ∈ s0.migs → m.vf = pin.vf → m.round ≠ 3) ∧
    s9.xfers = [x7] ∧ x7.far = some 3 ∧ 2 < 4096 ∧ s9.wordPkg (BitVec.ofNat 64 (2 * 2 ^ 52)) = some 512 ∧ 512 ≠ s9.ownPkg := by
  and_intros <;> decide +kernel
end Sync

namespace Engine
def rc (i : Instr) (x y : Word := 0) (id : Nat := 3) (col : Nat := 0) : Rec := ⟨id, 1, col, i, x, y, 0, [], 0, 0, 4, 0⟩
def ent (f : Nat) (n : Nat := 2) (p : Bool := false) : QEnt := ⟨n, 64, f, List.replicate (n*64) 0x3C, [], p, [], true⟩
def rr := rc (.chain 0 4 1)
def sp (x : Strip → Strip) : State := withFg { s0 with strips := [(0, x { Strip.zero with holder := 1, run := some rr, loaded := true, left := 1, q := (List.range 64).map (fun k => (k, 0x3C)) })] } (fun t => {t with width := 4})
def f1 := Strip.zero.kfmt
def f2 := Strip.zero.vfmt
def a1 := sp id
def a2 := sp (fun x => { x with qa := [ent f1, ent f1], qb := [ent f2] })
def a3 := sp (fun x => { x with qa := [ent f1], qb := [ent f2 2 true] })
def a4 := withFg a2 (fun t => {t with stop := .debug})
def a5 := sp (fun x => { x with cancel := true })
def a6 := sp (fun x => { x with qa := [ent f1], qb := [ent f2 3] })
def rm := rc (.mv 0 4 1)
def trm : TileReg := { TileReg.zero with cfg := BitVec.ofNat 32 (0x7E + 0xF * 2^13) }
def m1 := sp (fun x => { x with run := some rm, q := [] })
def m2 := sp (fun x => { x with run := some rm, qb := [ent x.kfmt], treg := #v[TileReg.zero, trm] })
def b1 (l : Nat) := sp (fun x => { x with qa := [ent f1, ent f1], qb := [ent f2], fired := true, left := l })
def st_1 : State := b1 1
def st_2 : State := b1 3
def r3 := rc (.mv 0 4 1)
def c3 (l : Nat) := sp (fun x => { x with run := some r3, qb := [ent f2], fired := true, left := l, batch := 2, q := (List.range 64).map (fun k => (k, 0x3C)) })
def st_3 : State := c3 1
def st_4 : State := c3 3
def r4 := rc (.mcall 0 4)
def k4 : CharmRun := ⟨17, [0], 0, Vector.replicate 8 0, Vector.replicate 4 0, Vector.replicate 4 none, Vector.replicate 2 0, Vector.replicate 2 [], #v[none, some TileReg.zero], [], [], false, false⟩
def d4 := sp (fun x => { x with run := some r4, charm := some k4 })
def r5 := rc (.chld 0 4 5) 0 17
def d5' := sp (fun x => { x with run := some r5 })
def d5 : State := { d5' with lsOwn := (List.range 4).map (fun k => (k, ownerByte 1 0 0)) }
def d5b : State := { d5 with strips := d5.strips ++ [(2, { Strip.zero with charm := some k4 })] }
def lq6 : Lq := { Lq.none with fifo := [5, 6] }
def d6 := withFg (sp (fun x => { x with run := none, bindB := some (2, 2, 1) })) (fun t => t.setBank 0 { t.bank 0 with lq := vset (t.bank 0).lq 2 lq6 })
def d6b := withFg (sp (fun x => { x with run := none, bindB := some (2, 2, 1), qb := List.replicate 4 (ent f2) })) (fun t => t.setBank 0 { t.bank 0 with lq := vset (t.bank 0).lq 2 lq6 })
def r7 := rc (.tld 0 4 1) 0 0
def trf : TileReg := { TileReg.zero with cfg := BitVec.ofNat 32 (0xF * 2^13 + 3 * 2) }
def c7 (ow : Nat) : State := { sp (fun x => { x with run := some r7, treg := #v[TileReg.zero, trf], thold := #v[0, 1] }) with lsOwn := [(0, if ow = 0 then ownerByte 1 0 0 else 0)] }
def c7m := put8 (c7 0) (lsNo 0 8) 0x1234567
def mOf (s : State) : Nat := match s.lsSpan (s.task r7.task) 1 r7.col r7.s1 8 (8 * trf.rows) true with | .ok m => m | .error e => e
def st_5 : State := c7 1
theorem witness_ChainEvents_3 :
    (st_1.strip 0).run = some rr ∧ rr.ins = Instr.chain 0 4 1 ∧ (st_1.strip 0).fired = true ∧
    (st_1.task rr.task).stop ≠ StopState.debug ∧ (st_1.strip 0).cancel = false ∧ (st_1.task rr.task).exiting = false ∧
    st_1.shares 0 = false ∧ st_1.pairThere 0 rr = true ∧ Claims.noCopies st_1 0 ∧ st_2.pairThere 0 rr = true ∧
    Claims.noCopies st_2 0 ∧ (st_1.strip 0).left ≤ 1 ∧ (st_2.strip 0).run = some rr ∧ (st_2.strip 0).fired = true ∧
    (st_2.task rr.task).stop ≠ StopState.debug ∧ (st_2.strip 0).cancel = false ∧ (st_2.task rr.task).exiting = false ∧
    st_2.shares 0 = false ∧ 1 < (st_2.strip 0).left := by
  and_intros <;> decide +kernel
theorem witness_ChainEvents_4 :
    (st_3.strip 0).run = some r3 ∧ r3.ins = Instr.mv 0 4 1 ∧ (st_3.strip 0).fired = true ∧
    (st_3.task r3.task).stop ≠ StopState.debug ∧ (st_3.strip 0).cancel = false ∧ (st_3.task r3.task).exiting = false ∧
    st_3.shares 0 = false ∧ st_3.pairThere 0 r3 = true ∧ Claims.noCopies st_3 0 ∧ st_4.pairThere 0 r3 = true ∧
    Claims.noCopies st_4 0 ∧ (st_3.strip 0).left ≤ 1 ∧ (st_4.strip 0).run = some r3 ∧ (st_4.strip 0).fired = true ∧
    (st_4.task r3.task).stop ≠ StopState.debug ∧ (st_4.strip 0).cancel = false ∧ (st_4.task r3.task).exiting = false ∧
    st_4.shares 0 = false ∧ 1 < (st_4.strip 0).left := by
  and_intros <;> decide +kernel
theorem witness_ChainEvents_8 :
    (st_5.strip 0).run = some r7 ∧ r7.ins = Instr.tld 0 4 1 ∧ (st_5.task r7.task).state ≠ TaskState.killed ∧
    (st_5.task r7.task).exiting = false ∧ st_5.lsStores (0 / 4) = false ∧
    (st_5.strip 0).holds r7 (BitVec.toNat (1 : BitVec 3) % 2) = true ∧
    (vget TileReg.zero (st_5.strip 0).treg (BitVec.toNat (1 : BitVec 3) % 2)).type = 15 ∧
    st_5.lsSpan (st_5.task r7.task) 1 r7.col r7.s1 8 (8 * (vget TileReg.zero (st_5.strip 0).treg (BitVec.toNat (1 : BitVec 3) % 2)).rows) true = Except.error (mOf (c7 1)) ∧
    (c7m.strip 0).run = some r7 ∧ (c7m.task r7.task).state ≠ TaskState.killed ∧ (c7m.task r7.task).exiting = false ∧
    c7m.lsStores (0 / 4) = false ∧ (c7m.strip 0).holds r7 (BitVec.toNat (1 : BitVec 3) % 2) = true ∧
    (vget TileReg.zero (c7m.strip 0).treg (BitVec.toNat (1 : BitVec 3) % 2)).type = 15 ∧
    c7m.lsSpan (c7m.task r7.task) 1 r7.col r7.s1 8 (8 * (vget TileReg.zero (c7m.strip 0).treg (BitVec.toNat (1 : BitVec 3) % 2)).rows) true = Except.ok (mOf c7m) := by
  and_intros <;> decide +kernel
theorem witness_ChainEvents_5 :
    (d4.strip 0).run = some r4 ∧ (d4.strip 0).charm = some k4 ∧ (d4.task r4.task).stop ≠ StopState.debug ∧
    (d4.task r4.task).exiting = false ∧ 16 ≤ k4.num ∧ Claims.noCopies d4 0 ∧ k4.words ≠ [] ∧ BitVec.toNat (lget (0 : Word) k4.words k4.pc) / 2 ^ 60 = 0 := by
  and_intros <;> decide +kernel
theorem witness_ChainEvents_6 :
    (d5.strip 0).run = some r5 ∧ r5.ins = Instr.chld 0 4 5 ∧
    d5.chldWords r5 = Except.ok (match d5.chldWords r5 with | Except.ok w => w | x => [7]) ∧
    (d5.task r5.task).exiting = false ∧
    (∀ k < 4, ∀ (q : CharmRun), (d5.strip ((0 / 4 : ℕ) * 4 + k)).charm = some q → q.num ≠ BitVec.toNat r5.s2 % 256) ∧
    (d5b.strip 0).run = some r5 ∧ (d5b.strip (0 / 4 * 4 + 2)).charm = some k4 ∧ k4.num = BitVec.toNat r5.s2 % 256 := by
  and_intros <;> decide +kernel
theorem witness_ChainEvents_1 :
    (a3.strip 0).run = some rr ∧ rr.ins = Instr.chain 0 4 1 ∧ (a3.strip 0).fired = false ∧ 0 < (a3.strip 0).passes ∧
    (a3.task rr.task).stop ≠ StopState.debug ∧ (a3.strip 0).cancel = false ∧
    (Claims.heads a3 0 false).length = (a3.strip 0).passes ∧ (Claims.heads a3 0 true).length = (a3.strip 0).passes ∧
    (∃ e ∈ Claims.heads a3 0 false ++ Claims.heads a3 0 true, e.pois = true) ∧ (a3.task rr.task).exiting = false ∧
    (a6.strip 0).run = some rr ∧ (a6.strip 0).fired = false ∧ 0 < (a6.strip 0).passes ∧
    (a6.task rr.task).stop ≠ StopState.debug ∧ (a6.strip 0).cancel = false ∧
    (Claims.heads a6 0 false).length = (a6.strip 0).passes ∧ (Claims.heads a6 0 true).length = (a6.strip 0).passes ∧
    (∀ e ∈ Claims.heads a6 0 false ++ Claims.heads a6 0 true, e.pois = false) ∧
    (¬∃ n < 65, 0 < n ∧ Claims.fit (Claims.heads a6 0 false) (a6.strip 0).kfmt n ∧ Claims.fit (Claims.heads a6 0 true) (a6.strip 0).vfmt n) ∧
    (a6.task rr.task).exiting = false ∧ (a5.strip 0).run = some rr ∧ (a5.strip 0).fired = false ∧ 0 < (a5.strip 0).passes ∧
    (a5.task rr.task).stop ≠ StopState.debug ∧ (a5.strip 0).cancel = true ∧ (a5.task rr.task).exiting = false ∧
    (a4.strip 0).run = some rr ∧ (a4.strip 0).fired = false ∧ 0 < (a4.strip 0).passes ∧
    (a4.task rr.task).stop = StopState.debug ∧ (a1.strip 0).run = some rr ∧ (a1.strip 0).fired = false ∧
    0 < (a1.strip 0).passes ∧ (a1.task rr.task).stop ≠ StopState.debug ∧ (a1.strip 0).cancel = false ∧
    ((Claims.heads a1 0 false).length < (a1.strip 0).passes ∨ (Claims.heads a1 0 true).length < (a1.strip 0).passes) ∧
    (a2.strip 0).run = some rr ∧ (a2.strip 0).fired = false ∧ 0 < (a2.strip 0).passes ∧
    (a2.task rr.task).stop ≠ StopState.debug ∧ (a2.strip 0).cancel = false ∧
    (Claims.heads a2 0 false).length = (a2.strip 0).passes ∧ (Claims.heads a2 0 true).length = (a2.strip 0).passes ∧
    (∃ n < 65, 0 < n ∧ Claims.fit (Claims.heads a2 0 false) (a2.strip 0).kfmt n ∧ Claims.fit (Claims.heads a2 0 true) (a2.strip 0).vfmt n) := by
  and_intros <;> decide +kernel
theorem witness_ChainEvents_7 :
    (d6.strip 0).bound true = some (2, 2, 1) ∧ (d6.task (d6.strip 0).holder).key = (d6.strip 0).holder ∧ 2 < 8 ∧
    (d6.unitOfCol 0).2 < 4 ∧ (vget Lq.none ((d6.task (d6.strip 0).holder).bank (d6.unitOfCol 0).2).lq 2).fifo = [5, 6] ∧
    (d6.strip 0).queue true = [] ∧ 1 < boundWords 2 1 ∧ (d6b.strip 0).bound true = some (2, 2, 1) ∧
    (d6b.task (d6b.strip 0).holder).key = (d6b.strip 0).holder ∧ (d6b.unitOfCol 0).2 < 4 ∧
    (vget Lq.none ((d6b.task (d6b.strip 0).holder).bank (d6b.unitOfCol 0).2).lq 2).fifo = [5, 6] ∧
    4 ≤ ((d6b.strip 0).queue true).length ∧ (∀ e ∈ (d6b.strip 0).queue true, e.done = true) := by
  and_intros <;> decide +kernel
theorem witness_ChainEvents_2 :
    (m1.strip 0).run = some rm ∧ rm.ins = Instr.mv 0 4 1 ∧ (m1.strip 0).fired = false ∧
    (m1.task rm.task).stop ≠ StopState.debug ∧ (m1.strip 0).cancel = false ∧
    (Claims.heads m1 0 true).length < (m1.strip 0).passes ∧ (m2.strip 0).run = some rm ∧ (m2.strip 0).fired = false ∧
    (m2.task rm.task).stop ≠ StopState.debug ∧ (m2.strip 0).cancel = false ∧
    (Claims.heads m2 0 true).length = (m2.strip 0).passes ∧ 0 < (m2.strip 0).passes ∧ 0 < 2 ∧ 2 ≤ 64 ∧
    Claims.fit (Claims.heads m2 0 true) (m2.strip 0).kfmt 2 ∧
    (m2.strip 0).row + (m2.strip 0).left * 2 ≤ (vget TileReg.zero (m2.strip 0).treg (BitVec.toNat (1 : BitVec 3) % 2)).rows := by
  and_intros <;> decide +kernel
end Engine

namespace Remote
def rc (i : Instr) (x y : Word := 0) (id : Nat := 3) (col : Nat := 0) (acc : Nat := 0) : Rec := ⟨id, 1, col, i, x, y, 0, [], 0, acc, 4, 0⟩
def u0 (f : UnitSt → UnitSt) (s : State := s0) : State := s.mapUnit 0 f
def r1 := rc (.pfree 0 4) 3
def c1 : State := { u0 (fun x => { x with qFabric := [r1, rc (.pnew 0 4 5) 0 0 9] }) with parcels := [(3, ⟨.localP, 64, [0], [2]⟩)] }
def r2 := rc (.rput 0 4 5 1 1) (BitVec.ofNat 64 (0x40 + 2^48)) 0x1234 4 0 3
def a3 : Acc := ⟨3, 1, false, true, .dm 1, dmNo 1 0x40, 4, [0x34,0x12,0,0], []⟩
def a2 : Acc := ⟨2, 1, true, false, .dm 1, dmNo 1 0x40, 4, [], []⟩
def c2 (l : List Acc) : State := withFg (u0 (fun x => { x with qFabric := [r2] })) (fun t => { t with accs := l })
def st_1 : State := c2 [a3]
def st_2 : State := c2 [a2, a3]
def rq (op : RemoteOp) (v e : Word) (sz : Nat) (retx : Bool := false) : RemoteReq := ⟨3, 2, 77, retx, 0, op, BitVec.ofNat 64 (0x40 + 2^48), sz, v, e, 0, [], none, false⟩
def m0 : State := put8 s0 (dmNo 1 0x40) 0xFFFFFFF011223344
def mg (n : Nat) : Mig := ⟨0, 0, 3, 0, n, (0, 0), 0⟩
def mgs (n : Nat) : State := { m0 with migs := [mg n], pod := { m0.pod with ez := 4 } }
def st_3 : State := mgs 1
def rq_4 := rq .add 1 1 8
def st_5 : State := mgs 3
def rq_6 := rq .add 0xF1223345 0x11223344 8
def rq_12 := rq .swp 0xF1223345 0x11223344 8
def rq_20 := rq .cas 0xF1223345 0x11223344 8
def rq_24 := rq .get 0xF1223345 0x11223344 8
def rq_28 := rq .add 1 1 8 true
def st_30 : State := { m0 with fab := { m0.fab with replay := [(1, [⟨3, 2, 77, .done 5⟩])] } }
def v31_e : Replay := ⟨3, 2, 77, .done 5⟩
def rem (op : RemoteOp) (tries sent : Nat) (pkg : Nat := 3) (id : Nat := 4) : Remote := ⟨77, pkg, ⟨0, 0, 77, false, 0, op, BitVec.ofNat 64 (0x40 + 2^48), 8, 1, 0, 0, [], none, false⟩, 1, 0, 3, id, sent, tries, 0, [], true, none⟩
def c3 (o : Remote) : State := withFg { s0 with fab := { s0.fab with out := [o] }, cycle := 60000 } (fun t => { t with accs := [a3], results := [⟨4, 0, false, 4, none, none⟩, ⟨3, 0, false, 5, none, none⟩] })
def st_32 : State := c3 (rem .add 0 0)
def v33_x : RemoteReply := ⟨0, 77, .done 9⟩
def v34_x : RemoteReply := ⟨0, 77, .refused 0x11⟩
def fwd : Remote := { rem .add 0 0 with fwd := some (9, 2, 5) }
def st_33 : State := c3 fwd
def st_35 : State := c3 (rem .add 0 10000)
def st_37 : State := c3 (rem .add 3 10000)
def lqr (b : LqBind) (f : List Word := [1]) : Lq := { Lq.none with bind := some b, fifo := f, quiet := 16 }
def c5 (b : LqBind) (f : List Word := [1]) : State := withFg s0 (fun t => { (t.setBank 1 { t.bank 1 with lq := vset (t.bank 1).lq 2 (lqr b f) }) with hasLs := true, width := 4 })
def st_38 : State := c5 (.recvCirc 9)
def dst : Word := BitVec.ofNat 64 (8 + 2)
def st_40 : State := c5 .recvEnd
def c7 : State := { c5 (.sendCirc 9) with fab := { s0.fab with bead := [(4, 2^14 + 24 * 256 + 9)] } }
def c10 (n : Nat) : State := { s0 with fab := { s0.fab with shadow := [(4, 7)], commit := some n }, cycle := 200 }
def st_42 : State := c10 100
def st_43 : State := c10 101
def st_44 : State := { s0 with fab := { s0.fab with shadow := [], commit := some 100 }, cycle := 200 }
theorem witness_FabricEvents_1 :
    (st_1.unit 0).qFabric = [r2] ∧ r2.ins = Instr.rput 0 4 5 1 1 ∧ st_1.wordPkg r2.s1 = some st_1.ownPkg ∧
    BitVec.toNat r2.s1 / 2 ^ 40 % 4 = 0 ∧ BitVec.toNat r2.s1 / 2 ^ 48 % 16 < 12 ∧ st_1.fab.out = [] ∧
    st_1.fab.pend = [] ∧ st_1.path (st_1.task r2.task).die st_1.ownPkg ≠ none ∧ st_2.fab.pend = [] ∧
    st_2.path (st_2.task r2.task).die st_2.ownPkg ≠ none ∧
    (st_1.task r2.task).exiting = false ∧ (st_1.task r2.task).may r2.acc = May.home ∧ (st_2.unit 0).qFabric = [r2] ∧
    st_2.wordPkg r2.s1 = some st_2.ownPkg ∧ st_2.fab.out = [] ∧ (st_2.task r2.task).exiting = false ∧
    (st_2.task r2.task).may r2.acc ≠ May.home ∧ (c1.unit 0).qFabric = [r1, rc (Instr.pnew 0 4 5) 0 0 9] ∧
    r1.ins = Instr.pfree 0 4 ∧ (c1.task r1.task).exiting = false ∧
    (c1.parcel (c1.task r1.task).vf (BitVec.toNat r1.s1 % 65536)).st = PState.localP := by
  and_intros <;> decide +kernel
theorem witness_FabricEvents_3 :
    rq_6.srcPkg ≠ m0.ownPkg ∧ m0.migs = [] ∧ (∀ q ∈ m0.reqs, q.kind ≠ ReqKind.lsStore) ∧
    fget [] m0.fab.replay (BitVec.toNat rq_6.addr / 2 ^ 48 % 16) = [] ∧ rq_6.retx = false ∧
    BitVec.toNat rq_6.addr / 2 ^ 48 % 16 < 12 ∧ BitVec.toNat rq_6.addr / 2 ^ 40 % 4 = 0 ∧ 0 < rq_6.size ∧ rq_6.size ≤ 8 ∧
    BitVec.toNat rq_6.addr % 2 ^ 28 % rq_6.size = 0 ∧
    BitVec.toNat rq_6.addr % 2 ^ 28 + rq_6.size ≤ vget 0 (m0.vf rq_6.vf).dmSize (BitVec.toNat rq_6.addr / 2 ^ 48 % 16) ∧
    m0.dmPoisoned (dmNo (BitVec.toNat rq_6.addr / 2 ^ 48 % 16) (vget 0 (m0.vf rq_6.vf).dmBase (BitVec.toNat rq_6.addr / 2 ^ 48 % 16) * 32768 + BitVec.toNat rq_6.addr % 2 ^ 28)) rq_6.size = false ∧
    (∀ x ∈ m0.tasks, x.sleep = none) ∧ rq_6.op = RemoteOp.add ∧
    (nat_lit 17592320262207 < dmNo (BitVec.toNat rq_6.addr / 2 ^ 48 % 16) (vget 0 (m0.vf rq_6.vf).dmBase (BitVec.toNat rq_6.addr / 2 ^ 48 % 16) * 32768 + BitVec.toNat rq_6.addr % 2 ^ 28) ∨ dmNo (BitVec.toNat rq_6.addr / 2 ^ 48 % 16) (vget 0 (m0.vf rq_6.vf).dmBase (BitVec.toNat rq_6.addr / 2 ^ 48 % 16) * 32768 + BitVec.toNat rq_6.addr % 2 ^ 28) + rq_6.size ≤ nat_lit 17592320262207) ∧
    rq_20.srcPkg ≠ m0.ownPkg ∧ fget [] m0.fab.replay (BitVec.toNat rq_20.addr / 2 ^ 48 % 16) = [] ∧ rq_20.retx = false ∧
    BitVec.toNat rq_20.addr / 2 ^ 48 % 16 < 12 ∧ BitVec.toNat rq_20.addr / 2 ^ 40 % 4 = 0 ∧ 0 < rq_20.size ∧
    rq_20.size ≤ 8 ∧ BitVec.toNat rq_20.addr % 2 ^ 28 % rq_20.size = 0 ∧
    BitVec.toNat rq_20.addr % 2 ^ 28 + rq_20.size ≤ vget 0 (m0.vf rq_20.vf).dmSize (BitVec.toNat rq_20.addr / 2 ^ 48 % 16) ∧
    m0.dmPoisoned (dmNo (BitVec.toNat rq_20.addr / 2 ^ 48 % 16) (vget 0 (m0.vf rq_20.vf).dmBase (BitVec.toNat rq_20.addr / 2 ^ 48 % 16) * 32768 + BitVec.toNat rq_20.addr % 2 ^ 28)) rq_20.size = false ∧
    rq_20.op = RemoteOp.cas ∧
    (nat_lit 17592320262207 < dmNo (BitVec.toNat rq_20.addr / 2 ^ 48 % 16) (vget 0 (m0.vf rq_20.vf).dmBase (BitVec.toNat rq_20.addr / 2 ^ 48 % 16) * 32768 + BitVec.toNat rq_20.addr % 2 ^ 28) ∨ dmNo (BitVec.toNat rq_20.addr / 2 ^ 48 % 16) (vget 0 (m0.vf rq_20.vf).dmBase (BitVec.toNat rq_20.addr / 2 ^ 48 % 16) * 32768 + BitVec.toNat rq_20.addr % 2 ^ 28) + rq_20.size ≤ nat_lit 17592320262207) ∧
    rq_24.srcPkg ≠ m0.ownPkg ∧ fget [] m0.fab.replay (BitVec.toNat rq_24.addr / 2 ^ 48 % 16) = [] ∧ rq_24.retx = false ∧
    BitVec.toNat rq_24.addr / 2 ^ 48 % 16 < 12 ∧ BitVec.toNat rq_24.addr / 2 ^ 40 % 4 = 0 ∧ 0 < rq_24.size ∧
    rq_24.size ≤ 8 ∧ BitVec.toNat rq_24.addr % 2 ^ 28 % rq_24.size = 0 ∧
    BitVec.toNat rq_24.addr % 2 ^ 28 + rq_24.size ≤ vget 0 (m0.vf rq_24.vf).dmSize (BitVec.toNat rq_24.addr / 2 ^ 48 % 16) ∧
    m0.dmPoisoned (dmNo (BitVec.toNat rq_24.addr / 2 ^ 48 % 16) (vget 0 (m0.vf rq_24.vf).dmBase (BitVec.toNat rq_24.addr / 2 ^ 48 % 16) * 32768 + BitVec.toNat rq_24.addr % 2 ^ 28)) rq_24.size = false ∧
    rq_24.op = RemoteOp.get ∧
    (nat_lit 17592320262207 < dmNo (BitVec.toNat rq_24.addr / 2 ^ 48 % 16) (vget 0 (m0.vf rq_24.vf).dmBase (BitVec.toNat rq_24.addr / 2 ^ 48 % 16) * 32768 + BitVec.toNat rq_24.addr % 2 ^ 28) ∨ dmNo (BitVec.toNat rq_24.addr / 2 ^ 48 % 16) (vget 0 (m0.vf rq_24.vf).dmBase (BitVec.toNat rq_24.addr / 2 ^ 48 % 16) * 32768 + BitVec.toNat rq_24.addr % 2 ^ 28) + rq_24.size ≤ nat_lit 17592320262207) ∧
    rq_12.srcPkg ≠ m0.ownPkg ∧ fget [] m0.fab.replay (BitVec.toNat rq_12.addr / 2 ^ 48 % 16) = [] ∧ rq_12.retx = false ∧
    BitVec.toNat rq_12.addr / 2 ^ 48 % 16 < 12 ∧ BitVec.toNat rq_12.addr / 2 ^ 40 % 4 = 0 ∧ 0 < rq_12.size ∧
    rq_12.size ≤ 8 ∧ BitVec.toNat rq_12.addr % 2 ^ 28 % rq_12.size = 0 ∧
    BitVec.toNat rq_12.addr % 2 ^ 28 + rq_12.size ≤ vget 0 (m0.vf rq_12.vf).dmSize (BitVec.toNat rq_12.addr / 2 ^ 48 % 16) ∧
    m0.dmPoisoned (dmNo (BitVec.toNat rq_12.addr / 2 ^ 48 % 16) (vget 0 (m0.vf rq_12.vf).dmBase (BitVec.toNat rq_12.addr / 2 ^ 48 % 16) * 32768 + BitVec.toNat rq_12.addr % 2 ^ 28)) rq_12.size = false ∧
    (rq_12.op = RemoteOp.swp ∨ rq_12.op = RemoteOp.put) ∧
    (nat_lit 17592320262207 < dmNo (BitVec.toNat rq_12.addr / 2 ^ 48 % 16) (vget 0 (m0.vf rq_12.vf).dmBase (BitVec.toNat rq_12.addr / 2 ^ 48 % 16) * 32768 + BitVec.toNat rq_12.addr % 2 ^ 28) ∨ dmNo (BitVec.toNat rq_12.addr / 2 ^ 48 % 16) (vget 0 (m0.vf rq_12.vf).dmBase (BitVec.toNat rq_12.addr / 2 ^ 48 % 16) * 32768 + BitVec.toNat rq_12.addr % 2 ^ 28) + rq_12.size ≤ nat_lit 17592320262207) ∧
    rq_28.srcPkg ≠ m0.ownPkg ∧ fget [] m0.fab.replay (BitVec.toNat rq_28.addr / 2 ^ 48 % 16) = [] ∧ rq_28.retx = true ∧
    rq_28.srcPkg ≠ st_30.ownPkg ∧ st_30.migs = [] ∧ (∀ q ∈ st_30.reqs, q.kind ≠ ReqKind.lsStore) ∧
    List.find? (fun e => decide (e.pkg = rq_28.srcPkg) && decide (e.die = rq_28.srcDie) && decide (e.xid = rq_28.xid)) (fget [] st_30.fab.replay (BitVec.toNat rq_28.addr / 2 ^ 48 % 16)) = some v31_e ∧
    v31_e.kind ≠ ReplyKind.forwarded := by
  and_intros <;> decide +kernel
/-- The tables of a shadow without entries leave every link its reserve. -/
theorem witness_FabricEvents_11_fits : fwf 0 st_44.fab.shadow = true ∧ ∀ port, st_44.beadFits st_44.fab.shadow port = true := by
  refine ⟨by decide, fun port => ?_⟩
  by_cases h : 24 ≤ port
  · simp [State.beadFits, h]
  · have : st_44.lanesOf port true = 8 := by
      have l : ∀ p, p < 24 → st_44.lanesOf p true = 8 := by decide
      exact l port (by omega)
    rw [State.beadFits, this]
    simp [usedBeads, st_44]
theorem witness_FabricEvents_11 :
    st_44.fab.commit = some 100 ∧ 100 ≤ st_44.now ∧
    st_42.fab.commit = some 100 ∧ 100 ≤ st_42.now ∧ st_43.fab.commit = some 101 ∧ st_43.now < 101 := by
  and_intros <;> decide +kernel
theorem witness_FabricEvents_5 :
    st_35.fab.out = [rem RemoteOp.add 0 10000] ∧ (rem RemoteOp.add 0 10000).xid < 65536 ∧
    (rem RemoteOp.add 0 10000).sent + 20000 ≤ st_35.now ∧ (rem RemoteOp.add 0 10000).tries < 3 ∧
    (rem RemoteOp.add 0 10000).pkg ≠ st_35.ownPkg ∧ st_35.fab.pend = [] ∧ st_37.fab.pend = [] ∧
    (rem RemoteOp.add 3 10000).fwd = none ∧ (rem RemoteOp.add 3 10000).task < queueEdge 0 0 ∧ st_37.fab.out = [rem RemoteOp.add 3 10000] ∧
    (rem RemoteOp.add 3 10000).xid < 65536 ∧ (rem RemoteOp.add 3 10000).sent + 20000 ≤ st_37.now ∧
    3 ≤ (rem RemoteOp.add 3 10000).tries ∧ (rem RemoteOp.add 3 10000).task ≠ 0 ∧
    (rem RemoteOp.add 3 10000).req.op ≠ RemoteOp.endpoint ∧
    (rem RemoteOp.add 3 10000).id ≠ (rem RemoteOp.add 3 10000).acc := by
  and_intros <;> decide +kernel
theorem witness_FabricEvents_4 :
    st_32.fab.out = [rem RemoteOp.add 0 0] ∧ v33_x.die = (rem RemoteOp.add 0 0).req.srcDie ∧
    v33_x.xid = (rem RemoteOp.add 0 0).xid ∧ (rem RemoteOp.add 0 0).req.op ≠ RemoteOp.endpoint ∧
    (rem RemoteOp.add 0 0).task ≠ 0 ∧ (rem RemoteOp.add 0 0).id ≠ (rem RemoteOp.add 0 0).acc ∧
    st_32.fab.pend = [] ∧ (rem RemoteOp.add 0 0).fwd = none ∧ (rem RemoteOp.add 0 0).task < queueEdge 0 0 ∧
    st_33.fab.out = [fwd] ∧ st_33.fab.pend = [] ∧ v33_x.die = fwd.req.srcDie ∧ v33_x.xid = fwd.xid ∧ fwd.fwd = some (9, 2, 5) ∧
    9 ≠ st_33.ownPkg ∧ v33_x.kind = ReplyKind.done 9 ∧ v34_x.die = (rem RemoteOp.add 0 0).req.srcDie ∧
    v34_x.xid = (rem RemoteOp.add 0 0).xid ∧ v34_x.kind = ReplyKind.refused 17 := by
  and_intros <;> decide +kernel
theorem witness_FabricEvents_2 :
    rq_4.srcPkg ≠ st_3.ownPkg ∧ (∀ q ∈ st_3.reqs, q.kind ≠ ReqKind.lsStore) ∧ st_3.migs = [mg 1] ∧ (mg 1).vf = rq_4.vf ∧
    fget [] st_3.fab.replay (BitVec.toNat rq_4.addr / 2 ^ 48 % 16) = [] ∧ rq_4.retx = false ∧
    st_3.wordPkg (BitVec.ofNat 64 ((mg 1).dest * 2 ^ 52)) = some (((mgs 1).wordPkg (BitVec.ofNat 64 (3 * 2 ^ 52))).getD 0) ∧
    0 < (mg 1).round ∧ (mg 1).round < 3 ∧ ((mgs 1).wordPkg (BitVec.ofNat 64 (3 * 2 ^ 52))).getD 0 ≠ st_3.ownPkg ∧
    st_3.fab.out = [] ∧ st_3.fab.pend = [] ∧
    st_3.path (BitVec.toNat rq_4.addr / 2 ^ 48 % 16) (((mgs 1).wordPkg (BitVec.ofNat 64 (3 * 2 ^ 52))).getD 0) ≠ none ∧ rq_4.srcPkg ≠ st_5.ownPkg ∧ (∀ q ∈ st_5.reqs, q.kind ≠ ReqKind.lsStore) ∧
    st_5.migs = [mg 3] ∧ (mg 3).vf = rq_4.vf ∧ fget [] st_5.fab.replay (BitVec.toNat rq_4.addr / 2 ^ 48 % 16) = [] ∧
    st_5.wordPkg (BitVec.ofNat 64 ((mg 3).dest * 2 ^ 52)) = some (((mgs 3).wordPkg (BitVec.ofNat 64 (3 * 2 ^ 52))).getD 0) ∧
    (mg 3).round = 3 := by
  and_intros <;> decide +kernel
def rqS : RemoteReq := { rq .add 1 1 8 with stub := true }
def m1 : State := { m0 with vfs := [(0, { vf0 with iface := .locked })] }
theorem witness_FabricEvents_2_stub :
    rq_4.stub = false ∧ rqS.srcPkg ≠ m1.ownPkg ∧ (∀ q ∈ m1.reqs, q.kind ≠ ReqKind.lsStore) ∧ rqS.stub = true ∧
    (m1.vf rqS.vf).iface ≠ IfState.run ∧ fget [] m1.fab.replay (BitVec.toNat rqS.addr / 2 ^ 48 % 16) = [] ∧ m1.fab.held = [] ∧
    rqS.retx = false ∧ (m0.vf rqS.vf).iface = IfState.run := by
  and_intros <;> decide +kernel
/-- What a stub sent on performs when the VF is active, not before (24 R412). -/
theorem test_stub_waits :
    (m1.receive rqS).num (dmNo 1 0x40) 8 = 0xFFFFFFF011223344 ∧ ((m1.receive rqS).receive rqS).fab.held = [rqS] ∧
    (((m1.receive rqS).setVf 0 vf0).releaseStub 0).num (dmNo 1 0x40) 8 = 0xFFFFFFF011223345 := by
  and_intros <;> decide +kernel
theorem witness_FabricEvents_7 :
    st_40.fab.pkts = [] ∧ [7, 8] ≠ [] ∧ st_40.endpoint dst 0 = some ((c5 LqBind.recvEnd).fg, 1, 2) ∧
    st_40.task (c5 LqBind.recvEnd).fg.key = (c5 LqBind.recvEnd).fg ∧ 1 < 4 ∧ 2 < 8 ∧
    ((c5 LqBind.recvEnd).fg.lqAt 1 2).fifo.length + [7, 8].length ≤ 64 := by
  and_intros <;> decide +kernel
theorem witness_FabricEvents_8 :
    (c7.task 1).key = 1 ∧ 1 < 4 ∧ 2 < 8 ∧ ((c7.task 1).lqAt 1 2).bind = some (LqBind.sendCirc 9) ∧
    16 ≤ ((c7.task 1).lqAt 1 2).quiet ∧ ((c7.task 1).lqAt 1 2).fifo ≠ [] ∧ ((c7.task 1).lqAt 1 2).fifo.length < 8 ∧
    ((c7.task 1).lqAt 1 2).lost = false ∧ (∀ f ∈ c7.fab.flits, f.1 ≠ (24 + (c7.task 1).die) * 256 + 9) := by
  and_intros <;> decide +kernel
theorem witness_FabricEvents_6 :
    st_38.fab.flits = [] ∧ [7, 8] ≠ [] ∧ [7, 8].length ≤ 8 ∧
    List.find? (fun e => e.1.lqLive && decide (24 + e.1.die = 24 + 0) && decide ((e.1.lqAt e.2.1 e.2.2).bind = some (LqBind.recvCirc 9))) st_38.lqs = some ((c5 (LqBind.recvCirc 9)).fg, 1, 2) ∧
    st_38.task (c5 (LqBind.recvCirc 9)).fg.key = (c5 (LqBind.recvCirc 9)).fg ∧ 1 < 4 ∧ 2 < 8 ∧
    ((c5 (LqBind.recvCirc 9)).fg.lqAt 1 2).fifo.length + [7, 8].length ≤ 64 := by
  and_intros <;> decide +kernel
theorem witness_FabricEvents_10 :
    23 < 24 ∧ 0 < c7.lanesOf 23 true ∧ c7.fab.pend = [] := by
  and_intros <;> decide +kernel
end Remote

namespace Sched
def rdy (s : State) : State := { s with fw := { s.fw with phase := .ready } }
def pend : Task := { t1 with key := 2, state := .pending, lsSize := 1, lsBase := 0, hasLs := false, priv := false, width := 4 }
def lw : Launch := { l1 with width := 4, left := [0,1], xm := 1, dies := [0] }
def c1 : State := { rdy State.reset with pmap := { State.reset.pmap with cols := [(0,1),(1,1),(2,1),(3,1)] }, bg := [(2, pend)], vfs := [(0, vf0)], launches := [(1, lw)] }
def c1m : State := { c1 with mail := [⟨1, 0, .record 1⟩, ⟨0, 3, .record 1⟩] }
def noSeg (s : State) : State := { s with vfs := [(0, { vf0 with segBound := Vector.replicate 12 0 })] }
def c2 : State := withFg (noSeg s0) (fun t => { t with pend := [⟨9, 0, .i 3 4, 0⟩], pc := 9, hasLs := true, width := 4 })
def t2 : Task := { t1 with key := 2, idx := 1, state := .secondary, width := 4, lsBase := 8 }
def c3 : State := { withFg s0 (fun t => { t with safeNow := some 0, width := 4 }) with bg := [(2, t2)], units := [(0, { UnitSt.zero with prim := 1, sec := 2, swap := true })] }
def c4 : State := { withFg (noSeg s0) (fun t => { t with safeNow := some 0, evict := true, hasLs := true, width := 4 }) with launches := [(1, { lw with obj := { CodeObj.empty with lives := [(0, ⟨[], []⟩)] } })] }
def st_2 : State := withFg s0 (fun t => {t with ready := 1048576*2, raises := 1})
def st_3 : State := withFg s0 (fun t => {t with ready := 1048576*2-1, raises := 1})
def c6 : State := { s0 with launches := [(1, { lw with left := [], queue := 5, vf := 0 })], bars := [⟨1, true, 3, 0, 2, []⟩, ⟨2, true, 3, 0, 2, []⟩], queues := [(5, { QueueSt.zero with mapped := true, run := [⟨3, 1, 0, [], 1, 0⟩, ⟨4, 1, 0, [], 2, 0⟩] })] }
def c7 (d : Nat) : State := { s0 with launches := [(1, { lw with deadline := some d })], cycle := 46 }
def st_5 : State := c7 16
def st_6 : State := c7 17
def st_7 : State := withFg s0 (fun t => {t with wrapLeft := some 0, expired := true})
theorem witness_SchedulerEvents :
    c1m.fw.down = [] ∧ c1m.fw.phase = Phase.ready ∧ (∀ x ∈ c1m.tasks, x.die = pend.die → x.exiting = false) ∧
    c1m.mail = [⟨1, 0, .record 1⟩, ⟨0, 3, .record 1⟩] ∧
    (let told : State := { c1m with mail := c1m.mail.filter (fun m => decide (m.die ≠ pend.die)) }
     c1m.tasks.filter (fun x => decide (x.die = pend.die) && told.readyOut x) = [pend]) ∧ c1m.task pend.key = pend ∧
    c1m.site pend = some ((c1.site pend).get!.1, (c1.site pend).get!.2.1, (c1.site pend).get!.2.2) ∧
    ((c4.writeBack 1).task 1).divDue = false ∧ 0 ∉ c6.fw.down ∧ c6.qcbDie 0 5 ∉ c6.fw.down ∧
    c1.fw.down = [] ∧ c1.fw.phase = Phase.ready ∧
    List.filter (fun x => decide (x.die = pend.die) && c1.readyOut x) c1.tasks = [pend] ∧ c1.task pend.key = pend ∧
    pend.state = TaskState.pending ∧
    c1.site pend = some ((c1.site pend).get!.1, (c1.site pend).get!.2.1, (c1.site pend).get!.2.2) ∧ (c4.task 1).key = 1 ∧
    1 ≠ 0 ∧ (c4.task 1).safeNow = some 0 ∧ (c4.task 1).evict = true ∧ (c4.task 1).resident = true ∧ (c4.task 1).idle = 0 ∧
    (c4.task 1).evictable = true ∧ (c4.task 1).waiting = false ∧ (c4.task 1).stop = StopState.run ∧
    (c4.writeBack 1).quiet ((c4.writeBack 1).task 1) = true ∧ (c4.writeBack 1).lsWaiting 1 = false ∧
    (c4.writeBack 1).frozen (coreOf ((c4.writeBack 1).task 1).unit) = false ∧
    ((c4.writeBack 1).task 1).lateLanding = false ∧ (c4.unit (c4.task 1).unit).prim ≠ (c4.unit (c4.task 1).unit).sec ∧
    (c3.unit 0).prim = 1 ∧ (c3.unit 0).sec = 2 ∧ 2 ≠ 0 ∧ 1 ≠ 2 ∧ (c3.unit 0).swap = true ∧ (c3.task 1).key = 1 ∧
    (c3.task 2).key = 2 ∧ (c3.task 1).safeNow ≠ none ∧ (c3.task 1).idle = 0 ∧ (c3.task 1).evict = false ∧
    (c2.task 1).key = 1 ∧ (c2.task 1).resident = true ∧ (c2.task 1).stop = StopState.run ∧
    (c2.writeBack 1).stopWaits ((c2.writeBack 1).task 1) false = false ∧
    (c2.unit (c2.task 1).unit).prim ≠ (c2.unit (c2.task 1).unit).sec ∧ (fget Launch.zero c6.launches 1).live = true ∧
    (fget Launch.zero c6.launches 1).left = [] ∧ (fget Launch.zero st_6.launches 1).live = true ∧
    (fget Launch.zero st_6.launches 1).expired = false ∧ (fget Launch.zero st_6.launches 1).deadline = some 17 ∧
    st_6.now / 8 * 8 < 17 ∧ (st_2.task 1).key = 1 ∧ 1048576 * ((st_2.task 1).raises + 1) ≤ (st_2.task 1).ready ∧
    (st_3.task 1).key = 1 ∧ (st_3.task 1).ready < 1048576 * ((st_3.task 1).raises + 1) ∧
    (fget Launch.zero st_5.launches 1).live = true ∧ (fget Launch.zero st_5.launches 1).expired = false ∧
    (fget Launch.zero st_5.launches 1).deadline = some 16 ∧ 16 ≤ st_5.now / 8 * 8 ∧ (st_7.task 1).key = 1 ∧
    (st_7.task 1).alive = true ∧ (st_7.task 1).wrapLeft = some 0 ∧ (st_7.task 1).expired = true ∧
    (st_7.task 1).exiting = false ∧ st_7.keptAway (st_7.task 1) = false := by
  and_intros <;> decide +kernel
end Sched

namespace Front
def ringA : Nat := 0x8000
def qcbA (q : Nat) : Nat := hbmNo 0 (0x4000 + 64 * q)
def mkQ (s : State) (q : Nat) (en : Bool) (ring log2n read write st err : Nat) : State :=
  let s := put8 s (qcbA q) (en.toNat * 2^63 + log2n * 2^44 + ring)
  let s := put8 s (qcbA q + 8) read
  let s := put8 s (qcbA q + 16) write
  put8 s (qcbA q + 24) (st * 256 + err)
def pkt (s : State) (n : Nat) (p : List Nat) : State :=
  (List.zip (List.range 8) p).foldl (fun s e => put8 s (hbmNo 0 (ringA + 64 * n + 8 * e.1)) e.2) s
def rd (s : State) : State := { s with fw := { s.fw with phase := .ready }, pmap := { s.pmap with cols := [(0,1),(1,1),(2,1),(3,1)] } }
def Q (x : QueueSt) (s : State) : State := { s with queues := [(5, x)] }
def mq : QueueSt := { QueueSt.zero with mapped := true }
def q0 := rd s0
def qc (en : Bool) (log2n read write st : Nat) : Qcb := ⟨en, ringA, log2n, read, write, st, 0⟩
def d1 (en : Bool) (log2n read write st : Nat) : State := Q mq (mkQ q0 5 en ringA log2n read write st 0)
def st_1 : State := d1 false 4 1 2 1
def st_2 : State := d1 true 4 1 2 1
def c2 : State := { d1 true 4 1 1 1 with cycle := 20000 }
def hd (p : List Nat) : State := pkt (d1 true 4 1 2 1) 1 p
def st_4 : State := hd [0,0,0,0,0,0,0,0]
def st_5 : State := hd [6,0,0,0,0,0,0,0]
def pl := [1,0,0x9000,0,0,0,0,0]
def dw : List Nat := [0x40, 1, 1*2^61 + 2^46 + 4*2^34, 1000, 0, 0, 0x40, 0x80, 0,0,0,0,0,0,0,0]
def ob : CodeObj := { CodeObj.empty with hxldOk := true, text := [[[0,0,0,0,0,0]],[[0,0,0,0,0,0]],[[0,0,0,0,0,0]],[[0,0,0,0,0,0]]] }
def cl : State := (List.zip (List.range 16) dw).foldl (fun s e => put8 s (hbmNo 0 (0x9000 + 8 * e.1)) e.2) (hd pl)
def p2 := [2,0,0,0,0,0,0,0]
def st_7 : State := hd p2
def p3 := [3,0,2^39 + 0x40,7,0,0,0,0]
def st_8 : State := hd p3
def p4 := [4,0,0x100,0x200,128,0,0,0]
def st_9 : State := hd p4
def p5 := [5,0,0x1000,0x200,2,0,0,0]
def st_10 : State := hd p5
def k4 : Pkt := ⟨0, 4, 0, [0x100,0x200,192], 0, 64⟩
def c4 : State := { q0 with queues := [(5, { QueueSt.zero with run := [k4] })] }
def kA (vals : List Nat) : Pkt := ⟨0, 2, 0, [0x100, 2^39+0x40, 0,0,0] ++ vals, 0, 0⟩
def c5 (vals : List Nat) : State := { q0 with queues := [(5, { QueueSt.zero with run := [kA vals] })] }
def st_11 : State := c5 [0,0,0,0,0]
def st_12 : State := c5 [1,0,0,0,0]
def c6 : State := { rd s0 with queues := [], cycle := 20 }
def vft : VfSt := { vf0 with depth := 50, rate := 3, level := 10000000 }
def st_13 : State := { withFg c6 (fun t => {t with stop := .front}) with vfs := [(0,vft)] }
def st_14 : State := { withFg s0 (fun t => {t with stop := .front}) with vfs := [(0,vft)] }
def st_15 : State := { s0 with vfs := [(0,vft)] }
def st_16 : State := withFg c6 (fun t => {t with stop := .front})
def sess (s : State) : State := { s with fw := { s.fw with sess := [⟨7, none⟩] } }
def st_17 : State := d1 true 4 1 3 2
def st_18 : State := sess (d1 true 4 1 3 2)
def inErr (s : State) : State := { s with vfs := [(0, { vf0 with iface := .error })] }
def st_20 : State := inErr (sess (d1 true 4 1 3 1))
def td : State := put8 (put8 (put8 (put8 q0 (hbmNo 0 (0x10000+96)) 7) (hbmNo 0 (0x10000+104)) 3) (hbmNo 0 (0x10000+112)) (2^63)) (hbmNo 0 (0x10000+120)) 0x3000
def tdc : State := { td with ports := [(1, { PortSt.zero with tile := [⟨0,3,1,5⟩] })] }
def dOk (s : State) : DescE := match s.readDesc 0 3 with | .ok d => d | _ => ⟨0,0,#v[0,0,0,0]⟩
theorem witness_FrontEndEvents_3 :
    5 < 64 ∧ (cl.vf 0).qcbBase % 2 ^ 40 < 2 ^ 39 ∧ cl.qcb 0 5 = some (qc true 4 1 2 1) ∧ lget 0 pl 1 = 0 ∧
    cl.head 0 5 = Head.packet (qc true 4 1 2 1) pl ∧ lget 0 pl 0 % 256 = 1 ∧ cl.packetBad 0 pl = false ∧
    (cl.lnumFor 0 5).isSome = true ∧
    (Claims.started cl 0 5 (qc true 4 1 2 1)).vfRead 0 (lget 0 pl 2 % 2 ^ 44) 128 = some (((Claims.started cl 0 5 (qc true 4 1 2 1)).vfRead 0 36864 128).getD []) ∧
    (Claims.started cl 0 5 (qc true 4 1 2 1)).launchOk 0 (List.map (dword (((Claims.started cl 0 5 (qc true 4 1 2 1)).vfRead 0 36864 128).getD [])) (List.range 16)) ob = true ∧
    (st_4.vf 0).qcbBase % 2 ^ 40 < 2 ^ 39 ∧ st_4.qcb 0 5 = some (qc true 4 1 2 1) ∧ lget 0 [0, 0, 0, 0, 0, 0, 0, 0] 1 = 0 ∧
    st_4.head 0 5 = Head.packet (qc true 4 1 2 1) [0, 0, 0, 0, 0, 0, 0, 0] ∧ lget 0 [0, 0, 0, 0, 0, 0, 0, 0] 0 % 256 = 0 ∧ st_4.packetBad 0 [0, 0, 0, 0, 0, 0, 0, 0] = false ∧
    (st_5.vf 0).qcbBase % 2 ^ 40 < 2 ^ 39 ∧ st_5.qcb 0 5 = some (qc true 4 1 2 1) ∧ lget 0 [6, 0, 0, 0, 0, 0, 0, 0] 1 = 0 ∧
    st_5.head 0 5 = Head.packet (qc true 4 1 2 1) [6, 0, 0, 0, 0, 0, 0, 0] ∧ 5 < lget 0 [6, 0, 0, 0, 0, 0, 0, 0] 0 % 256 ∧
    (qc true 4 1 2 1).write = ((qc true 4 1 2 1).read + 1) % 2 ^ 32 ∧ (∀ e ∈ st_5.queues, e.2.want = false) ∧
    (st_7.vf 0).qcbBase % 2 ^ 40 < 2 ^ 39 ∧ st_7.qcb 0 5 = some (qc true 4 1 2 1) ∧ lget 0 p2 1 = 0 ∧
    st_7.head 0 5 = Head.packet (qc true 4 1 2 1) p2 ∧ lget 0 p2 0 % 256 = 2 ∧ st_7.packetBad 0 p2 = false ∧
    List.take 5 (List.drop 2 p2) = [0, 0, 0, 0, 0] ∧ (st_7.queue 0 5).run = [] ∧ (st_9.vf 0).qcbBase % 2 ^ 40 < 2 ^ 39 ∧
    st_9.qcb 0 5 = some (qc true 4 1 2 1) ∧ lget 0 p4 1 = 0 ∧
    st_9.head 0 5 = Head.packet (qc true 4 1 2 1) p4 ∧ lget 0 p4 0 % 256 = 4 ∧ st_9.packetBad 0 p4 = false ∧
    (st_9.queue 0 5).run = [] ∧ (st_8.vf 0).qcbBase % 2 ^ 40 < 2 ^ 39 ∧ st_8.qcb 0 5 = some (qc true 4 1 2 1) ∧
    lget 0 p3 1 = 0 ∧
    st_8.head 0 5 = Head.packet (qc true 4 1 2 1) p3 ∧ lget 0 p3 0 % 256 = 3 ∧ st_8.packetBad 0 p3 = false ∧
    (st_8.queue 0 5).run = [] ∧ st_8.sigAt (lget 0 p3 2) = SigAt.dm 0 64 ∧ 0 < 12 ∧ 64 + 8 ≤ vget 0 (st_8.vf 0).dmSize 0 ∧
    (∀ x ∈ st_8.tasks, x.sleep = none) ∧ lget 0 p3 3 < 2 ^ 64 ∧ (st_10.vf 0).qcbBase % 2 ^ 40 < 2 ^ 39 ∧
    st_10.qcb 0 5 = some (qc true 4 1 2 1) ∧ lget 0 p5 1 = 0 ∧
    st_10.head 0 5 = Head.packet (qc true 4 1 2 1) p5 ∧ lget 0 p5 0 % 256 = 5 ∧ st_10.packetBad 0 p5 = false ∧
    (Claims.started st_10 0 5 (qc true 4 1 2 1)).vfRead 0 (lget 0 p5 3) (16 * lget 0 p5 4) = some (((Claims.started (hd p5) 0 5 (qc true 4 1 2 1)).vfRead 0 512 32).getD []) := by
  and_intros <;> decide +kernel
theorem witness_FrontEndEvents_8 :
    5 < 64 ∧ (st_18.vf 0).qcbBase % 2 ^ 40 < 2 ^ 39 ∧ st_18.qcb 0 5 = some (qc true 4 1 3 2) ∧
    st_18.authorised 7 0 = true ∧ (st_18.vf 0).iface ≠ IfState.error ∧ 0 ∉ st_18.fw.down ∧ (st_18.queue 0 5).run = [] ∧
    (qc true 4 1 3 2).st = 2 ∧ (qc true 4 1 3 2).en = true ∧ (qc true 4 1 3 2).st ≠ 3 ∧
    (∀ e ∈ st_18.queues, e.2.want = false) ∧ (st_20.vf 0).qcbBase % 2 ^ 40 < 2 ^ 39 ∧
    st_20.qcb 0 5 = some (qc true 4 1 3 1) ∧ (st_20.vf 0).iface = IfState.error ∧ st_20.authorised 7 0 = true ∧
    (st_17.vf 0).qcbBase % 2 ^ 40 < 2 ^ 39 ∧ st_17.qcb 0 5 = some (qc true 4 1 3 2) ∧ st_17.authorised 7 0 = false := by
  and_intros <;> decide +kernel
theorem witness_FrontEndEvents_1 :
    st_2.fw.phase = Phase.ready ∧ st_2.fw.down = [] ∧ (st_2.vf 0).iface ≠ IfState.error ∧ (st_2.vf 0).rst = 0 ∧
    (st_2.vf 0).valid = true ∧ 5 < 64 ∧ (st_2.vf 0).qcbBase % 2 ^ 40 < 2 ^ 39 ∧ st_2.qcb 0 5 = some (qc true 4 1 2 1) ∧
    (qc true 4 1 2 1).en = true ∧ 4 ≤ (qc true 4 1 2 1).log2n ∧ (qc true 4 1 2 1).st < 2 ∧
    (BitVec.toNat (17 : Lane) + 2 ^ 32 - (qc true 4 1 2 1).write) % 2 ^ 32 < 2 ^ 31 ∧
    (BitVec.toNat (17 : Lane) + 2 ^ 32 - (qc true 4 1 2 1).read) % 2 ^ 32 ≤ 2 ^ (qc true 4 1 2 1).log2n ∧
    (st_2.queue 0 5).mapped = true ∧ BitVec.toNat (17 : Lane) ≠ (qc true 4 1 2 1).read ∧ st_1.fw.phase = Phase.ready ∧
    st_1.fw.down = [] ∧ (st_1.vf 0).iface ≠ IfState.error ∧ (st_1.vf 0).rst = 0 ∧ (st_1.vf 0).valid = true ∧
    (st_1.vf 0).qcbBase % 2 ^ 40 < 2 ^ 39 ∧ st_1.qcb 0 5 = some (qc false 4 1 2 1) ∧ (qc false 4 1 2 1).en = false ∧
    (qc true 4 1 2 1).st ≠ 3 ∧ 2 ^ 31 ≤ (BitVec.toNat (1 : Lane) + 2 ^ 32 - (qc true 4 1 2 1).write) % 2 ^ 32 := by
  and_intros <;> decide +kernel
theorem witness_FrontEndEvents_5 :
    st_13.feUp = true ∧ st_13.queues = [] ∧ (∀ x ∈ st_13.tasks, x.doom = false) ∧ st_13.fg.stop = StopState.front ∧
    st_13.fg.die < 12 ∧ st_13.vfs = [(0, vft)] ∧ vft.valid = true ∧
    (0 : Int) < max (-((vft.depth : Int) * 1000000)) (min ((vft.depth : Int) * 1000000) (vft.level + ↑(st_13.now - st_13.fw.tick) * (vft.rate : Int) - ↑((st_13.now - st_13.fw.tick) * 1000 * st_13.unitCost 0))) ∧
    st_14.feUp = false := by
  and_intros <;> decide +kernel
theorem witness_FrontEndEvents_4 :
    (st_12.queue 0 5).run = [kA [1, 0, 0, 0, 0]] ∧ (kA [1, 0, 0, 0, 0]).ty = 2 ∧ (kA [1, 0, 0, 0, 0]).sig = 0 ∧
    (∀ v ∈ List.map (st_12.sigSeen 0) ((List.take 5 (kA [1, 0, 0, 0, 0]).ops).zip (List.drop 5 (kA [1, 0, 0, 0, 0]).ops)), ∀ (x : ℤ), v = some x → 0 ≤ x) ∧
    (∃ v ∈ List.map (st_12.sigSeen 0) ((List.take 5 (kA [1, 0, 0, 0, 0]).ops).zip (List.drop 5 (kA [1, 0, 0, 0, 0]).ops)), v ≠ some 0) ∧
    (st_11.queue 0 5).run = [kA [0, 0, 0, 0, 0]] ∧ (kA [0, 0, 0, 0, 0]).ty = 2 ∧ (kA [0, 0, 0, 0, 0]).sig = 0 ∧
    (∀ v ∈ List.map (st_11.sigSeen 0) ((List.take 5 (kA [0, 0, 0, 0, 0]).ops).zip (List.drop 5 (kA [0, 0, 0, 0, 0]).ops)), v = some 0) ∧
    (c4.queue 0 5).run = [k4] ∧ k4.ty = 4 ∧ (c4.queue 0 5).mapped = false ∧ k4.done + 64 < lget 0 k4.ops 2 ∧
    c4.vfRead 0 (lget 0 k4.ops 0 + k4.done) 64 = some ((c4.vfRead 0 320 64).getD []) ∧
    (c4.vfWrite 0 (lget 0 k4.ops 1 + k4.done) ((c4.vfRead 0 320 64).getD [])).isSome = true := by
  and_intros <;> decide +kernel
def qn (s : State) : State := { s with queues := [(5, { QueueSt.zero with mapped := false })] }
def far (s : State) : State := put8 s (qcbA 5) (2^63 + 4 * 2^44 + 2^40 + ringA)
def p0 := [0, 2^39 + 0x40, 0, 0, 0, 0, 0, 0]
def pH := [3, 0, 0x400, 9, 0, 0, 0, 0]
def kS : Pkt := ⟨0, 2, 2^39 + 0x40, [0, 0, 0, 0, 0, 0, 0, 0, 0, 0], 0, 0⟩
def st_21 : State := qn (d1 true 4 1 2 1)
def st_22 : State := qn (far (d1 true 4 1 2 1))
def st_23 : State := Q mq (d1 true 4 1 1 1)
def st_24 : State := hd p0
def st_25 : State := { sess (d1 true 4 1 1 1) with queues := [(5, { mq with run := [kS] })] }
def st_26 : State := hd pH
def st_28 : State := { mkQ q0 5 true ringA 4 1 1 1 0 with queues := [(5, { QueueSt.zero with run := [kA [2 ^ 64 - 1, 0, 0, 0, 0]] })] }
def kC : Pkt := ⟨0, 4, 0, [0x100, 0x200, 128], 0, 64⟩
def st_29 : State := { q0 with queues := [(5, { QueueSt.zero with run := [kC] })] }
def st_30 : State := { sess (d1 true 4 1 3 2) with queues := [(5, { QueueSt.zero with run := [kC] })] }
theorem witness_FrontEndEvents_1_slot :
    st_21.qcb 0 5 = some (qc true 4 1 2 1) ∧ (st_21.queue 0 5).mapped = false ∧ (st_21.queue 0 5).want = false ∧
    (∀ m, m ∈ st_21.mail → m.what ≠ .askSlot 0 5) ∧ (qc true 4 1 2 1).ring / 2 ^ 40 % 16 = 0 ∧ st_21.fw.phase = Phase.ready ∧
    st_22.qcb 0 5 = some { qc true 4 1 2 1 with ring := 2 ^ 40 + ringA } ∧ (2 ^ 40 + ringA) / 2 ^ 40 % 16 = 1 ∧
    (st_22.queue 0 5).mapped = false ∧ st_22.mail = [] ∧ st_23.qcb 0 5 = some (qc true 4 1 1 1) ∧
    2 ^ 4 < (BitVec.toNat (40 : Lane) + 2 ^ 32 - 1) % 2 ^ 32 ∧ (∀ e ∈ st_23.queues, e.2.want = false) := by
  and_intros <;> decide +kernel
theorem witness_FrontEndEvents_3_signal :
    st_26.head 0 5 = Head.packet (qc true 4 1 2 1) pH ∧ st_26.packetBad 0 pH = false ∧ st_26.sigAt 0x400 = .hbm 0x400 ∧
    ((Claims.started st_26 0 5 (qc true 4 1 2 1)).vfWrite 0 0x400 (bytesOf 8 9)).isSome = true ∧
    st_24.head 0 5 = Head.packet (qc true 4 1 2 1) p0 ∧ st_24.packetBad 0 p0 = false ∧ st_24.sigAt (lget 0 p0 1) = .dm 0 0x40 ∧
    (∀ x ∈ st_24.tasks, x.sleep = none) ∧ st_25.qcb 0 5 = some (qc true 4 1 1 1) ∧ (st_25.queue 0 5).run = [kS] ∧
    st_25.sigAt kS.sig = .dm 0 0x40 ∧ st_25.authorised 7 0 = true ∧ (st_25.vf 0).iface ≠ IfState.error ∧
    (∀ e ∈ st_25.queues, e.2.want = false) ∧ st_25.fab.out ++ st_25.fab.pend = [] ∧ 0x40 + 8 ≤ vget 0 (st_25.vf 0).dmSize 0 := by
  and_intros <;> decide +kernel
theorem witness_FrontEndEvents_4_ends :
    (st_28.queue 0 5).run = [kA [2 ^ 64 - 1, 0, 0, 0, 0]] ∧ st_28.qcb 0 5 = some (qc true 4 1 1 1) ∧ st_28.copied 0 = false ∧
    some (-1) ∈ List.map (st_28.sigSeen 0) ((List.take 5 (kA [2 ^ 64 - 1, 0, 0, 0, 0]).ops).zip (List.drop 5 (kA [2 ^ 64 - 1, 0, 0, 0, 0]).ops)) ∧
    (∀ e ∈ st_28.queues, e.2.want = false) ∧ (st_29.queue 0 5).run = [kC] ∧ lget 0 kC.ops 2 ≤ kC.done + 64 ∧
    (st_29.vfRead 0 (0x100 + 64) 64).isSome = true ∧ (st_29.vfWrite 0 (0x200 + 64) ((st_29.vfRead 0 320 64).getD [])).isSome = true ∧
    st_30.qcb 0 5 = some (qc true 4 1 3 2) ∧ (st_30.queue 0 5).run ≠ [] ∧ st_30.authorised 7 0 = true := by
  and_intros <;> decide +kernel
theorem witness_FrontEndEvents_4_copied :
    st_12.copied 0 = false ∧ ({ st_12 with migs := [⟨0, 0, 1, 0, 2, (0, 0), 0⟩] } : State).copied 0 = true ∧
    (∀ o, o ∈ st_18.fab.out ++ st_18.fab.pend → o.task ≠ queueEdge 0 5) := by
  and_intros <;> decide +kernel
theorem witness_FrontEndEvents_9 :
    tdc.fw.phase = Phase.ready ∧ (tdc.vf 0).iface ≠ IfState.error ∧ 0 ∉ tdc.fw.down ∧ tdc.readDesc 0 3 = DescRes.ok (dOk tdc) ∧
    (tdc.vfWrite 0 ((dOk tdc).base + 8 * 1) (bytesOf 8 (BitVec.toNat (85 : Word)))).isSome = true := by
  and_intros <;> decide +kernel
theorem witness_FrontEndEvents_2 :
    5 < 64 ∧ (c2.vf 0).qcbBase % 2 ^ 40 < 2 ^ 39 ∧ c2.qcb 0 5 = some (qc true 4 1 1 1) ∧ (c2.queue 0 5).mapped = true ∧
    (c2.queue 0 5).run = [] ∧ (qc true 4 1 1 1).read = (qc true 4 1 1 1).write ∧ (c2.queue 0 5).since + 10000 ≤ c2.now ∧
    (∀ e ∈ c2.queues, e.2.want = false) := by
  and_intros <;> decide +kernel
theorem witness_FrontEndEvents_6 :
    (st_15.vf 0).dry = false ∧ 0 < (st_15.vf 0).level ∧ (s0.vf 0).dry = false ∧ (s0.vf 0).level ≤ 0 := by
  and_intros <;> decide +kernel
theorem witness_FrontEndEvents_7 :
    (st_16.task 1).key = 1 ∧ (st_16.task 1).stop = StopState.front := by
  and_intros <;> decide +kernel
end Front

namespace Tenant
def rd (s : State) : State := { s with fw := { s.fw with phase := .ready, sess := [⟨7, none⟩, ⟨8, some 3⟩] } }
def q0 := rd s0
def vfi (i : IfState) (s : State := q0) : State := { s with vfs := [(0, { vf0 with iface := i, lockBy := some 7 })] }
def ws (dmw : Nat := 0) : List Word := ([2^63 + 5*2^56 + 2^53 + 0x4000, 2^44*16 + 0x10000, 5*2^32 + 3, 2^32*4+2, 8, 0,0,0] ++ List.replicate 24 0 ++ [dmw] ++ List.replicate 11 0).map (BitVec.ofNat 64)
def noVf : State := { q0 with vfs := [] }
def st_1 : State := vfi .run
def st_2 : State := vfi .locked
def noL (s : State) : State := { s with launches := [] }
def pts (s : State) : State := { s with ports := [(3, { PortSt.zero with tile := [⟨0,3,1,5⟩, ⟨1,3,1,5⟩] })] }
def st_3 : State := pts (noL (vfi .unlocked))
def st_4 : State := pts (noL (vfi .locked))
def td : State := put8 (put8 (put8 (put8 (put8 (vfi .run) (hbmNo 0 (0x10000+96)) 7) (hbmNo 0 (0x10000+104)) 3) (hbmNo 0 (0x10000+112)) (2^63)) (hbmNo 0 (0x10000+120)) 0x3000) (hbmNo 0 0x3000) (2^63+2^62+2^60+8)
def dOk (s : State) : DescE := match s.readDesc 0 3 with | .ok d => d | _ => ⟨0,0,#v[0,0,0,0]⟩
def eOf : Nat := (td.vfNum 0 ((dOk td).base) 8).get!
def mv (b : Bool) (tag : Nat) : TileMove := { sess := 7, peer := 1, vf := 0, tid := 3, coords := [2,0,0,0], send := b, nonce := 3, tag := tag, data := [1,2,3] }
/-- The session slots from a number on, all held by the same session. -/
def held (a : Nat) : Nat → List (Nat × Nat)
  | 0 => []
  | n + 1 => (a, 900) :: held (a + 1) n
theorem held_get : ∀ n a k, a ≤ k → k < a + n → fget 0 (held a n) k = 900
  | 0, _, _, h, h' => absurd h' (by omega)
  | n + 1, a, k, h, h' => by
    unfold held fget
    by_cases e : k = a
    · simp [e]
    · simp [e, held_get n (a + 1) k (by omega) (by omega)]
theorem held_other : ∀ n a e, e ∈ held a n → e.2 = 900
  | 0, _, _, h => by simp [held] at h
  | n + 1, a, e, h => by
    rcases List.mem_cons.1 h with rfl | h
    · rfl
    · exact held_other n (a + 1) e h
def full : State := { vfi .run with fw := { (vfi .run).fw with keys := held 1024 1024 } }
theorem full_slot (k : Nat) (h : k < 1024) : fget 0 full.fw.keys (1024 + k) = 900 := held_get 1024 1024 _ (by omega) (by omega)
theorem full_refuses : full.placeKey 7 = none := by
  have h : full.fw.keys.any (fun e => decide (e.2 = 7 + 1)) = false :=
    List.any_eq_false.2 fun e m => by simp [held_other 1024 1024 e m]
  unfold State.placeKey
  rw [h, List.find?_eq_none.2 fun k m => by simp [full_slot k (List.mem_range.1 m)]]
  rfl
def m0 (r : Nat) : Mig := ⟨5, 0, 1, 7, r, (0,0), 0⟩
def ms (r : Nat) : State := { vfi .run with migs := [m0 r] }
def st_8 : State := ms 0
def st_9 : State := ms 2
def st_10 : State := ms 3
def xin : MigIn := ({ vfi .run with queues := [(5, { QueueSt.zero with run := [⟨0, 2, 0, [0,0,0,0,0,0,0,0,0,0], 0, 0⟩] })] } : State).migOf 0
def xbig : MigIn := { xin with clasp := [(0, List.replicate 1025 ⟨.obj, 0, 0, 0⟩)] }
theorem witness_TenantEvents_1 :
    0 < 1024 ∧ 1024 ≤ 1024 ∧
    noVf.authorised 7 0 = true ∧ (noVf.vf 0).iface = IfState.unlocked ∧ (noVf.vf 0).rst = 0 ∧
    (noVf.recordBad 0 fun k => BitVec.toNat (lget (0 : Word) ws k)) = [] ∧ noVf.authorised 9 0 = false ∧
    st_1.authorised 7 0 = true ∧ ((st_1.vf 0).iface = IfState.locked ∨ (st_1.vf 0).iface = IfState.run) ∧
    (noVf.recordBad 0 fun k => BitVec.toNat (lget (0 : Word) (ws (2 ^ 32 * 8)) k)) = [(256, 2)] := by
  and_intros <;> decide +kernel
theorem witness_TenantEvents_3 :
    st_1.authorised 8 0 = false ∧ (st_1.vf 0).rst = 0 := by
  and_intros <;> decide +kernel
theorem witness_TenantEvents_2 :
    st_4.authorised 7 0 = true ∧ (st_4.vf 0).rst = 0 ∧ (st_4.vf 0).iface = IfState.locked ∧ st_4.migs = [] ∧
    st_4.liveOf 0 = [] ∧ (∀ q < 64, (match st_4.qcb 0 q with | some c => c.en | none => false) = false) ∧
    ((st_4.vf 0).iface = IfState.locked ∨ (st_4.vf 0).iface = IfState.run) ∧ st_3.authorised 7 0 = true ∧
    (st_3.vf 0).rst = 0 ∧ (st_3.vf 0).iface = IfState.unlocked ∧ st_3.migs = [] ∧ st_3.liveOf 0 = [] ∧
    (∀ q < 64, (match st_3.qcb 0 q with | some c => c.en | none => false) = false) := by
  and_intros <;> decide +kernel
theorem witness_TenantEvents_11 :
    st_8.migs = [m0 0] ∧ (m0 0).round = 0 ∧ st_8.fg.resident = true ∧ st_8.fg.vf = (m0 0).vf ∧ st_8.fg.evictable = true ∧
    st_9.migs = [m0 2] ∧ (m0 2).round = 2 ∧ st_10.migs = [m0 3] ∧ (m0 3).round = 3 := by
  and_intros <;> decide +kernel
def fwdO : Remote :=
  { Remote.mk' 1 ⟨0, 0, 7, false, 0, .get, BitVec.ofNat 64 0x40, 8, 0, 0, 0, [], none, true⟩ 0 0 0 0 0 true with fwd := some (9, 2, 5) }
def st_12 : State := { ms 1 with fab := { (ms 1).fab with out := [fwdO] } }
theorem witness_TenantEvents_11_stub :
    st_10.fab.pend = [] ∧ (∀ o, o ∈ st_10.fab.out → o.fwd = none) ∧ st_12.migs = [m0 1] ∧ (m0 1).round < 3 ∧ st_12.fab.pend = [] ∧
    st_12.fab.out = [fwdO] ∧ fwdO.fwd = some (9, 2, 5) ∧ fwdO.req.vf = (m0 1).vf ∧ 9 ≠ st_12.ownPkg ∧ fwdO.req.op = RemoteOp.get ∧
    fwdO.req.size = 8 ∧ BitVec.toNat fwdO.req.addr / 2 ^ 40 % 4 = 0 ∧ BitVec.toNat fwdO.req.addr / 2 ^ 48 % 16 = 0 ∧
    BitVec.toNat fwdO.req.addr % 2 ^ 28 % 8 = 0 ∧ BitVec.toNat fwdO.req.addr % 2 ^ 28 + 8 ≤ vget 0 (st_12.vf 0).dmSize 0 ∧
    st_12.dmPoisoned (dmNo 0 0x40) 8 = false := by
  and_intros <;> decide +kernel
/-- A VF with 256 bytes of DM on die 0, and nothing in HBM. -/
def small : VfSt := { vf0 with dmSize := Vector.ofFn (fun d => if d.val = 0 then 256 else 0), pclSize := Vector.replicate 12 0, segBound := Vector.replicate 12 0 }
/-- A destination whose VF has its DM and its counters elsewhere. -/
def dst : State := { s0 with bg := [], launches := [], vfs := [(0, { small with iface := .locked, dmBase := Vector.replicate 12 2, tkBase := 8 })] }
/-- A VF whose only task sleeps on a DM word, with 7 in another word. -/
def src : State :=
  withFg (put8 { s0 with vfs := [(0, small)] } (dmNo 0 0x80) 7) (fun t => { t with state := .evicted, hasLs := false, sleep := some ⟨.word 0 (dmNo 0 0x40), 9, none, 0, 0, none, none⟩ })
/-- A moved task sleeps on its VF's word here, its monitor armed again, and DM has its bytes (25 R421). -/
theorem test_moved_sleeper :
    (dst.takeMig (src.migOf 0)).num (dmNo 0 0x10080) 8 = 7 ∧
    ((dst.takeMig (src.migOf 0)).task (dst.nid + 1)).sleep.map (·.obj) = some (.word 0 (dmNo 0 0x10040)) ∧
    (fvals (dst.takeMig (src.migOf 0)).monitors) = [[dst.nid + 1]] ∧
    .monitorWake (dst.nid + 1) ∈ (dst.takeMig (src.migOf 0)).agenda := by
  and_intros <;> decide +kernel
theorem witness_TenantEvents_4 :
    st_1.migs = [] ∧ (0, st_1.vf 0) ∈ st_1.vfs ∧ ((st_1.vf 0).iface = IfState.locked ∨ (st_1.vf 0).iface = IfState.run) ∧
    (st_1.vf 0).lockBy = some 7 := by
  and_intros <;> decide +kernel
theorem witness_TenantEvents_10 :
    st_1.migs = [] ∧ st_1.authorised 7 0 = true ∧ (st_1.vf 0).iface = IfState.run ∧ (st_1.placeKey 7).isSome = true := by
  and_intros <;> decide +kernel
theorem witness_TenantEvents_9 :
    full.authorised (mv true 0).sess (mv true 0).vf = true ∧
    ((full.vf (mv true 0).vf).iface = IfState.locked ∨ (full.vf (mv true 0).vf).iface = IfState.run) ∧
    full.placeKey (mv true 0).sess = none :=
  ⟨by decide +kernel, by decide +kernel, full_refuses⟩
theorem witness_TenantEvents_7 :
    td.authorised (mv true 0).sess (mv true 0).vf = true ∧
    ((td.vf (mv true 0).vf).iface = IfState.locked ∨ (td.vf (mv true 0).vf).iface = IfState.run) ∧
    (td.placeKey (mv true 0).sess).isSome = true ∧ td.readDesc (mv true 0).vf (mv true 0).tid = DescRes.ok (dOk td) ∧
    (dOk td).inside (lget 0 (mv true 0).coords) = true ∧
    td.vfNum (mv true 0).vf ((dOk td).base + 8 * (dOk td).tileNo (lget 0 (mv true 0).coords)) 8 = some eOf ∧
    tePresent eOf = true ∧ (mv true 0).send = true ∧ (td.tileFrames (mv true 0).vf (dOk td) eOf).isSome = true ∧
    teDirty eOf = true := by
  and_intros <;> decide +kernel
theorem witness_TenantEvents_8 :
    (∀ e ∈ full.fw.keys, e.2 ≠ 6 + 1) ∧ (∀ k < 1024, fget 0 full.fw.keys (1024 + k) ≠ 0) :=
  ⟨fun e m => by simp [held_other 1024 1024 e m], fun k h => by simp [full_slot k h]⟩
theorem witness_TenantEvents_8_free :
    (∀ e ∈ st_2.fw.keys, e.2 ≠ 7 + 1) ∧ 0 < 1024 ∧ fget 0 st_2.fw.keys (1024 + 0) = 0 := by
  and_intros <;> decide +kernel
theorem witness_TenantEvents_6 :
    st_2.fw.phase ≠ Phase.recovery ∧ (∀ x ∈ st_2.fw.sess, x.num ≠ 9) := by
  and_intros <;> decide +kernel
theorem witness_TenantEvents_12 :
    (let s : State := { st_2 with launches := [] }
     s.authorised 7 xin.vf = true ∧ (s.vf xin.vf).iface = IfState.locked ∧ s.migFits xin = true) ∧
    st_2.authorised 7 xbig.vf = true ∧ (st_2.vf xbig.vf).iface = IfState.locked ∧ st_2.migFits xbig = false := by
  and_intros <;> decide +kernel
end Tenant

namespace Pkg
def rd (s : State) : State := { s with fw := { s.fw with phase := .ready, sess := [⟨7, none⟩] } }
def q0 : State := { rd s0 with vfs := [(0, { vf0 with dbgOk := true })] }
def db (st : StopState) (f : Task → Task := id) : State := withFg q0 (fun t => f { t with stop := st, width := 4 })
def p1 : Pend := ⟨3, 0, .i 3 4, 0⟩
def p2 : Pend := ⟨4, 0, .v 3 4, 0⟩
def two : Task → Task := fun t => { t with pend := [p1, p2], work := ⟨[p1, p2], []⟩ }
def st_2 : State := db .debug
def st_4 : State := db .run two
def dpg : State := db .debug (fun t => { t with pages := [4] })
def ph (p : Phase) : State := { q0 with fw := { q0.fw with phase := p } }
def st_5 : State := ph .off
def st_6 : State := ph .recovery
def tl (n : Nat) : State := { q0 with cycle := n*2, fw := { q0.fw with locked := true, synced := 10 } }
def st_7 : State := tl 1000000010
def st_8 : State := tl 1000000009
def ft (l : List (Nat × Nat × FatalWhy)) (down : List Nat) : State := { q0 with fw := { q0.fw with fatal := l, down := down } }
def st_9 : State := ft [] []
def st_10 : State := ft [(5,2,.critical)] [0,1,2,3,4,5,6,7,8,9,10,11]
def st_11 : State := { ft [(5,2,.critical)] [0,1,2,3,4,5,6,7,8,9,10,11] with cycle := 20000010 }
def st_12 : State := { ft [(5,2,.critical)] [0,1,2,3,4,5,6,7,8,9,10,11] with cycle := 20000008 }
def st_13 : State := ph .stopped
def fx := ft [(5,2,.critical)] []
theorem witness_DebugEvents :
    (st_2.task 1).key = 1 ∧ (st_2.task 1).alive = true ∧ st_2.authorised 7 (st_2.task 1).vf = true ∧
    ((st_2.vf (st_2.task 1).vf).iface = IfState.unlocked ∨ ((st_2.vf (st_2.task 1).vf).iface = IfState.locked ∨ (st_2.vf (st_2.task 1).vf).iface = IfState.run) ∧ (st_2.vf (st_2.task 1).vf).dbgOk = true) ∧
    (st_2.task 1).stop = StopState.debug ∧ (st_2.task 1).resident = true ∧ (st_2.task 1).pages = [] ∧ 3 < 4 ∧ 15 < 56 ∧
    15 < 32 ∧ 15 < 16 ∧ (st_4.task 1).key = 1 ∧ (st_4.task 1).alive = true ∧ st_4.authorised 7 (st_4.task 1).vf = true ∧
    ((st_4.vf (st_4.task 1).vf).iface = IfState.unlocked ∨ ((st_4.vf (st_4.task 1).vf).iface = IfState.locked ∨ (st_4.vf (st_4.task 1).vf).iface = IfState.run) ∧ (st_4.vf (st_4.task 1).vf).dbgOk = true) ∧
    (st_4.task 1).stop ≠ StopState.debug ∧ (st_4.task 1).dbgSel = 0 ∧ (st_4.task 1).work.pend = [p1, p2] ∧ p1.col = 0 ∧
    p1.w.dest.1 < 8 ∧ p1 ∉ [p2] ∧ (dpg.task 1).key = 1 ∧ (dpg.task 1).alive = true ∧
    dpg.authorised 7 (dpg.task 1).vf = true ∧
    ((dpg.vf (dpg.task 1).vf).iface = IfState.unlocked ∨ ((dpg.vf (dpg.task 1).vf).iface = IfState.locked ∨ (dpg.vf (dpg.task 1).vf).iface = IfState.run) ∧ (dpg.vf (dpg.task 1).vf).dbgOk = true) ∧
    (dpg.task 1).stop = StopState.debug ∧ (dpg.task 1).pages ≠ [] ∧ (BitVec.ofNat 1024 (2 ^ 1023 + 2)).getLsbD 0 = false ∧
    (BitVec.ofNat 1024 (2 ^ 1023 + 2)).getLsbD 4 = false ∧ 0 < 4 ∧ 55 < 56 := by
  and_intros <;> decide +kernel
theorem witness_PackageEvents_4 :
    2 ∉ q0.fw.down ∧ q0.fw.phase ≠ Phase.off ∧ q0.fw.phase ≠ Phase.recovery ∧ [(35, 9)] = [(35, 9)] ∧ 35 < 36 ∧ 3 ≠ 35 ∧
    (∃ x ∈ [110], 95 ≤ x) ∧ (false = true ∨ ∃ x ∈ [110], 110 ≤ x) ∧ false = false ∧ (∀ x ∈ [94], x < 95) := by
  and_intros <;> decide +kernel
theorem witness_PackageEvents_8 :
    st_13.packageWide 7 = true ∧ st_13.fw.phase = Phase.stopped ∧ (0, st_13.vf 0) ∈ st_13.vfs ∧ q0.packageWide 7 = true ∧
    q0.fw.phase ≠ Phase.stopped := by
  and_intros <;> decide +kernel
theorem witness_PackageEvents_2 :
    q0.fw.phase = Phase.ready ∧ q0.fw.locked = false ∧ (-50 : Int) < ↑(q0.now + 49) - ↑q0.now ∧
    ↑(q0.now + 49) - (↑q0.now : Int) < 50 ∧
    (↑(q0.now + 50) - (↑q0.now : Int) ≤ -50 ∨ 50 ≤ ↑(q0.now + 50) - (↑q0.now : Int)) := by
  and_intros <;> decide +kernel
theorem witness_PackageEvents_6 :
    st_9.fw.dumped = false ∧ st_9.fw.fatal = [] ∧ st_10.fw.dumped = false ∧
    (∃ e ∈ st_10.fw.fatal, e.2 = (2, FatalWhy.critical)) ∧ st_10.pairs = [] ∧ fx.fw.dumped = false ∧
    (∃ e ∈ fx.fw.fatal, e.2 = (2, FatalWhy.critical)) ∧ fx.pairs.head? = some 0 := by
  and_intros <;> decide +kernel
theorem witness_PackageEvents_1 :
    st_5.fw.phase = Phase.off ∧ st_5.fw.phase ≠ Phase.recovery ∧ st_6.fw.phase = Phase.recovery := by
  and_intros <;> decide +kernel
theorem witness_PackageEvents_3 :
    st_7.fw.locked = true ∧ st_7.fw.synced + 1000000000 ≤ st_7.now ∧ st_8.fw.locked = true ∧
    st_8.now < st_8.fw.synced + 1000000000 := by
  and_intros <;> decide +kernel
theorem witness_PackageEvents_7 :
    st_11.fw.dumped = false ∧ st_11.fw.fatal = [(5, 2, FatalWhy.critical)] ∧ st_11.pairs = [] ∧
    (5, 2, FatalWhy.critical).1 + 10000000 ≤ st_11.now ∧ st_12.fw.dumped = false ∧
    st_12.fw.fatal = [(5, 2, FatalWhy.critical)] ∧ st_12.pairs = [] ∧
    st_12.now < (5, 2, FatalWhy.critical).1 + 10000000 := by
  and_intros <;> decide +kernel
theorem witness_PackageEvents_5 :
    q0.packageWide 7 = true ∧ q0.packageWide 8 = false := by
  and_intros <;> decide +kernel
/-- An image without failed dies, with the package inside its extents and with it outside and a ticket counter past the
last die, and one with a failed die. -/
def im (bad : List Nat) (x : Nat) (ticks : List (Nat × Nat × Nat)) : BootImage :=
  { bytes := [1, 2], sig := 5, badDies := bad, tai := 77, extents := (2, 3, 4), coord := (x, 1, 1), parts := [], owner := 3,
    tickets := ticks, beads := [], circs := [], lanes := [], splits := [], mailbox := (0, 0), slots := [], front := [] }
theorem witness_PackageEvents_1_image : (im [] 1 []).badDies = [] ∧ 2 ∈ (im [2] 1 []).badDies ∧
    (1 ≤ (im [] 1 []).extents.1 ∧ (im [] 1 []).coord.1 < (im [] 1 []).extents.1) ∧
    ¬ (im [] 5 []).coord.1 < (im [] 5 []).extents.1 ∧ (∃ p ∈ (im [] 1 [(12, 0, 1)]).tickets, 12 ≤ p.1) := by
  and_intros <;> decide +kernel
end Pkg

namespace Wait
def w1 : State := put8 (seti (seti s0 4 0x40) 5 9) (dm 0x40) 9
def w2 : State := put8 (seti (seti s0 4 0x40) 5 8) (dm 0x40) 9
def w3 : State := seti w2 6 100
def w6 := withFg w3 (fun t => {t with expired := true})
def w7 := withFg w3 (fun t => {t with dmSize := 0x47})
def w4 : State := {w3 with clasp := [(0, List.replicate 1024 ⟨.obj, 0, 0, 5⟩)]}
def w5 : State := {w3 with clasp := [(0, [⟨.hold, objWord 1 0 0x40, 0, 1⟩])]}
def wfull : State := {w3 with monitors := [(1, (List.range 16).map (· + 2))]}
theorem witness_ValueWaits :
    0 < 12 ∧ 64 < 2 ^ 27 ∧ (fget [] w3.monitors (0 * 512 + 64 / 64 % 512)).length < 16 ∧
    16 ≤ (fget [] wfull.monitors (0 * 512 + 64 / 64 % 512)).length ∧ w7.guard 0 = true ∧
    w7.fg.dmSize < BitVec.toNat (w7.takeI (4 : RegF)).1 % 2 ^ 28 / 8 * 8 + 8 ∧ w1.guard 0 = true ∧
    BitVec.toNat (w1.takeI (4 : RegF)).1 % 2 ^ 28 / 8 * 8 + 8 ≤ w1.fg.dmSize ∧
    Claims.condition (BitVec.toNat (w1.takeI (4 : RegF)).1 / 2 ^ 60 % 8) (BitVec.ofNat 64 (w1.num (dmNo w1.fg.die (vget 0 (w1.vf w1.fg.vf).dmBase w1.fg.die * 32768 + BitVec.toNat (w1.takeI (4 : RegF)).1 % 2 ^ 28 / 8 * 8)) 8)) ((w1.takeI (4 : RegF)).2.takeI (5 : RegF)).1 = true ∧
    w6.guard 0 = true ∧ BitVec.toNat (w6.takeI (4 : RegF)).1 % 2 ^ 28 / 8 * 8 + 8 ≤ w6.fg.dmSize ∧
    ¬Claims.condition (BitVec.toNat (w6.takeI (4 : RegF)).1 / 2 ^ 60 % 8) (BitVec.ofNat 64 (w6.num (dmNo w6.fg.die (vget 0 (w6.vf w6.fg.vf).dmBase w6.fg.die * 32768 + BitVec.toNat (w6.takeI (4 : RegF)).1 % 2 ^ 28 / 8 * 8)) 8)) ((w6.takeI (4 : RegF)).2.takeI (5 : RegF)).1 = true ∧
    w6.fg.expired = true ∧ w2.guard 0 = true ∧ BitVec.toNat (w2.takeI (4 : RegF)).1 % 2 ^ 28 / 8 * 8 + 8 ≤ w2.fg.dmSize ∧
    ¬Claims.condition (BitVec.toNat (w2.takeI (4 : RegF)).1 / 2 ^ 60 % 8) (BitVec.ofNat 64 (w2.num (dmNo w2.fg.die (vget 0 (w2.vf w2.fg.vf).dmBase w2.fg.die * 32768 + BitVec.toNat (w2.takeI (4 : RegF)).1 % 2 ^ 28 / 8 * 8)) 8)) ((w2.takeI (4 : RegF)).2.takeI (5 : RegF)).1 = true ∧
    w2.fg.expired = false ∧ BitVec.toNat (((w2.takeI (4 : RegF)).2.takeI (5 : RegF)).2.takeI (6 : RegF)).1 ≤ w2.now ∧
    fits (((w2.takeI (4 : RegF)).2.takeI (5 : RegF)).2.claspInsert (objWord 1 w2.fg.die (BitVec.toNat (w2.takeI (4 : RegF)).1 % 2 ^ 28 / 8 * 8)) none) = true ∧
    w5.guard 0 = true ∧ BitVec.toNat (w5.takeI (4 : RegF)).1 % 2 ^ 28 / 8 * 8 + 8 ≤ w5.fg.dmSize ∧
    ¬Claims.condition (BitVec.toNat (w5.takeI (4 : RegF)).1 / 2 ^ 60 % 8) (BitVec.ofNat 64 (w5.num (dmNo w5.fg.die (vget 0 (w5.vf w5.fg.vf).dmBase w5.fg.die * 32768 + BitVec.toNat (w5.takeI (4 : RegF)).1 % 2 ^ 28 / 8 * 8)) 8)) ((w5.takeI (4 : RegF)).2.takeI (5 : RegF)).1 = true ∧
    w5.fg.expired = false ∧
    closes (((w5.takeI (4 : RegF)).2.takeI (5 : RegF)).2.claspInsert (objWord 1 w5.fg.die (BitVec.toNat (w5.takeI (4 : RegF)).1 % 2 ^ 28 / 8 * 8)) none) = true ∧
    w4.guard 0 = true ∧ BitVec.toNat (w4.takeI (4 : RegF)).1 % 2 ^ 28 / 8 * 8 + 8 ≤ w4.fg.dmSize ∧
    ¬Claims.condition (BitVec.toNat (w4.takeI (4 : RegF)).1 / 2 ^ 60 % 8) (BitVec.ofNat 64 (w4.num (dmNo w4.fg.die (vget 0 (w4.vf w4.fg.vf).dmBase w4.fg.die * 32768 + BitVec.toNat (w4.takeI (4 : RegF)).1 % 2 ^ 28 / 8 * 8)) 8)) ((w4.takeI (4 : RegF)).2.takeI (5 : RegF)).1 = true ∧
    w4.fg.expired = false ∧
    overfull (((w4.takeI (4 : RegF)).2.takeI (5 : RegF)).2.claspInsert (objWord 1 w4.fg.die (BitVec.toNat (w4.takeI (4 : RegF)).1 % 2 ^ 28 / 8 * 8)) none) = true ∧
    w3.guard 0 = true ∧ BitVec.toNat (w3.takeI (4 : RegF)).1 % 2 ^ 28 / 8 * 8 + 8 ≤ w3.fg.dmSize ∧
    ¬Claims.condition (BitVec.toNat (w3.takeI (4 : RegF)).1 / 2 ^ 60 % 8) (BitVec.ofNat 64 (w3.num (dmNo w3.fg.die (vget 0 (w3.vf w3.fg.vf).dmBase w3.fg.die * 32768 + BitVec.toNat (w3.takeI (4 : RegF)).1 % 2 ^ 28 / 8 * 8)) 8)) ((w3.takeI (4 : RegF)).2.takeI (5 : RegF)).1 = true ∧
    w3.fg.expired = false ∧
    fits (((w3.takeI (4 : RegF)).2.takeI (5 : RegF)).2.claspInsert (objWord 1 w3.fg.die (BitVec.toNat (w3.takeI (4 : RegF)).1 % 2 ^ 28 / 8 * 8)) none) = true ∧
    w3.now < BitVec.toNat (((w3.takeI (4 : RegF)).2.takeI (5 : RegF)).2.takeI (6 : RegF)).1 ∧
    fits ((((w3.takeI (4 : RegF)).2.takeI (5 : RegF)).2.takeI (6 : RegF)).2.claspInsert (objWord 1 w3.fg.die (BitVec.toNat (w3.takeI (4 : RegF)).1 % 2 ^ 28 / 8 * 8)) none) = true := by
  and_intros <;> decide +kernel
end Wait

namespace Hold
def o0 : Word := objWord 0 0 0x40
def k0 : State := { seti s0 4 0x44 with clasp := [(0, [⟨.obj, o0, 0, 0⟩])] }   -- free lock
def k1 : State := put8 k0 (dm 0x40) 0x77   -- own
def k2 : State := put8 k0 (dm 0x40) 0x99   -- other
def k3 := withFg k2 (fun t => {t with expired := true})
def k4 := withFg k0 (fun t => {t with dmSize := 0x47})
def k5 : State := { k1 with clasp := [(0, [⟨.obj, o0, 0, 0⟩, ⟨.hold, o0, 0, 1⟩])] }
def k6 := withFg k5 (fun t => {t with accs := [⟨3, 0, true, false, .dm 0, 0, 8, [], []⟩]})
def k7 : State := { k0 with clasp := [] }
def q0 : State := { seti (seti s0 4 2) 5 7 with tickets := [(2, ⟨9, 7, []⟩)] }
def q1 : State := seti q0 5 9
def q2 := withFg q1 (fun t => {t with expired := true})
def q5 : State := seti q0 4 (0x40 + 2^60)
def q6 := withFg q5 (fun t => {t with dmSize := 0x47})
def q7 : State := { q5 with clasp := [(0, [⟨.hold, objWord 1 0 0x40, 0, 1⟩])] }
def q8 : State := seti q0 4 (2^61)
def ed (s : State) (step : Bool) (sc : Nat) : State := if s.fg.first then s else
  let b := s.openBar s.fg step sc
  match (s.metBar b).claspInsert (s.barWord b (b.seq s.fg)) none with | .ok t => t | .dead t => t | .full t => t
def b0 := withFg s0 (fun t => {t with first := true})
def t2 : Task := { t1 with key := 2, idx := 1, unit := 4, state := .primary }
def b1 : State := { b0 with bg := [(2, t2)], launches := [(1, {l1 with left := [0,1], xm := 1})] }
def b2 := withFg b1 (fun t => {t with expired := true, first := false})
def b5 := withFg b1 (fun t => {t with first := false})
def v0 : State := { seti s0 4 0 with launches := [(1, {l1 with deadline := some 77, budget := 9, cls := 2, vmap := 0x1000})] }
def v1 : State := seti v0 4 1
def v2 := withFg v0 (fun t => {t with accs := [⟨3, 0, true, false, .dm 0, 0, 8, [], []⟩]})
def t2s : Task := { t2 with sleep := some ⟨.lock 0 (dm 0x40), 0, none, 0, 5, none, none⟩ }
def b7 : State := { b5 with bg := [(2, t2s)], clasp := [(0, [⟨.obj, o0, 0, 0⟩, ⟨.hold, o0, 0, 1⟩, ⟨.wait, o0, 0, 2⟩])] }
theorem witness_Locks :
    k0.guard 0 = true ∧ BitVec.toNat (k0.takeI (4 : RegF)).1 % 2 ^ 28 / 8 * 8 + 8 ≤ k0.fg.dmSize ∧
    k0.lockThere k0.fg.vf k0.fg.die (BitVec.toNat (k0.takeI (4 : RegF)).1 % 2 ^ 28 / 8 * 8) = true ∧
    k0.num (dmNo k0.fg.die (vget 0 (k0.vf k0.fg.vf).dmBase k0.fg.die * 32768 + BitVec.toNat (k0.takeI (4 : RegF)).1 % 2 ^ 28 / 8 * 8)) 8 = 0 ∧
    (k0.claspOf k0.fg.die).length < 1024 ∧
    k0.num (dmNo k0.fg.die (vget 0 (k0.vf k0.fg.vf).dmBase k0.fg.die * 32768 + BitVec.toNat (k0.takeI (4 : RegF)).1 % 2 ^ 28 / 8 * 8)) 8 ≠ BitVec.toNat k0.fg.taskId ∧
    k1.guard 0 = true ∧ BitVec.toNat (k1.takeI (4 : RegF)).1 % 2 ^ 28 / 8 * 8 + 8 ≤ k1.fg.dmSize ∧
    k1.lockThere k1.fg.vf k1.fg.die (BitVec.toNat (k1.takeI (4 : RegF)).1 % 2 ^ 28 / 8 * 8) = true ∧
    k1.num (dmNo k1.fg.die (vget 0 (k1.vf k1.fg.vf).dmBase k1.fg.die * 32768 + BitVec.toNat (k1.takeI (4 : RegF)).1 % 2 ^ 28 / 8 * 8)) 8 ≠ 0 ∧
    k1.num (dmNo k1.fg.die (vget 0 (k1.vf k1.fg.vf).dmBase k1.fg.die * 32768 + BitVec.toNat (k1.takeI (4 : RegF)).1 % 2 ^ 28 / 8 * 8)) 8 = BitVec.toNat k1.fg.taskId ∧
    k1.pastAccs = [] ∧
    k1.lockSleepers k1.fg.vf k1.fg.die (dmNo k1.fg.die (vget 0 (k1.vf k1.fg.vf).dmBase k1.fg.die * 32768 + BitVec.toNat (k1.takeI (4 : RegF)).1 % 2 ^ 28 / 8 * 8)) = [] ∧
    k4.guard 0 = true ∧ k4.fg.dmSize < BitVec.toNat (k4.takeI (4 : RegF)).1 % 2 ^ 28 / 8 * 8 + 8 ∧ k7.guard 0 = true ∧
    BitVec.toNat (k7.takeI (4 : RegF)).1 % 2 ^ 28 / 8 * 8 + 8 ≤ k7.fg.dmSize ∧
    k7.lockThere k7.fg.vf k7.fg.die (BitVec.toNat (k7.takeI (4 : RegF)).1 % 2 ^ 28 / 8 * 8) = false ∧ k6.guard 0 = true ∧
    BitVec.toNat (k6.takeI (4 : RegF)).1 % 2 ^ 28 / 8 * 8 + 8 ≤ k6.fg.dmSize ∧
    k6.lockThere k6.fg.vf k6.fg.die (BitVec.toNat (k6.takeI (4 : RegF)).1 % 2 ^ 28 / 8 * 8) = true ∧
    k6.num (dmNo k6.fg.die (vget 0 (k6.vf k6.fg.vf).dmBase k6.fg.die * 32768 + BitVec.toNat (k6.takeI (4 : RegF)).1 % 2 ^ 28 / 8 * 8)) 8 ≠ 0 ∧
    k6.num (dmNo k6.fg.die (vget 0 (k6.vf k6.fg.vf).dmBase k6.fg.die * 32768 + BitVec.toNat (k6.takeI (4 : RegF)).1 % 2 ^ 28 / 8 * 8)) 8 = BitVec.toNat k6.fg.taskId ∧
    k6.pastAccs ≠ [] ∧ k3.guard 0 = true ∧ BitVec.toNat (k3.takeI (4 : RegF)).1 % 2 ^ 28 / 8 * 8 + 8 ≤ k3.fg.dmSize ∧
    k3.lockThere k3.fg.vf k3.fg.die (BitVec.toNat (k3.takeI (4 : RegF)).1 % 2 ^ 28 / 8 * 8) = true ∧
    k3.num (dmNo k3.fg.die (vget 0 (k3.vf k3.fg.vf).dmBase k3.fg.die * 32768 + BitVec.toNat (k3.takeI (4 : RegF)).1 % 2 ^ 28 / 8 * 8)) 8 ≠ 0 ∧
    k3.num (dmNo k3.fg.die (vget 0 (k3.vf k3.fg.vf).dmBase k3.fg.die * 32768 + BitVec.toNat (k3.takeI (4 : RegF)).1 % 2 ^ 28 / 8 * 8)) 8 ≠ BitVec.toNat k3.fg.taskId ∧
    k3.fg.expired = true ∧ k2.guard 0 = true ∧ BitVec.toNat (k2.takeI (4 : RegF)).1 % 2 ^ 28 / 8 * 8 + 8 ≤ k2.fg.dmSize ∧
    k2.lockThere k2.fg.vf k2.fg.die (BitVec.toNat (k2.takeI (4 : RegF)).1 % 2 ^ 28 / 8 * 8) = true ∧
    k2.num (dmNo k2.fg.die (vget 0 (k2.vf k2.fg.vf).dmBase k2.fg.die * 32768 + BitVec.toNat (k2.takeI (4 : RegF)).1 % 2 ^ 28 / 8 * 8)) 8 ≠ 0 ∧
    k2.num (dmNo k2.fg.die (vget 0 (k2.vf k2.fg.vf).dmBase k2.fg.die * 32768 + BitVec.toNat (k2.takeI (4 : RegF)).1 % 2 ^ 28 / 8 * 8)) 8 ≠ BitVec.toNat k2.fg.taskId ∧
    k2.fg.expired = false ∧
    fits ((k2.takeI (4 : RegF)).2.claspInsert (objWord 0 k2.fg.die (BitVec.toNat (k2.takeI (4 : RegF)).1 % 2 ^ 28 / 8 * 8)) none) = true := by
  and_intros <;> decide +kernel
theorem witness_TicketsAndRegistration :
    q7.guard 0 = true ∧ (q7.vf q7.fg.vf).tkCount ≤ BitVec.toNat (q7.takeI (4 : RegF)).1 % 2048 ∧
    BitVec.toNat (q7.takeI (4 : RegF)).1 / 2 ^ 60 ≤ 1 ∧
    BitVec.toNat (q7.takeI (4 : RegF)).1 % 2 ^ 28 / 8 * 8 + 8 ≤ q7.fg.dmSize ∧ (q7.claspOf q7.fg.die).length + 2 ≤ 1024 ∧
    BitVec.toNat (q7.takeI (4 : RegF)).1 / 2 ^ 60 = 1 ∧
    { sort := ClaspSort.hold, obj := objWord (BitVec.toNat (q7.takeI (4 : RegF)).1 / 2 ^ 60) q7.fg.die (BitVec.toNat (q7.takeI (4 : RegF)).1 % 2 ^ 28 / 8 * 8), vf := q7.fg.vf, task := q7.fg.key } ∈ q7.claspOf q7.fg.die ∧
    q8.guard 0 = true ∧ BitVec.toNat (q8.takeI (4 : RegF)).1 % 2048 < (q8.vf q8.fg.vf).tkCount ∧
    (q8.ticket q8.fg.die ((q8.vf q8.fg.vf).tkBase + BitVec.toNat (q8.takeI (4 : RegF)).1 % 2048)).serving < 2 ^ 32 ∧
    (¬((BitVec.toNat ((q8.takeI (4 : RegF)).2.takeI (5 : RegF)).1 % 2 ^ 32 + (2 ^ 32 - (q8.ticket q8.fg.die ((q8.vf q8.fg.vf).tkBase + BitVec.toNat (q8.takeI (4 : RegF)).1 % 2048)).serving)) % 2 ^ 32 = 0 ∨ 2 ^ 31 ≤ (BitVec.toNat ((q8.takeI (4 : RegF)).2.takeI (5 : RegF)).1 % 2 ^ 32 + (2 ^ 32 - (q8.ticket q8.fg.die ((q8.vf q8.fg.vf).tkBase + BitVec.toNat (q8.takeI (4 : RegF)).1 % 2048)).serving)) % 2 ^ 32)) ∧
    q8.fg.expired = false ∧
    (q8.ticket q8.fg.die ((q8.vf q8.fg.vf).tkBase + BitVec.toNat (q8.takeI (4 : RegF)).1 % 2048)).taker = none ∧
    fits (((q8.takeI (4 : RegF)).2.takeI (5 : RegF)).2.claspInsert (objWord 2 q8.fg.die ((q8.vf q8.fg.vf).tkBase + BitVec.toNat (q8.takeI (4 : RegF)).1 % 2048)) none) = true ∧
    2 ≤ BitVec.toNat (q8.takeI (4 : RegF)).1 / 2 ^ 60 ∧ q6.guard 0 = true ∧
    (q6.vf q6.fg.vf).tkCount ≤ BitVec.toNat (q6.takeI (4 : RegF)).1 % 2048 ∧
    BitVec.toNat (q6.takeI (4 : RegF)).1 / 2 ^ 60 ≤ 1 ∧
    q6.fg.dmSize < BitVec.toNat (q6.takeI (4 : RegF)).1 % 2 ^ 28 / 8 * 8 + 8 ∧ q0.guard 0 = true ∧
    BitVec.toNat (q0.takeI (4 : RegF)).1 % 2048 < (q0.vf q0.fg.vf).tkCount ∧
    (q0.ticket q0.fg.die ((q0.vf q0.fg.vf).tkBase + BitVec.toNat (q0.takeI (4 : RegF)).1 % 2048)).serving < 2 ^ 32 ∧
    ((BitVec.toNat ((q0.takeI (4 : RegF)).2.takeI (5 : RegF)).1 % 2 ^ 32 + (2 ^ 32 - (q0.ticket q0.fg.die ((q0.vf q0.fg.vf).tkBase + BitVec.toNat (q0.takeI (4 : RegF)).1 % 2048)).serving)) % 2 ^ 32 = 0 ∨ 2 ^ 31 ≤ (BitVec.toNat ((q0.takeI (4 : RegF)).2.takeI (5 : RegF)).1 % 2 ^ 32 + (2 ^ 32 - (q0.ticket q0.fg.die ((q0.vf q0.fg.vf).tkBase + BitVec.toNat (q0.takeI (4 : RegF)).1 % 2048)).serving)) % 2 ^ 32) ∧
    BitVec.toNat (q0.takeI (4 : RegF)).1 / 2 ^ 60 ≤ 1 ∧
    BitVec.toNat (q0.takeI (4 : RegF)).1 % 2 ^ 28 / 8 * 8 + 8 ≤ q0.fg.dmSize ∧ (q0.claspOf q0.fg.die).length + 2 ≤ 1024 ∧
    BitVec.toNat (q0.takeI (4 : RegF)).1 / 2 ^ 60 = 0 ∧
    q0.lockThere q0.fg.vf q0.fg.die (BitVec.toNat (q0.takeI (4 : RegF)).1 % 2 ^ 28 / 8 * 8) = false ∧ q2.guard 0 = true ∧
    BitVec.toNat (q2.takeI (4 : RegF)).1 % 2048 < (q2.vf q2.fg.vf).tkCount ∧
    (q2.ticket q2.fg.die ((q2.vf q2.fg.vf).tkBase + BitVec.toNat (q2.takeI (4 : RegF)).1 % 2048)).serving < 2 ^ 32 ∧
    (¬((BitVec.toNat ((q2.takeI (4 : RegF)).2.takeI (5 : RegF)).1 % 2 ^ 32 + (2 ^ 32 - (q2.ticket q2.fg.die ((q2.vf q2.fg.vf).tkBase + BitVec.toNat (q2.takeI (4 : RegF)).1 % 2048)).serving)) % 2 ^ 32 = 0 ∨ 2 ^ 31 ≤ (BitVec.toNat ((q2.takeI (4 : RegF)).2.takeI (5 : RegF)).1 % 2 ^ 32 + (2 ^ 32 - (q2.ticket q2.fg.die ((q2.vf q2.fg.vf).tkBase + BitVec.toNat (q2.takeI (4 : RegF)).1 % 2048)).serving)) % 2 ^ 32)) ∧
    q2.fg.expired = true ∧ BitVec.toNat (q2.takeI (4 : RegF)).1 / 2 ^ 60 ≤ 1 ∧
    BitVec.toNat (q2.takeI (4 : RegF)).1 % 2 ^ 28 / 8 * 8 + 8 ≤ q2.fg.dmSize ∧ (q2.claspOf q2.fg.die).length + 2 ≤ 1024 ∧
    BitVec.toNat (q2.takeI (4 : RegF)).1 / 2 ^ 60 = 0 ∧
    q2.lockThere q2.fg.vf q2.fg.die (BitVec.toNat (q2.takeI (4 : RegF)).1 % 2 ^ 28 / 8 * 8) = false := by
  and_intros <;> decide +kernel
theorem witness_Barriers :
    b1.guard 0 = true ∧
    (true = false → cappedScope (b1.vf b1.fg.vf).scopeCap (BitVec.toNat (3 : BitVec 3)) = BitVec.toNat (3 : BitVec 3)) ∧
    (∀ x ∈ b1.pastAccs, b1.fg.homeIn (BitVec.toNat (3 : BitVec 3)) x.home = false) ∧
    (true = true → b1.putsOut b1.fg = false) ∧ b1.fg.expired = false ∧ b1.fg.first = true ∧ ed b1 true 3 = b1 ∧
    ((ed b1 true 3).arriveBar (ed b1 true 3).fg (b1.openBar b1.fg true (BitVec.toNat (3 : BitVec 3)))).1 = false ∧
    b0.guard 0 = true ∧
    (true = false → cappedScope (b0.vf b0.fg.vf).scopeCap (BitVec.toNat (3 : BitVec 3)) = BitVec.toNat (3 : BitVec 3)) ∧
    (∀ x ∈ b0.pastAccs, b0.fg.homeIn (BitVec.toNat (3 : BitVec 3)) x.home = false) ∧
    (true = true → b0.putsOut b0.fg = false) ∧ b0.fg.expired = false ∧ b0.fg.first = true ∧ ed b0 true 3 = b0 ∧
    ((ed b0 true 3).arriveBar (ed b0 true 3).fg (b0.openBar b0.fg true (BitVec.toNat (3 : BitVec 3)))).1 = true ∧
    b2.guard 0 = true ∧
    (true = false → cappedScope (b2.vf b2.fg.vf).scopeCap (BitVec.toNat (3 : BitVec 3)) = BitVec.toNat (3 : BitVec 3)) ∧
    (∀ x ∈ b2.pastAccs, b2.fg.homeIn (BitVec.toNat (3 : BitVec 3)) x.home = false) ∧
    (true = true → b2.putsOut b2.fg = false) ∧ b2.fg.expired = true ∧ b7.guard 0 = true ∧
    (true = false → cappedScope (b7.vf b7.fg.vf).scopeCap (BitVec.toNat (3 : BitVec 3)) = BitVec.toNat (3 : BitVec 3)) ∧
    (∀ x ∈ b7.pastAccs, b7.fg.homeIn (BitVec.toNat (3 : BitVec 3)) x.home = false) ∧
    (true = true → b7.putsOut b7.fg = false) ∧ b7.fg.first = false ∧ b7.fg.expired = false ∧
    closes ((b7.metBar (b7.openBar b7.fg true (BitVec.toNat (3 : BitVec 3)))).claspInsert (b7.barWord (b7.openBar b7.fg true (BitVec.toNat (3 : BitVec 3))) ((b7.openBar b7.fg true (BitVec.toNat (3 : BitVec 3))).seq b7.fg)) none) = true := by
  and_intros <;> decide +kernel
theorem witness_SchedulerWords :
    v0.guard 0 = true ∧
    BitVec.toNat (v0.takeI (4 : RegF)).1 < ((v0.launchOf v0.fg).xm + 1) * ((v0.launchOf v0.fg).ym + 1) * ((v0.launchOf v0.fg).zm + 1) ∧
    v0.pastAccs = [] ∧
    (v0.vfNum (v0.launchOf v0.fg).vf ((v0.launchOf v0.fg).vmap + 8 * (BitVec.toNat (v0.takeI (4 : RegF)).1 / 32)) 8).isSome = true ∧
    v1.guard 0 = true ∧
    ((v1.launchOf v1.fg).xm + 1) * ((v1.launchOf v1.fg).ym + 1) * ((v1.launchOf v1.fg).zm + 1) ≤ BitVec.toNat (v1.takeI (4 : RegF)).1 ∧
    v2.guard 0 = true ∧
    BitVec.toNat (v2.takeI (4 : RegF)).1 < ((v2.launchOf v2.fg).xm + 1) * ((v2.launchOf v2.fg).ym + 1) * ((v2.launchOf v2.fg).zm + 1) ∧
    v2.pastAccs ≠ [] := by
  and_intros <;> decide +kernel
end Hold

namespace Access
def ag (c0 c1 : BitVec 16) (tid : BitVec 16 := 0) : Ag := ⟨tid, false, #v[c0, c1, 0, 0], #v[8,0,0,0]⟩
def setag (s : State) (n : Nat) (x : Ag) : State := s.setBank { s.bank with ag := vset s.bank.ag n x }
def sz (n : Nat) : State := { seti (setag s0 2 (ag (BitVec.ofNat 16 n) (BitVec.ofNat 16 (n/65536)) 3)) 3 0x1122334455667788 with mem := [] }
def a1 := put8 (sz 0x48) (lsNo 0 0x48) 0xdeadbeef
def a2 := sz 0x4000
def a3 := withFg a2 (fun t => {t with lsCtl := 2})
def a4 := withFg a2 (fun t => {t with lsCtl := 4})
def a5 := withFg a2 (fun t => {t with lsCtl := 4, lsSize := 3})
def a5b := withFg (sz 0x3000) (fun t => {t with lsCtl := 4, lsSize := 3})
def a6 : State := { a1 with lsOwn := [(0, 0x80)] }
def a7 : State := { a1 with lsPois := [(0, true)] }
def a8 := sz 0x49
def a17 : State := { a5 with lsOwn := [(0, 0x80)] }
def lacc (st : Bool) (n : Nat) : Acc := ⟨3, 1, !st, st, .ls 0, lsNo 0 0x48, n, List.replicate n 0x5A, []⟩
def a14 := withFg a1 (fun t => {t with accs := [lacc true 8]})
def a15 := withFg a1 (fun t => {t with accs := [lacc false 8]})
def rq_1 := (3 : BitVec 4)
theorem witness_LsAddressChecks :
    0 < 4 ∧
    ((vget 0 (vget Ag.zero a17.bank.ag 2).c 0).toNat + 65536 * (vget 0 (vget Ag.zero a17.bank.ag 2).c 1).toNat) % 4 = 0 ∧
    BitVec.getLsbD a17.fg.lsCtl 2 = true ∧ 0 < a17.fg.lsSize * 4096 ∧ a17.fg.lsSize * 4096 ≤ 2 ^ 15 ∧
    ((vget 0 (vget Ag.zero a17.bank.ag 2).c 0).toNat + 65536 * (vget 0 (vget Ag.zero a17.bank.ag 2).c 1).toNat) % 2 ^ 14 < a17.fg.lsSize * 4096 ∧
    ¬(fun b => (a17.owner (a17.fg.unit / 4) (a17.fg.lsBase + b / 4096)).getLsbD 7 = false ∧ a17.givePending a17.fg (b / 4096) = false ∧ a17.takePending a17.fg (b / 4096) = false) (((vget 0 (vget Ag.zero a17.bank.ag 2).c 0).toNat + 65536 * (vget 0 (vget Ag.zero a17.bank.ag 2).c 1).toNat) % 2 ^ 14) ∧
    ((vget 0 (vget Ag.zero a8.bank.ag 2).c 0).toNat + 65536 * (vget 0 (vget Ag.zero a8.bank.ag 2).c 1).toNat) % 4 ≠ 0 ∧
    ((vget 0 (vget Ag.zero a3.bank.ag 2).c 0).toNat + 65536 * (vget 0 (vget Ag.zero a3.bank.ag 2).c 1).toNat) % 4 = 0 ∧
    BitVec.getLsbD a3.fg.lsCtl 2 = false ∧
    a3.fg.lsSize * 4096 ≤ (vget 0 (vget Ag.zero a3.bank.ag 2).c 0).toNat + 65536 * (vget 0 (vget Ag.zero a3.bank.ag 2).c 1).toNat ∧
    BitVec.getLsbD a3.fg.lsCtl 1 = true ∧
    ((vget 0 (vget Ag.zero a2.bank.ag 2).c 0).toNat + 65536 * (vget 0 (vget Ag.zero a2.bank.ag 2).c 1).toNat) % 4 = 0 ∧
    BitVec.getLsbD a2.fg.lsCtl 2 = false ∧
    a2.fg.lsSize * 4096 ≤ (vget 0 (vget Ag.zero a2.bank.ag 2).c 0).toNat + 65536 * (vget 0 (vget Ag.zero a2.bank.ag 2).c 1).toNat ∧
    BitVec.getLsbD a2.fg.lsCtl 1 = false ∧
    ((vget 0 (vget Ag.zero a5b.bank.ag 2).c 0).toNat + 65536 * (vget 0 (vget Ag.zero a5b.bank.ag 2).c 1).toNat) % 4 = 0 ∧
    BitVec.getLsbD a5b.fg.lsCtl 2 = true ∧ 0 < a5b.fg.lsSize * 4096 ∧
    a5b.fg.lsSize * 4096 ≤ ((vget 0 (vget Ag.zero a5b.bank.ag 2).c 0).toNat + 65536 * (vget 0 (vget Ag.zero a5b.bank.ag 2).c 1).toNat) % 2 ^ 14 ∧
    ((vget 0 (vget Ag.zero a6.bank.ag 2).c 0).toNat + 65536 * (vget 0 (vget Ag.zero a6.bank.ag 2).c 1).toNat) % 4 = 0 ∧
    BitVec.getLsbD a6.fg.lsCtl 2 = false ∧
    (vget 0 (vget Ag.zero a6.bank.ag 2).c 0).toNat + 65536 * (vget 0 (vget Ag.zero a6.bank.ag 2).c 1).toNat < a6.fg.lsSize * 4096 ∧
    ¬(fun b => (a6.owner (a6.fg.unit / 4) (a6.fg.lsBase + b / 4096)).getLsbD 7 = false ∧ a6.givePending a6.fg (b / 4096) = false ∧ a6.takePending a6.fg (b / 4096) = false) ((vget 0 (vget Ag.zero a6.bank.ag 2).c 0).toNat + 65536 * (vget 0 (vget Ag.zero a6.bank.ag 2).c 1).toNat) ∧
    ((vget 0 (vget Ag.zero a1.bank.ag 2).c 0).toNat + 65536 * (vget 0 (vget Ag.zero a1.bank.ag 2).c 1).toNat) % 4 = 0 ∧
    BitVec.getLsbD a1.fg.lsCtl 2 = false ∧
    (vget 0 (vget Ag.zero a1.bank.ag 2).c 0).toNat + 65536 * (vget 0 (vget Ag.zero a1.bank.ag 2).c 1).toNat < a1.fg.lsSize * 4096 ∧
    (a1.owner (a1.fg.unit / 4) (a1.fg.lsBase + ((vget 0 (vget Ag.zero a1.bank.ag 2).c 0).toNat + 65536 * (vget 0 (vget Ag.zero a1.bank.ag 2).c 1).toNat) / 4096)).getLsbD 7 = false ∧ a1.givePending a1.fg (((vget 0 (vget Ag.zero a1.bank.ag 2).c 0).toNat + 65536 * (vget 0 (vget Ag.zero a1.bank.ag 2).c 1).toNat) / 4096) = false ∧ a1.takePending a1.fg (((vget 0 (vget Ag.zero a1.bank.ag 2).c 0).toNat + 65536 * (vget 0 (vget Ag.zero a1.bank.ag 2).c 1).toNat) / 4096) = false ∧
    ((vget 0 (vget Ag.zero a4.bank.ag 2).c 0).toNat + 65536 * (vget 0 (vget Ag.zero a4.bank.ag 2).c 1).toNat) % 4 = 0 ∧
    BitVec.getLsbD a4.fg.lsCtl 2 = true ∧ 0 < a4.fg.lsSize * 4096 ∧
    ((vget 0 (vget Ag.zero a4.bank.ag 2).c 0).toNat + 65536 * (vget 0 (vget Ag.zero a4.bank.ag 2).c 1).toNat) % 2 ^ 14 < a4.fg.lsSize * 4096 ∧
    (a4.owner (a4.fg.unit / 4) (a4.fg.lsBase + ((vget 0 (vget Ag.zero a4.bank.ag 2).c 0).toNat + 65536 * (vget 0 (vget Ag.zero a4.bank.ag 2).c 1).toNat) % 2 ^ 14 / 4096)).getLsbD 7 = false ∧ a4.givePending a4.fg (((vget 0 (vget Ag.zero a4.bank.ag 2).c 0).toNat + 65536 * (vget 0 (vget Ag.zero a4.bank.ag 2).c 1).toNat) % 2 ^ 14 / 4096) = false ∧ a4.takePending a4.fg (((vget 0 (vget Ag.zero a4.bank.ag 2).c 0).toNat + 65536 * (vget 0 (vget Ag.zero a4.bank.ag 2).c 1).toNat) % 2 ^ 14 / 4096) = false := by
  and_intros <;> decide +kernel
theorem witness_LsLoads :
    a15.guard 0 = true ∧ a15.lsCheck a15.fg (Claims.agAt a15 2) (Claims.ldSize 2) = LsRes.at 72 ∧
    (Claims.lsAcc a15 1 true 72 (Claims.ldSize 2) []).may a15.fg.accs = May.no ∧ a4.guard 0 = true ∧
    a4.lsCheck a4.fg (Claims.agAt a4 2) (Claims.ldSize 0) = LsRes.at 0 ∧
    (Claims.lsAcc a4 1 true 0 (Claims.ldSize 0) []).may a4.fg.accs = May.home ∧
    a4.tilePoisoned (a4.fg.unit / 4) (0 / 4096) = false ∧ a14.guard 0 = true ∧
    a14.lsCheck a14.fg (Claims.agAt a14 2) (Claims.ldSize 2) = LsRes.at 72 ∧
    (Claims.lsAcc a14 1 true 72 (Claims.ldSize 2) []).may a14.fg.accs = May.path (May.casesOn ((Claims.lsAcc a14 1 true 72 (Claims.ldSize 2) []).may a14.fg.accs) default (fun bs => bs) default) ∧
    a2.guard 0 = true ∧ a2.lsCheck a2.fg (Claims.agAt a2 2) (Claims.ldSize 0) = LsRes.outside true 16384 ∧
    a7.guard 0 = true ∧ a7.lsCheck a7.fg (Claims.agAt a7 2) (Claims.ldSize 3) = LsRes.at 72 ∧
    (Claims.lsAcc a7 1 true 72 (Claims.ldSize 3) []).may a7.fg.accs = May.home ∧
    a7.tilePoisoned (a7.fg.unit / 4) (72 / 4096) = true ∧ a1.guard 0 = true ∧
    a1.lsCheck a1.fg (Claims.agAt a1 2) (Claims.ldSize 0) = LsRes.trap 5 ∧ a6.guard 0 = true ∧
    a6.lsCheck a6.fg (Claims.agAt a6 2) (Claims.ldSize 3) = LsRes.owner 0 := by
  and_intros <;> decide +kernel
theorem witness_LsStores :
    a14.guard 0 = true ∧ a14.lsCheck a14.fg (Claims.agAt a14 2) (Claims.stSize 2) = LsRes.at 72 ∧
    (Claims.lsAcc a14 1 false 72 (Claims.stSize 2) (Claims.lowBytes a14 rq_1 (Claims.stSize 2))).may a14.fg.accs ≠ May.home ∧
    a4.guard 0 = true ∧ a4.lsCheck a4.fg (Claims.agAt a4 2) (Claims.stSize 0) = LsRes.at 0 ∧
    (Claims.lsAcc a4 1 false 0 (Claims.stSize 0) (Claims.lowBytes a4 rq_1 (Claims.stSize 0))).may a4.fg.accs = May.home ∧
    (35184372088831 < lsNo (a4.fg.unit / 4) 0 ∨ lsNo (a4.fg.unit / 4) 0 + Claims.stSize 0 ≤ 35184372088831) ∧
    a8.guard 0 = true ∧ a8.lsCheck a8.fg (Claims.agAt a8 2) (Claims.stSize 0) = LsRes.trap 5 ∧ a6.guard 0 = true ∧
    a6.lsCheck a6.fg (Claims.agAt a6 2) (Claims.stSize 0) = LsRes.owner 0 ∧ a2.guard 0 = true ∧
    a2.lsCheck a2.fg (Claims.agAt a2 2) (Claims.stSize 0) = LsRes.outside true 16384 := by
  and_intros <;> decide +kernel
theorem witness_DmRequests :
    a1.guard 0 = true ∧
    ((vget 0 (Claims.agAt a1 2).c 0).toNat + 65536 * (vget 0 (Claims.agAt a1 2).c 1).toNat) % Claims.ldSize 3 = 0 ∧
    (vget 0 (Claims.agAt a1 2).c 0).toNat + 65536 * (vget 0 (Claims.agAt a1 2).c 1).toNat + Claims.ldSize 3 ≤ a1.fg.dmSize ∧
    ((vget 0 (Claims.agAt a1 2).c 0).toNat + 65536 * (vget 0 (Claims.agAt a1 2).c 1).toNat) % Claims.stSize 3 = 0 ∧
    (vget 0 (Claims.agAt a1 2).c 0).toNat + 65536 * (vget 0 (Claims.agAt a1 2).c 1).toNat + Claims.stSize 3 ≤ a1.fg.dmSize ∧
    a8.guard 0 = true ∧
    ((vget 0 (Claims.agAt a8 2).c 0).toNat + 65536 * (vget 0 (Claims.agAt a8 2).c 1).toNat) % Claims.ldSize 0 ≠ 0 ∧
    ((vget 0 (Claims.agAt a8 2).c 0).toNat + 65536 * (vget 0 (Claims.agAt a8 2).c 1).toNat) % Claims.stSize 0 ≠ 0 ∧
    a2.guard 0 = true ∧
    ((vget 0 (Claims.agAt a2 2).c 0).toNat + 65536 * (vget 0 (Claims.agAt a2 2).c 1).toNat) % Claims.ldSize 0 = 0 ∧
    a2.fg.dmSize < (vget 0 (Claims.agAt a2 2).c 0).toNat + 65536 * (vget 0 (Claims.agAt a2 2).c 1).toNat + Claims.ldSize 0 ∧
    ((vget 0 (Claims.agAt a2 2).c 0).toNat + 65536 * (vget 0 (Claims.agAt a2 2).c 1).toNat) % Claims.stSize 0 = 0 ∧
    a2.fg.dmSize < (vget 0 (Claims.agAt a2 2).c 0).toNat + 65536 * (vget 0 (Claims.agAt a2 2).c 1).toNat + Claims.stSize 0 := by
  and_intros <;> decide +kernel
theorem witness_PortRequests :
    a1.guard 0 = true ∧
    ((vget 0 (Claims.agAt a1 2).c 0).toNat + 65536 * (vget 0 (Claims.agAt a1 2).c 1).toNat) % Claims.ldSize 3 = 0 ∧
    ((vget 0 (Claims.agAt a1 2).c 0).toNat + 65536 * (vget 0 (Claims.agAt a1 2).c 1).toNat) % 8 = 0 ∧
    ((vget 0 (Claims.agAt a1 2).c 0).toNat + 65536 * (vget 0 (Claims.agAt a1 2).c 1).toNat) % Claims.stSize 3 = 0 ∧
    a8.guard 0 = true ∧
    ((vget 0 (Claims.agAt a8 2).c 0).toNat + 65536 * (vget 0 (Claims.agAt a8 2).c 1).toNat) % Claims.ldSize 0 ≠ 0 ∧
    ((vget 0 (Claims.agAt a8 2).c 0).toNat + 65536 * (vget 0 (Claims.agAt a8 2).c 1).toNat) % 8 ≠ 0 ∧
    ((vget 0 (Claims.agAt a8 2).c 0).toNat + 65536 * (vget 0 (Claims.agAt a8 2).c 1).toNat) % Claims.stSize 0 ≠ 0 := by
  and_intros <;> decide +kernel
end Access

namespace Parcels
def ag (c0 c1 : BitVec 16) (tid : BitVec 16 := 0) : Ag := ⟨tid, false, #v[c0, c1, 0, 0], #v[8,0,0,0]⟩
def setag (s : State) (n : Nat) (x : Ag) : State := s.setBank { s.bank with ag := vset s.bank.ag n x }
def pc0 : Parcel := ⟨.localP, 64, [0], [2]⟩
def p0 : State := { seti (setag s0 2 (ag 16 0 3)) 3 0x18 with parcels := [(3, pc0)] }
def p1 := seti p0 3 64
def p2 := withFg p0 (fun t => {t with accs := [⟨3, 1, true, false, .dm 0, 0, 8, [], []⟩]})
def p3 := setag p0 2 (ag 17 0 3)
def rq_1 := (3 : BitVec 4)
def d0 : State := seti (seti p0 4 3) 5 2
def d1 : State := { d0 with parcels := [(3, {pc0 with st := .sealedP})] }
def d2 : State := put8 d0 (match d0.vfRead 0 0 8 with | some _ => hbmNo 0 (match d0.segment 0 16 with | some (_, pa) => pa | none => 0) | none => 0) 64
def d3 : State := { d0 with parcels := [(3, {pc0 with marks := []}), (5, {pc0 with st := .arrived})], mailbox := [(2, [5, 7])] }
def d4 : State := { d0 with mailbox := [] }
def m1 : State := d0.setBank { d0.bank with mp := vset d0.bank.mp 7 (BitVec.ofNat 64 (2^63 + 5 + 8*9 + 128 * 127)) }
def d5 := withFg d0 (fun t => {t with priv := false})
def dp1 : State := withFg (seti d0 5 (BitVec.ofNat 64 (2^63 + 0x40))) (fun t => {t with hasLs := true, width := 4})
def dp2 : State := withFg (seti d0 5 (BitVec.ofNat 64 0x40)) (fun t => {t with hasLs := true, width := 4})
theorem witness_ReferenceStores :
    p0.guard 0 = true ∧ ((vget 0 (Claims.agAt p0 2).c 0).toNat + 65536 * (vget 0 (Claims.agAt p0 2).c 1).toNat) % 8 = 0 ∧
    (∀ x ∈ p0.pastAccs, x.cls ≠ BitVec.toNat (1 : BitVec 4) ∧ x.id ∉ p0.fg.fencedBy (BitVec.toNat (1 : BitVec 4))) ∧
    (p0.parcel p0.fg.vf (Claims.agAt p0 2).tid.toNat).st = PState.localP ∧
    (vget 0 (Claims.agAt p0 2).c 0).toNat + 65536 * (vget 0 (Claims.agAt p0 2).c 1).toNat + 8 ≤ (p0.parcel p0.fg.vf (Claims.agAt p0 2).tid.toNat).len ∧
    BitVec.toNat (p0.bank.i rq_1.toNat) < (p0.parcel p0.fg.vf (Claims.agAt p0 (2 : BitVec 3)).tid.toNat).len ∧
    (Claims.agAt p0 2).tid.toNat < 49152 ∧ (Claims.agAt p0 2).tid.toNat % 4096 < (p0.vf p0.fg.vf).pclCount ∧
    (p0.vfWrite p0.fg.vf (p0.parcelAddr p0.fg.vf (Claims.agAt p0 (2 : BitVec 3)).tid.toNat (p0.parcel p0.fg.vf (Claims.agAt p0 (2 : BitVec 3)).tid.toNat) ((vget (0 : BitVec 16) (Claims.agAt p0 (2 : BitVec 3)).c 0).toNat + 65536 * (vget (0 : BitVec 16) (Claims.agAt p0 (2 : BitVec 3)).c 1).toNat)) (bytesOf 8 (BitVec.toNat (p0.bank.i rq_1.toNat)))).isSome = true ∧
    p3.guard 0 = true ∧ ((vget 0 (Claims.agAt p3 2).c 0).toNat + 65536 * (vget 0 (Claims.agAt p3 2).c 1).toNat) % 8 ≠ 0 ∧
    p2.guard 0 = true ∧ ((vget 0 (Claims.agAt p2 2).c 0).toNat + 65536 * (vget 0 (Claims.agAt p2 2).c 1).toNat) % 8 = 0 ∧
    (∃ x ∈ p2.pastAccs, x.cls = BitVec.toNat (1 : BitVec 4) ∨ x.id ∈ p2.fg.fencedBy (BitVec.toNat (1 : BitVec 4))) ∧
    p1.guard 0 = true ∧ ((vget 0 (Claims.agAt p1 2).c 0).toNat + 65536 * (vget 0 (Claims.agAt p1 2).c 1).toNat) % 8 = 0 ∧
    (∀ x ∈ p1.pastAccs, x.cls ≠ BitVec.toNat (1 : BitVec 4) ∧ x.id ∉ p1.fg.fencedBy (BitVec.toNat (1 : BitVec 4))) ∧
    (p1.parcel p1.fg.vf (Claims.agAt p1 2).tid.toNat).st = PState.localP ∧
    (vget 0 (Claims.agAt p1 2).c 0).toNat + 65536 * (vget 0 (Claims.agAt p1 2).c 1).toNat + 8 ≤ (p1.parcel p1.fg.vf (Claims.agAt p1 2).tid.toNat).len ∧
    (p1.parcel p1.fg.vf (Claims.agAt p1 (2 : BitVec 3)).tid.toNat).len ≤ BitVec.toNat (p1.bank.i rq_1.toNat) := by
  and_intros <;> decide +kernel
theorem witness_ParcelDelivery :
    d3.guard 0 = true ∧ BitVec.toNat (d3.takeI (5 : RegF)).1 % 256 < (d3.vf d3.fg.vf).mbxCount ∧
    d3.arrivedAt d3.fg.vf d3.fg.die (BitVec.toNat (d3.takeI (5 : RegF)).1 % 256) = [5, 7] ∧ 5 < 49152 ∧
    5 % 4096 < (d3.vf d3.fg.vf).pclCount ∧ (d3.parcel d3.fg.vf 5).st = PState.arrived ∧ d0.guard 0 = true ∧
    d0.pastAccs = [] ∧ (∀ r ∈ (d0.unit d0.fg.unit).recs, r.task ≠ d0.fg.key ∨ d0.earlier r.id = false) ∧
    (d0.parcel d0.fg.vf (BitVec.toNat (d0.takeI (4 : RegF)).1 % 65536)).st = PState.localP ∧
    (∀ n ∈ (d0.parcel d0.fg.vf (BitVec.toNat (d0.takeI (4 : RegF)).1 % 65536)).marks, d0.parcelWord d0.fg.vf (BitVec.toNat (d0.takeI (4 : RegF)).1 % 65536) (d0.parcel d0.fg.vf (BitVec.toNat (d0.takeI (4 : RegF)).1 % 65536)) n < (d0.parcel d0.fg.vf (BitVec.toNat (d0.takeI (4 : RegF)).1 % 65536)).len) ∧
    d0.wordPkg ((d0.takeI 4).2.takeI 5).1 = some d0.ownPkg ∧
    d0.mboxRefuses d0.fg.vf (bits (BitVec.toNat ((d0.takeI (4 : RegF)).2.takeI (5 : RegF)).1) 51 48) (bits (BitVec.toNat ((d0.takeI (4 : RegF)).2.takeI (5 : RegF)).1) 7 0) (d0.parcel d0.fg.vf (BitVec.toNat (d0.takeI (4 : RegF)).1 % 65536)).len = false ∧
    BitVec.toNat (d0.takeI (4 : RegF)).1 % 65536 < 49152 ∧
    BitVec.toNat (d0.takeI (4 : RegF)).1 % 65536 % 4096 < (d0.vf d0.fg.vf).pclCount ∧ d1.guard 0 = true ∧
    d1.pastAccs = [] ∧ (∀ r ∈ (d1.unit d1.fg.unit).recs, r.task ≠ d1.fg.key ∨ d1.earlier r.id = false) ∧
    (d1.parcel d1.fg.vf (BitVec.toNat (d1.takeI (4 : RegF)).1 % 65536)).st ≠ PState.localP ∧ d4.guard 0 = true ∧
    BitVec.toNat (d4.takeI (5 : RegF)).1 % 256 < (d4.vf d4.fg.vf).mbxCount ∧
    d4.arrivedAt d4.fg.vf d4.fg.die (BitVec.toNat (d4.takeI (5 : RegF)).1 % 256) = [] ∧ d4.fg.expired = false ∧
    fits ((d4.takeI (5 : RegF)).2.claspInsert (objWord 4 d4.fg.die (BitVec.toNat (d4.takeI (5 : RegF)).1 % 256)) none) = true ∧
    d2.guard 0 = true ∧ d2.pastAccs = [] ∧
    (∀ r ∈ (d2.unit d2.fg.unit).recs, r.task ≠ d2.fg.key ∨ d2.earlier r.id = false) ∧
    (d2.parcel d2.fg.vf (BitVec.toNat (d2.takeI (4 : RegF)).1 % 65536)).st = PState.localP ∧
    (List.find? (fun n => decide ((d2.parcel d2.fg.vf (BitVec.toNat (d2.takeI (4 : RegF)).1 % 65536)).len ≤ d2.parcelWord d2.fg.vf (BitVec.toNat (d2.takeI (4 : RegF)).1 % 65536) (d2.parcel d2.fg.vf (BitVec.toNat (d2.takeI (4 : RegF)).1 % 65536)) n)) (d2.parcel d2.fg.vf (BitVec.toNat (d2.takeI (4 : RegF)).1 % 65536)).marks).isSome = true := by
  and_intros <;> decide +kernel
theorem witness_RecordsCapture :
    1 ≠ d0.fg.unit := by
  decide +kernel
theorem witness_ChainWords :
    m1.guard 0 = true ∧ BitVec.toNat (vget (0 : Word) m1.bank.mp 7) / 2 ^ 63 % 2 = 1 ∧ d0.guard 0 = true ∧
    BitVec.toNat (vget (0 : Word) d0.bank.mp 7) / 2 ^ 63 % 2 = 0 := by
  and_intros <;> decide +kernel
theorem witness_CopyWords :
    d5.guard 0 = true ∧ d5.fg.priv = false ∧ d0.guard 0 = true ∧ d0.fg.priv = true := by
  and_intros <;> decide +kernel
theorem witness_BankWords :
    dp1.guard 0 = true ∧
    dp1.putTarget dp1.fg.launch (BitVec.toNat ((dp1.takeI (4 : RegF)).2.takeI (5 : RegF)).1 / 2 ^ 28 % 2 ^ 32) = some dp1.fg ∧
    BitVec.getLsbD ((dp1.takeI (4 : RegF)).2.takeI (5 : RegF)).1 63 = true ∧ dp2.guard 0 = true ∧
    dp2.putTarget dp2.fg.launch (BitVec.toNat ((dp2.takeI (4 : RegF)).2.takeI (5 : RegF)).1 / 2 ^ 28 % 2 ^ 32) = some dp2.fg ∧
    BitVec.getLsbD ((dp2.takeI (4 : RegF)).2.takeI (5 : RegF)).1 63 = false ∧ dp2.fg.hasLs = true ∧
    (let y := ((dp1.takeI (4 : RegF)).2.takeI (5 : RegF)).1.toNat
     y % 2 ^ 28 - y % 2 ^ 28 % 8 + 8 ≤ vget 0 (dp1.vf dp1.fg.vf).dmSize dp1.fg.die) ∧
    (let y := ((dp2.takeI (4 : RegF)).2.takeI (5 : RegF)).1.toNat
     y / 2 ^ 22 % 2 ^ 6 = 0 ∧ y % 2 ^ 28 - y % 2 ^ 28 % 8 + 8 ≤ (dp2.launchOf dp2.fg).lsTiles * 4096) := by
  and_intros <;> decide +kernel
theorem witness_FabricWords :
    d0.guard 0 = true ∧ (0 = 0 ∨ 1 = 1) ∧ (1 = 1 ∨ 0 = 1 ∧ 1 = 0) := by
  and_intros <;> decide +kernel
end Parcels

namespace Special
def r0 : State := seti (withFg s0 (fun t => { t with
  trapCause := 0xC000, trapArg := 3, chk := 1, arith := 2, lsCtl := 5, lsOob := 77, pclFault := 8, coord := 0x10002, used := 99, waitStat := 5,
  cls := 2, inherit := 3, raises := 1, comm := true, demoted := true, expired := true, restored := true, lsBase := 12 })) 6 0xABCD
def r1 : State := { r0 with cores := [(0, {CoreSt.zero with fmt := #v[1,2,3,4,5,6,7,8], freeze := 99, split := 9})] }
def obj1 : CodeObj := { CodeObj.empty with traps := [(0x11, 5)], trapDef := some 9 }
def l2 : Launch := { l1 with obj := obj1 }
def t0 : State := withFg { s0 with launches := [(1, l2)] } (fun t => { t with
  pc := 33, dist := 7, pend := [⟨9, 0, .i 3 4, 0⟩], land := [⟨3, 8, 0, 2, none, none, 0, false⟩], follower := some 55 })
def rq (c : Nat) (rs df ot : Bool) : TrapReq := ⟨c, 2, 1, rs, df, ot, false⟩
def rq_1 := rq 0x11 true false false
def rq_2 := rq 0x12 false false false
def t3 := withFg t0 (fun t => {t with trapCause := 0x8000 })
def t4 := withFg t0 (fun t => {t with trapCause := 0x8000, held := some ⟨3, 1⟩ })
def t5 : State := { t0 with launches := [(1, l1)] }
def rq_5 := rq 0x11 true true false
def f1 := (t0.enterTrap (rq 0x11 true false false)).fg
def f2 := (t0.enterTrap (rq 0x12 false false false)).fg
def f3 := ((withFg t0 (fun t => {t with follower := none})).enterTrap (rq 0x12 false false false)).fg
def c0 (f : Ctl → Ctl) (s : State) : State := { s with ctl := f { Ctl.none with on := true } }
def e1 := c0 (fun c => {c with eret := true}) { t0 with fg := f1 }
def e2 := c0 (fun c => {c with trap := some 0x11, place := (2,1), jump := some 70}) (withFg t0 (fun t => {t with follower := none}))
def g0 := c0 (fun c => {c with jump := some 70}) t0
def g1 := c0 (fun c => {c with indir := some 70}) t0
def g2 := c0 (fun c => {c with stall := 3}) t0
def g3 := c0 id (withFg t0 (fun t => {t with follower := none}))
def bk : ColBank := { ColBank.zero with ibi := 23, ibv := 15, ibp := 7 }
def u0 := { t0.fg with dist := 9, pend := [⟨8, 0, .ib 0 3, 0⟩, ⟨9, 0, .i 3 4, 0⟩, ⟨9, 0, .i 3 7, 0⟩,⟨9, 0, .rot true, 0⟩, ⟨10, 0, .i 3 5, 0⟩] }
def v7_x : Pend := ⟨9, 0, .i 3 7, 0⟩
theorem witness_SpecialRegisterWrites :
    r1.guard 0 = true ∧ r1.fg.key = 1 ∧ 3 < 4 ∧ (5 = 3 ∨ 5 = 4 ∨ 5 = 5) := by
  and_intros <;> decide +kernel
theorem witness_TrapEntryAndReturn_1 :
    t0.fg.active = false ∧ (t0.handler t0.fg rq_1.cause).isSome = true ∧
    ((rq_1.restart || rq_1.deferred) = true ∨ rq_1.outtext = true) ∧ (t0.handler t0.fg rq_2.cause).isSome = true ∧
    (rq_2.restart || rq_2.deferred) = false ∧ rq_2.outtext = false ∧ rq_2.bodyEnd = false := by
  and_intros <;> decide +kernel
theorem witness_TrapEntryAndReturn_4 :
    0 ≠ 15 ∧ BitVec.toNat f3.trapCause / 2 ^ 14 % 2 = 0 ∧ 14 ≠ 15 ∧ BitVec.toNat f1.trapCause / 2 ^ 14 % 2 = 1 ∧
    BitVec.toNat f1.trapCause / 2 ^ 13 % 2 = 1 ∧ 16 ≠ 15 ∧ BitVec.toNat f2.trapCause / 2 ^ 14 % 2 = 1 ∧
    BitVec.toNat f2.trapCause / 2 ^ 13 % 2 = 0 := by
  and_intros <;> decide +kernel
theorem witness_TrapEntryAndReturn_6 :
    e2.ctl.on = true ∧ e2.ctl.kill = false ∧ e2.ctl.exit = false ∧ e2.ctl.trap.isSome = true ∧ e2.fg.active = false ∧
    (e2.handler e2.fg e2.ctl.trap.get!).isSome = true ∧ e2.fg.follower = none ∧ e2.ctl.bodyEnd = false ∧
    e2.ctl.indir = none ∧ e1.ctl.on = true ∧ e1.ctl.kill = false ∧ e1.ctl.exit = false ∧ e1.ctl.trap = none ∧
    e1.ctl.eret = true := by
  and_intros <;> decide +kernel
theorem witness_TrapEntryAndReturn_3 :
    t3.fg.active = true ∧ rq_1.deferred = false ∧ t5.fg.active = false ∧ t5.handler t5.fg rq_5.cause = none ∧
    rq_5.deferred = true ∧ t3.fg.held = none ∧ t4.fg.active = true ∧ t4.fg.held ≠ none := by
  and_intros <;> decide +kernel
theorem witness_TrapEntryAndReturn_2 :
    List.find? (fun e => decide (e.1 = 18)) (t0.launchOf t0.fg).obj.traps = none ∧
    (List.find? (fun e => decide (e.1 = 17)) (t0.launchOf t0.fg).obj.traps).isSome = true := by
  and_intros <;> decide +kernel
theorem witness_TransfersAreTaken :
    g0.ctl.on = true ∧ g0.ctl.kill = false ∧ g0.ctl.exit = false ∧ g0.ctl.trap = none ∧ g0.ctl.eret = false ∧
    g0.ctl.jump.isSome = true ∧ g1.ctl.on = true ∧ g1.ctl.kill = false ∧ g1.ctl.exit = false ∧ g1.ctl.trap = none ∧
    g1.ctl.eret = false ∧ g1.ctl.jump = none ∧ g1.ctl.indir.isSome = true ∧ g2.ctl.on = true ∧ g2.ctl.kill = false ∧
    g2.ctl.exit = false ∧ g2.ctl.trap = none ∧ g2.ctl.eret = false ∧ g2.ctl.jump = none ∧ g2.ctl.indir = none ∧
    g2.fg.follower.isSome = true ∧ g3.ctl.on = true ∧ g3.ctl.kill = false ∧ g3.ctl.exit = false ∧ g3.ctl.trap = none ∧
    g3.ctl.eret = false ∧ g3.ctl.jump = none ∧ g3.ctl.indir = none ∧ g3.fg.follower = none ∧ g3.ctl.bodyEnd = false := by
  and_intros <;> decide +kernel
theorem witness_OperandsAndLatency :
    List.Pairwise (fun x y => x.due ≤ y.due) t0.fg.pend ∧ bk.ibp < 8 ∧ 9 ≠ 8 + (bk.write (RegWrite.rot true)).ibp ∧
    BitVec.toNat (63 : RegF) < 64 ∧ 0 < 4 ∧ 4 < 56 ∧ (∀ x ∈ u0.pend, x.due ≤ u0.dist → x.col = 0 → x.w.dest ≠ (0, 4)) ∧
    BitVec.toNat (7 : Guard) < 8 ∧ 8 ≤ BitVec.toNat (15 : Guard) ∧ 64 ≤ BitVec.toNat (119 : RegF) ∧
    32 ≤ BitVec.toNat (119 : RegF) - 64 ∧ BitVec.toNat (119 : RegF) - 64 < 56 ∧
    64 ≤ BitVec.toNat ((64 : RegF) + (8 : RegF)) ∧ 8 ≤ BitVec.toNat ((64 : RegF) + (8 : RegF)) - 64 ∧
    BitVec.toNat ((64 : RegF) + (8 : RegF)) - 64 < 16 ∧ 64 ≤ BitVec.toNat ((64 : RegF) + (31 : RegF)) ∧
    16 ≤ BitVec.toNat ((64 : RegF) + (31 : RegF)) - 64 ∧ BitVec.toNat ((64 : RegF) + (31 : RegF)) - 64 < 32 ∧ 3 < 56 ∧
    u0.pend = List.take 2 u0.pend ++ v7_x :: List.drop 3 u0.pend ∧ v7_x.due ≤ u0.dist ∧ v7_x.col = 0 ∧
    v7_x.w = RegWrite.i 3 7 ∧ (∀ y ∈ List.drop 3 u0.pend, y.due ≤ u0.dist → y.col = 0 → y.w.dest ≠ (0, 3)) := by
  and_intros <;> decide +kernel
end Special

namespace Words
def vv (k : Nat) (f : Nat → Nat) : VWord := ofLanes ((List.range 32).map (fun n => BitVec.ofNat 32 (f (n + k))))
def h0 : State := s0.setBank { s0.bank with
  ireg := Vector.ofFn (fun i => BitVec.ofNat 64 (i.val * 0x123456789ABCDEF1 + i.val * i.val)),
  vreg := Vector.ofFn (fun i => vv (i.val * 3) (fun n => n * n * 0x1234567 + n * 0x3F80000)),
  kreg := Vector.ofFn (fun i => BitVec.ofNat 32 (i.val * 0x9E3779B9)),
  preg := Vector.ofFn (fun i => i.val % 3 == 0),
  lreg := Vector.ofFn (fun i => vv (i.val * 5) (fun n => n * 0x12345678)),
  lc := #v[0, 1, 2, 5], ln := 0x1234 }
def h2 := withFg h0 (fun t => {t with priv := false})
def s0 : State := State.reset
theorem witness_PredicatesAndLink :
    s0.guard 0 = true := by
  decide +kernel
theorem witness_RegisterOperations :
    h0.guard 0 = true := by
  decide +kernel
theorem witness_FloatArithmetic :
    h0.guard 0 = true := by
  decide +kernel
theorem witness_FloatSelection :
    h0.guard 0 = true := by
  decide +kernel
theorem witness_IntegerLanes :
    h0.guard 0 = true := by
  decide +kernel
theorem witness_ImmediateOperations :
    h0.guard 0 = true ∧ 64 ≤ BitVec.toNat (64 : BitVec 7) ∧ BitVec.toNat (0 : BitVec 7) < 64 := by
  and_intros <;> decide +kernel
theorem witness_ComparesAndMoves :
    h0.guard 0 = true := by
  decide +kernel
theorem witness_Crossings :
    h0.guard 0 = true := by
  decide +kernel
theorem witness_ControlTransfers :
    h0.guard 0 = true ∧ h0.bank.physI 4 < 56 := by
  and_intros <;> decide +kernel
theorem witness_TrapAndStopWords :
    h2.guard 0 = true ∧ h2.fg.priv = false ∧ h0.guard 0 = true ∧ h0.fg.priv = true := by
  and_intros <;> decide +kernel
theorem witness_LaneMasks :
    h0.guard 0 = true := by
  decide +kernel
theorem witness_RoundingAndIntegers :
    h0.guard 0 = true := by
  decide +kernel
theorem witness_FormatConversion :
    h0.guard 0 = true ∧ (BitVec.toNat (2 : BitVec 3), 3, 8) ∈ [(0, 1, 16), (1, 2, 16), (2, 3, 8), (3, 4, 8)] ∧
    32 * (BitVec.toNat (0 : BitVec 2) + 1) * 8 ≤ 1024 ∧ BitVec.toNat (0 : BitVec 2) ≤ 1 ∧
    8 = if BitVec.toNat (2 : BitVec 2) ≤ 1 then 16 else 8 := by
  and_intros <;> decide +kernel
theorem witness_LaneMovement :
    h0.guard 0 = true := by
  decide +kernel
theorem witness_ReductionAndRequant :
    h0.guard 0 = true := by
  decide +kernel
theorem witness_FunctionStage :
    h0.guard 0 = true ∧
    (∀ k < 32, ((fun par k => h0.fnRun h0.fg h0.bank (BitVec.toNat (5 : BitVec 4)) (lane (Claims.vAt h0 (4 : RegF)) k) (if par = true then lane (Claims.vAt h0 (6 : RegF)) k else (0 : Lane))) false k).2 = false) ∧
    (∀ k < 32, ((fun par k => h0.fnRun h0.fg h0.bank (BitVec.toNat (5 : BitVec 4)) (lane (Claims.vAt h0 (4 : RegF)) k) (if par = true then lane (Claims.vAt h0 (6 : RegF)) k else (0 : Lane))) true k).2 = false) ∧
    vget [] h0.bank.fm (BitVec.toNat (5 : BitVec 4)) = [] ∧ 5 ≤ BitVec.toNat (5 : BitVec 4) := by
  and_intros <;> decide +kernel
end Words

/-! Witnesses of the statements about every word, about decoding and about a step. -/

theorem witness_words : Words.h0.guard 0 = true := by decide +kernel
theorem witness_BitOperations : (regs 0 0).guard 0 = true ∧ ((regs 0 0).takeI 1).1 = 0 ∧ ((regs 1 0).takeI 1).1 ≠ 0 := by
  decide +kernel
theorem witness_AddressGenerators :
    let s := s0.setBank { s0.bank with ag := vset s0.bank.ag 1 { Ag.zero with linear := true } }
    s.guard 0 = true ∧ (vget Ag.zero s.bank.ag 0).linear = false ∧ (vget Ag.zero s.bank.ag 1).linear = true ∧
    (15 : BitVec 4).getLsbD 0 = true ∧ (14 : BitVec 4).getLsbD 0 = false := by decide +kernel
theorem witness_SpecialRegisterReads : Special.r1.guard 0 = true := by decide +kernel
theorem witness_ExactArithmetic : Claims.finite (.fin false 3 (-1)) ∧ Claims.finite (.fin true 0 0) := ⟨trivial, trivial⟩
theorem witness_EncodeDecode : (Instr.add 0 5 5 6).wf = true ∧ (Instr.add 0 5 5 6).slot = some .i ∧
    decodeSlot .i 0x02014286 = .instr (.add 0 5 5 6) := by decide +kernel
theorem witness_ResetState : Task.zero.pc = 0 ∧ (1 : Nat) ≠ 0 := by decide
theorem witness_FalseGuardSquashes : (Instr.add 1 3 1 2).slot ≠ none ∧ (Instr.halt 1).slot ≠ none ∧ s0.fg.priv = true ∧
    s0.guard (Machine.Instr.guardF (.add 1 3 1 2)) = false ∧ s0.guard (Machine.Instr.guardF (.halt 1)) = false := by
  decide +kernel
theorem witness_FramesOfWords :
    (Claims.onlyRegisters (.add 0 3 1 2) = true ∧ isNext (exec (.add 0 3 1 2) s0) = true) ∧
    (Claims.onlyControl (.br 0 5) = true ∧ isNext (exec (.br 0 5) s0) = true) ∧
    (Claims.onlyRecord (.tzero 0 1) = true ∧ isNext (exec (.tzero 0 1) s0) = true) := by decide +kernel
theorem witness_FramesOfMemoryWords :
    (Claims.onlyRequest (.lds 0 3 2 12 0 0 0) = true ∧ (getNext (exec (.lds 0 3 2 12 0 0 0) s0)).ctl.on = true) ∧
    (Claims.onlyWait (.prio 0 3) = true ∧ (getNext (exec (.prio 0 3) s0)).ctl.on = true) ∧
    (isNext (exec (.lock 0 4) Hold.k0) = true ∧ (getNext (exec (.lock 0 4) Hold.k0)).ctl.on = true) := by decide +kernel
theorem witness_MemoryStaysCanonical :
    State.reset.Inv ∧ isNext (step (State.reset.withFetchWord 32 0x4400FFFB)) = true := by
  exact ⟨by unfold State.Inv; decide +kernel, by decide +kernel⟩
/-- The package whose next bundle is one LI. -/
def firstLi : State := State.reset.withFetchWord 32 0x4400FFFB
/-- Its words. -/
def liWords : List DWord := [(0, 1, .li 0 3 0x3FFB)]
/-- The state that presents it, with its words issued. -/
def liIssued : State := (Claims.begun firstLi 0).issueWords false ((Claims.begun firstLi 0).fetch (Claims.begun firstLi 0).fg) liWords false
theorem witness_StepRunsTheBundle_ready : Claims.Ready firstLi 0 := by
  unfold Claims.Ready; and_intros <;> decide +kernel
theorem witness_StepRunsTheBundle_presented : Claims.Presented (Claims.begun firstLi 0) liWords := by
  refine ⟨?_, ?_, ?_, ?_, Or.inr ?_, ?_, ?_, ?_, ?_, ?_⟩
  all_goals try decide +kernel
  intro n w h
  match n with
  | 0 => cases h; decide +kernel
  | n + 1 => simp [liWords] at h
theorem witness_StepRunsTheBundle_runs : ∃ v, Claims.RunsTo liIssued.issue { liIssued with issue := [] } v :=
  ⟨_, _, rfl, by decide +kernel, rfl⟩
theorem witness_StepRunsTheBundle_agenda : firstLi.ended = false ∧ firstLi.agenda = [] ∧
    (let s : State := { firstLi with agenda := [.launchEnd 1, .roleSwap 0] }
     s.ended = false ∧ s.agenda.find? s.prompt = some (.roleSwap 0)) := by decide +kernel
/-- A word that stops its bundle: a WAITV outside the task's DM. -/
theorem witness_StepRunsTheBundle_stops :
    let s := withFg s0 (fun t => { t with dmSize := 0 })
    isNext (exec (.waitv 0 4 5) s) = true ∧ (getNext (exec (.waitv 0 4 5) s)).ctl.on = false := by decide +kernel
theorem witness_ValueWaits_status : (7 : Nat) < 8 := by decide
/-- A tile that comes sealed, with the tag its session gives it and with another one. -/
theorem witness_TenantEvents_seal : ∃ m x : TileMove, Config.sealTag m.sess m.nonce m.data = m.tag ∧
    Config.sealTag x.sess x.nonce x.data ≠ x.tag :=
  ⟨Tenant.mv false (Config.sealTag 7 3 [1, 2, 3]), Tenant.mv false (Config.sealTag 7 3 [1, 2, 3] + 1), rfl,
    Nat.ne_of_lt (Nat.lt_succ_self _)⟩

end Sys2Proof.Tests
end

section
/-!
SUPPORT. The words of the I and C slots (06 R109 to R142): what a guarded word answers, the value of each operation as its table
row gives it, what the control words leave, then the statements about them, each assembled from those laws.
-/
namespace Sys2Proof.Machine

/-- A guarded word with a true guard answers what its meaning makes of the state. -/
theorem exec_of_when {s t : State} {g : Guard} {i : Instr} {f : State → State} (meaning : ∀ s, exec i s = s.when g f)
    (h : s.guard g = true) (effect : f s = t) : exec i s = .next t := by
  rw [meaning, State.when_true f h, effect]

/-! Values of the register operations (06 Table 06.4). -/

theorem add_eq_ofNat (x y : Word) : x + y = BitVec.ofNat 64 (x.toNat + y.toNat) := by
  simp [BitVec.ofNat_add]
theorem sub_eq_ofInt (x y : Word) : x - y = BitVec.ofInt 64 (x.toInt - y.toInt) := by
  rw [sub_eq_add_neg x.toInt, BitVec.ofInt_add, BitVec.ofInt_neg, BitVec.ofInt_toInt, BitVec.ofInt_toInt, BitVec.sub_eq_add_neg]
theorem mul_eq_ofInt (x y : Word) : x * y = BitVec.ofInt 64 (x.toInt * y.toInt) := by
  rw [BitVec.ofInt_mul, BitVec.ofInt_toInt, BitVec.ofInt_toInt]
/-- A left shift multiplies by a power of two, modulo 2^64. -/
theorem shl_eq_ofNat (x : Word) (n : Nat) : x <<< n = BitVec.ofNat 64 (x.toNat * 2 ^ n) := by
  apply BitVec.eq_of_toNat_eq
  simp [Nat.shiftLeft_eq]
/-- A logical right shift divides. -/
theorem shr_eq_ofNat (x : Word) (n : Nat) : x >>> n = BitVec.ofNat 64 (x.toNat / 2 ^ n) := by
  rw [← Nat.shiftRight_eq_div_pow, ← BitVec.toNat_ushiftRight, BitVec.ofNat_toNat, BitVec.setWidth_eq]
/-- An arithmetic right shift divides the signed value, rounding down. -/
theorem sar_eq_ofInt (x : Word) (n : Nat) : x.sshiftRight n = BitVec.ofInt 64 (x.toInt / 2 ^ n) := by
  simp [BitVec.sshiftRight, Int.shiftRight_eq_div_pow]

/-- A choice by strict or by weak order is the same where equal keys mean equal values. -/
theorem ite_lt_eq_ite_le {α β : Type} [LinearOrder α] {m n : α} {x y : β} (same : m = n → x = y) :
    (if m < n then x else y) = if m ≤ n then x else y := by
  rcases lt_trichotomy m n with h | h | h
  · rw [if_pos h, if_pos h.le]
  · rw [same h, ite_self, ite_self]
  · rw [if_neg h.not_gt, if_neg h.not_ge]
theorem minS_eq (x y : Word) : minS x y = if x.toInt ≤ y.toInt then x else y := by
  simp only [minS, BitVec.slt_eq_decide, decide_eq_true_eq, ← not_lt, ite_not]
theorem maxS_eq (x y : Word) : maxS x y = if x.toInt ≤ y.toInt then y else x := by
  simp only [maxS, BitVec.slt_eq_decide, decide_eq_true_eq]
  exact ite_lt_eq_ite_le fun h => (BitVec.toInt_inj.1 h).symm
theorem minU_eq (x y : Word) : minU x y = if x.toNat ≤ y.toNat then x else y := by
  simp only [minU, BitVec.ult_eq_decide, decide_eq_true_eq, ← not_lt, ite_not]
theorem maxU_eq (x y : Word) : maxU x y = if x.toNat ≤ y.toNat then y else x := by
  simp only [maxU, BitVec.ult_eq_decide, decide_eq_true_eq]
  exact ite_lt_eq_ite_le fun h => (BitVec.toNat_inj.1 h).symm

/-- The upper word of a 128-bit integer is the word of its quotient by 2^64. -/
theorem ofInt_upper (i : Int) : (BitVec.ofInt 128 i).extractLsb' 64 64 = BitVec.ofInt 64 (i / 18446744073709551616) := by
  apply BitVec.eq_of_toNat_eq
  simp only [BitVec.extractLsb'_toNat, BitVec.toNat_ofInt, Nat.shiftRight_eq_div_pow]
  omega
/-- Extending both signed factors to 128 bits loses nothing of their product. -/
theorem mulHigh_eq (x y : Word) : mulHigh x y = (x.signExtend 128 * y.signExtend 128).extractLsb' 64 64 := by
  unfold mulHigh wordOf BitVec.signExtend
  rw [← BitVec.ofInt_mul, ofInt_upper]
theorem mulHighU_eq (x y : Word) : mulHighU x y = (x.setWidth 128 * y.setWidth 128).extractLsb' 64 64 := by
  apply BitVec.eq_of_toNat_eq
  have product : x.toNat * y.toNat < 2 ^ 128 := by
    have : x.toNat * y.toNat < 2 ^ 64 * 2 ^ 64 := Nat.mul_lt_mul'' x.isLt y.isLt
    rwa [← Nat.pow_add] at this
  have hx : (x.setWidth 128).toNat = x.toNat := BitVec.toNat_setWidth_of_le (by decide)
  have hy : (y.setWidth 128).toNat = y.toNat := BitVec.toNat_setWidth_of_le (by decide)
  rw [BitVec.extractLsb'_toNat, BitVec.toNat_mul, hx, hy, Nat.mod_eq_of_lt product, Nat.shiftRight_eq_div_pow]
  rfl

theorem divS_quot (x y : Word) : (divS x y).1 = if y = 0 then BitVec.allOnes 64 else BitVec.sdiv x y := by
  unfold divS
  split
  · rfl
  · apply BitVec.eq_of_toInt_eq
    rw [BitVec.toInt_sdiv, wordOf, BitVec.toInt_ofInt]
theorem divS_rem (x y : Word) : (divS x y).2 = if y = 0 then x else BitVec.srem x y := by
  unfold divS
  split
  · rfl
  · rw [← BitVec.toInt_srem]
    exact BitVec.ofInt_toInt
theorem divU_quot (x y : Word) : (divU x y).1 = if y = 0 then BitVec.allOnes 64 else x / y := by
  unfold divU
  split
  · rfl
  · rw [← BitVec.toNat_udiv, BitVec.ofNat_toNat, BitVec.setWidth_eq]
theorem divU_rem (x y : Word) : (divU x y).2 = if y = 0 then x else x % y := by
  unfold divU
  split
  · rfl
  · rw [← BitVec.toNat_umod, BitVec.ofNat_toNat, BitVec.setWidth_eq]

/-! Immediates (06 Table 06.5) and shifts by them. -/

theorem signExtend_eq_ofInt {n : Nat} (im : BitVec n) : im.signExtend 64 = BitVec.ofInt 64 im.toInt := rfl
/-- A shift immediate of 0 to 63 is its own shift amount. -/
theorem shamt_signExtend {im : BitVec 7} (h : im.toNat < 64) : shamt (im.signExtend 64) = im.toNat := by
  have nonneg : im.msb = false := by simp [BitVec.msb_eq_decide]; omega
  rw [BitVec.signExtend_eq_setWidth_of_msb_false nonneg, shamt, BitVec.toNat_setWidth]
  omega
theorem msb_of_ge_64 {im : BitVec 7} (h : 64 ≤ im.toNat) : im.msb = true := by
  simpa [BitVec.msb_eq_decide] using h

/-! Bit counts (06 R127). -/

/-- Of a number below 2^64 and not 0, the bit that the count of leading zeros points at is its highest. -/
theorem clzNat_spec {x : Nat} (hx : x ≠ 0) (lt : x < 2 ^ 64) :
    clzNat 64 x < 64 ∧ x.testBit (63 - clzNat 64 x) = true ∧ ∀ k, 63 - clzNat 64 x < k → x.testBit k = false := by
  have small : x.log2 < 64 := (Nat.log2_lt hx).2 lt
  have top : 63 - clzNat 64 x = x.log2 := by simp only [clzNat, if_neg hx]; omega
  refine ⟨by simp only [clzNat, if_neg hx]; omega, ?_, fun k hk => ?_⟩
  · rw [top]; exact Nat.testBit_log2 hx
  · rw [top] at hk
    exact Nat.testBit_lt_two_pow ((Nat.log2_lt hx).1 hk)
theorem popNat_eq_countP (n : Nat) : ∀ x, popNat n x = (List.range n).countP (fun k => x.testBit k) := by
  induction n with
  | zero => intro x; rfl
  | succ n ih =>
    intro x
    have rest : (fun k => x.testBit k) ∘ Nat.succ = fun k => (x / 2).testBit k := funext fun k => Nat.testBit_succ x k
    rw [popNat, ih, List.range_succ_eq_map, List.countP_cons, List.countP_map, rest, Nat.testBit_zero, Nat.add_comm]
    rcases Nat.mod_two_eq_zero_or_one x with h | h <;> simp [h]
theorem popcount_eq (x : Word) : popNat 64 x.toNat = (List.range 64).countP (fun k => x.getLsbD k) := by
  rw [popNat_eq_countP]; rfl

/-! Bit fields (06 R128). -/

theorem fieldPos_add_wid_le (y : Word) : fieldPos y + fieldWid y ≤ 64 := by
  unfold fieldWid fieldPos
  omega
/-- The mask of a field has ones at its bits. -/
theorem getLsbD_fieldMask (y : Word) (j : Nat) :
    (fieldMask y).getLsbD j = decide (fieldPos y ≤ j ∧ j < fieldPos y + fieldWid y) := by
  have := fieldPos_add_wid_le y
  rw [fieldMask, BitVec.getLsbD_ofNat, Nat.testBit_mul_two_pow, Nat.testBit_two_pow_sub_one, ← Bool.decide_and,
    ← Bool.decide_and, decide_eq_decide]
  omega
/-- The field of w bits at p of a number. -/
theorem testBit_field (x p w j : Nat) : (x / 2 ^ p % 2 ^ w).testBit j = (decide (j < w) && x.testBit (p + j)) := by
  rw [Nat.testBit_mod_two_pow, Nat.testBit_div_two_pow, Nat.add_comm]
theorem bfx_eq (x y : Word) :
    (x &&& fieldMask y) >>> fieldPos y = BitVec.ofNat 64 (x.toNat / 2 ^ fieldPos y % 2 ^ fieldWid y) := by
  apply BitVec.eq_of_getLsbD_eq
  intro j hj
  simp only [BitVec.getLsbD_ushiftRight, BitVec.getLsbD_and, getLsbD_fieldMask, BitVec.getLsbD_ofNat, testBit_field,
    BitVec.testBit_toNat, hj, decide_true, Bool.true_and]
  rw [Bool.and_comm]
  congr 2
  simp
/-- Replacing the field of w bits at p of a number, bit by bit. -/
theorem testBit_replaceField (x z p w j : Nat) :
    (z - z / 2 ^ p % 2 ^ w * 2 ^ p + x % 2 ^ w * 2 ^ p).testBit j =
      if p ≤ j ∧ j < p + w then x.testBit (j - p) else z.testBit j := by
  have low : z % 2 ^ p < 2 ^ p := Nat.mod_lt _ (Nat.two_pow_pos p)
  have mid : x % 2 ^ w < 2 ^ w := Nat.mod_lt _ (Nat.two_pow_pos w)
  have parts : z = 2 ^ p * (2 ^ w * (z / 2 ^ p / 2 ^ w) + z / 2 ^ p % 2 ^ w) + z % 2 ^ p := by
    rw [Nat.div_add_mod, Nat.div_add_mod]
  have joined : z - z / 2 ^ p % 2 ^ w * 2 ^ p + x % 2 ^ w * 2 ^ p =
      2 ^ p * (2 ^ w * (z / 2 ^ p / 2 ^ w) + x % 2 ^ w) + z % 2 ^ p := by
    rw [Nat.mul_add] at parts ⊢
    rw [Nat.mul_comm (z / 2 ^ p % 2 ^ w), Nat.mul_comm (x % 2 ^ w)]
    omega
  rw [joined, Nat.testBit_two_pow_mul_add _ low]
  split
  · rename_i below
    rw [if_neg (by omega), Nat.testBit_mod_two_pow, decide_eq_true below, Bool.true_and]
  · rw [Nat.testBit_two_pow_mul_add _ mid]
    split
    · rename_i inside
      rw [if_pos (by omega), Nat.testBit_mod_two_pow, decide_eq_true inside, Bool.true_and]
    · rw [if_neg (by omega), Nat.testBit_div_two_pow, Nat.testBit_div_two_pow]
      congr 1
      omega
theorem bfi_eq (x y z : Word) :
    (z &&& ~~~ fieldMask y) ||| ((x <<< fieldPos y) &&& fieldMask y) =
      BitVec.ofNat 64 (z.toNat - z.toNat / 2 ^ fieldPos y % 2 ^ fieldWid y * 2 ^ fieldPos y +
        x.toNat % 2 ^ fieldWid y * 2 ^ fieldPos y) := by
  apply BitVec.eq_of_getLsbD_eq
  intro j hj
  rw [BitVec.getLsbD_ofNat, testBit_replaceField]
  simp only [BitVec.getLsbD_or, BitVec.getLsbD_and, BitVec.getLsbD_not, BitVec.getLsbD_shiftLeft, getLsbD_fieldMask,
    BitVec.testBit_toNat, hj, decide_true, Bool.true_and]
  split
  · rename_i inside
    simp [inside]
  · rename_i outside
    simp [outside]

/-! Compares, moves and crossings (06 R130 to R137). -/

/-- The predicate that a compare names does not depend on what its reads popped. -/
theorem State.takeI_putCond (s : State) (a : RegF) (r : BitVec 1) (p : BitVec 4) (v : Bool) :
    (s.takeI a).2.putCond r p v = (s.takeI a).2.post 2 (.p (s.bank.physPn p.toNat (r.getLsbD 0)) v) := by
  rw [State.putCond, State.takeI_physPn]
theorem shl14_or_eq_ofNat (x : Word) (im : BitVec 14) :
    (x <<< 14) ||| im.setWidth 64 = BitVec.ofNat 64 (x.toNat * 16384 + im.toNat) := by
  have low : im.toNat < 2 ^ 14 := im.isLt
  have high : (x <<< 14).toNat = (x.toNat % 2 ^ 50) <<< 14 := by
    simp only [BitVec.toNat_shiftLeft, Nat.shiftLeft_eq]
    omega
  apply BitVec.eq_of_toNat_eq
  rw [BitVec.toNat_or, high, BitVec.toNat_setWidth_of_le (by decide), ← Nat.shiftLeft_add_eq_or_of_lt low, Nat.shiftLeft_eq,
    BitVec.toNat_ofNat]
  omega
/-- A pair of lanes: the next lane above, zero past the last one. -/
theorem extractLsb'_pair (v : VWord) (n : Nat) : v.extractLsb' (32 * n) 64 = BitVec.append (lane v (n + 1)) (lane v n) := by
  apply BitVec.eq_of_getLsbD_eq
  intro j hj
  rw [show BitVec.append (lane v (n + 1)) (lane v n) = lane v (n + 1) ++ lane v n from rfl]
  simp only [BitVec.getLsbD_append, lane, BitVec.getLsbD_extractLsb', hj, decide_true, Bool.true_and]
  split
  · rename_i low
    rw [decide_eq_true low, Bool.true_and]
  · rename_i high
    rw [decide_eq_true (by omega : j - 32 < 32), Bool.true_and]
    congr 1
    omega
theorem baseSize_pos (n : Nat) : 0 < baseSize n := by
  unfold baseSize
  split
  · decide
  · split <;> decide
theorem baseSize_cast (n : Nat) : (baseSize n : Int) = if n = 0 then 24 else if n = 1 then 16 else 8 := by
  unfold baseSize
  split
  · rfl
  · split <;> rfl
/-- An index base is the remainder of what SETIB adds up (06 R137). -/
theorem emod_baseSize (i : Int) (n : Nat) : (i.emod (baseSize n)).toNat < baseSize n ∧
    ∃ q : Int, i = q * (if n = 0 then 24 else if n = 1 then 16 else 8) + (i.emod (baseSize n)).toNat := by
  have pos : (0 : Int) < baseSize n := Int.natCast_pos.2 (baseSize_pos n)
  have nonneg : 0 ≤ i.emod (baseSize n) := Int.emod_nonneg i pos.ne'
  have small : i.emod (baseSize n) < baseSize n := Int.emod_lt_of_pos i pos
  refine ⟨by omega, i / baseSize n, ?_⟩
  rw [Int.toNat_of_nonneg nonneg, ← baseSize_cast]
  exact (Int.ediv_mul_add_emod i (baseSize n)).symm

/-! Address generators (06 R140 to R142). -/

theorem vget_ofFn {α : Type} {n : Nat} (dflt : α) (f : Fin n → α) {k : Nat} (h : k < n) :
    vget dflt (Vector.ofFn f) k = f ⟨k, h⟩ := by
  simp [vget, h]
theorem vget_eq_getElem {α : Type} {n : Nat} (dflt : α) (v : Vector α n) {k : Nat} (h : k < n) : vget dflt v k = v[k] := by
  simp [vget, h]
theorem vget_halves (w : Word) {k : Nat} (h : k < 4) : vget 0 (halves w) k = w.extractLsb' (16 * k) 16 :=
  vget_ofFn 0 _ h
theorem vget_replicate {α : Type} {n : Nat} (dflt x : α) {k : Nat} (h : k < n) : vget dflt (Vector.replicate n x) k = x := by
  simp [vget, h]
@[simp] theorem State.takeI_ag (s : State) (f : RegF) : (s.takeI f).2.bank.ag = s.bank.ag := by
  obtain ⟨q, h⟩ := s.takeI_bank f; rw [h]

theorem sext_toNat {n : Nat} (x : BitVec (n + 1)) : sext (n + 1) x.toNat = x.toInt := by
  have pow : 2 ^ (n + 1) = 2 * 2 ^ n := by rw [Nat.pow_succ, Nat.mul_comm]
  rw [sext, Nat.mod_eq_of_lt x.isLt, BitVec.toInt_eq_toNat_cond, Nat.add_sub_cancel]
  split
  · rw [if_neg (by omega)]; push_cast; rfl
  · rw [if_pos (by omega)]
/-- Two 16-bit registers joined, as a number. -/
theorem toNat_append_16 (hi lo : BitVec 16) : (BitVec.append hi lo).toNat = lo.toNat + 65536 * hi.toNat := by
  rw [show BitVec.append hi lo = hi ++ lo from rfl, BitVec.toNat_append, ← Nat.shiftLeft_add_eq_or_of_lt lo.isLt,
    Nat.shiftLeft_eq]
  omega
/-- The linear stride is S1:S0, signed (06 R142). -/
theorem Ag.stride_eq (a : Ag) : a.stride = (BitVec.append (vget 0 a.st 1) (vget 0 a.st 0)).toInt := by
  rw [Ag.stride, ← toNat_append_16]
  exact sext_toNat (n := 31) _
/-- An offset written into C1:C0 reads back. -/
theorem off_of_halves {off : Nat} (h : off < 4294967296) :
    (BitVec.ofNat 16 off).toNat + 65536 * (BitVec.ofNat 16 (off / 65536)).toNat = off := by
  simp only [BitVec.toNat_ofNat]
  omega

section Inc
variable (a : Ag) (mask : Nat) (n : Int)

/-- A step writes coordinates only. -/
theorem Ag.inc_frame : (a.inc mask n).tid = a.tid ∧ (a.inc mask n).linear = a.linear ∧ (a.inc mask n).st = a.st := by
  unfold Ag.inc
  split
  · split <;> exact ⟨rfl, rfl, rfl⟩
  · exact ⟨rfl, rfl, rfl⟩

variable {a mask}
/-- Not linear, each coordinate of the mask steps by its own stride. -/
theorem Ag.inc_coordinate (h : a.linear = false) {k : Nat} (hk : k < 4) : vget 0 (a.inc mask n).c k =
    if mask.testBit k then BitVec.ofInt 16 ((vget 0 a.c k).toNat + n * (vget 0 a.st k).toInt) else vget 0 a.c k := by
  simp only [Ag.inc, h, Bool.false_eq_true, if_false]
  rw [vget_ofFn _ _ hk, vget_eq_getElem _ a.c hk, vget_eq_getElem _ a.st hk, Nat.testBit_eq_decide_div_mod_eq,
    sext_toNat (n := 15)]
  simp only [decide_eq_true_eq]
  rfl
/-- Linear and in the mask, the 32-bit offset steps by the linear stride. -/
theorem Ag.inc_offset (h : a.linear = true) (hm : mask.testBit 0 = true) :
    (a.inc mask n).off = ((a.off + n * a.stride) % 4294967296).toNat ∧
      vget 0 (a.inc mask n).c 2 = vget 0 a.c 2 ∧ vget 0 (a.inc mask n).c 3 = vget 0 a.c 3 := by
  have odd : mask % 2 = 1 := by simpa [Nat.testBit_zero] using hm
  simp only [Ag.inc, h, odd, if_true]
  refine ⟨?_, ?_, ?_⟩
  · rw [Ag.off, vget_vset_same _ _ _ (by decide), vget_vset_other _ _ _ (by decide), vget_vset_same _ _ _ (by decide)]
    apply off_of_halves
    have := Int.emod_lt_of_pos ((a.off : Int) + n * a.stride) (show (0 : Int) < 4294967296 by decide)
    change (((a.off : Int) + n * a.stride) % 4294967296).toNat < 4294967296
    omega
  · rw [vget_vset_other _ _ _ (by decide), vget_vset_other _ _ _ (by decide)]
  · rw [vget_vset_other _ _ _ (by decide), vget_vset_other _ _ _ (by decide)]
theorem Ag.inc_unmasked (h : a.linear = true) (hm : mask.testBit 0 = false) : a.inc mask n = a := by
  have even : mask % 2 ≠ 1 := by simpa [Nat.testBit_zero] using hm
  simp only [Ag.inc, h, even, if_true, if_false]

end Inc

/-! Control words (06 R113 to R115). -/

/-- A posted write and a read of an i operand do not see each other: the read is of the state before. -/
theorem State.takeI_post (s : State) (a : RegF) (lat : Nat) (w : RegWrite) (fl : Lane) :
    (s.post lat w fl).takeI a = ((s.takeI a).1, (s.takeI a).2.post lat w fl) := by
  have name : ((s.post lat w fl).fg.bank s.col).physI a = (s.fg.bank s.col).physI a := rfl
  apply Prod.ext
  · rw [State.takeI, State.takeI, State.takeIn_value, State.takeIn_value]
    rfl
  · rw [State.takeI, State.takeI, State.takeIn_state, State.takeIn_state, State.post_col, name]
    split <;> rfl
/-- What JMPR leaves: the operand's popped link register and the target read (06 R113). -/
theorem State.jumpReg_eq (s : State) (a : RegF) : s.jumpReg a =
    { (s.takeI a).2 with ctl := { s.ctl with indir := some ((s.takeI a).1.toNat % 4096) } } := by
  rw [← s.takeI_ctl a]
  rfl
/-- What a loop word makes of its counter, in numbers: none is left, this is the last pass, or another follows (06 R115). -/
theorem countdown_eq {α : Type} (w : Word) (stop : α) (last : Word → α) (again : Word → Nat → α) :
    (if w = 0 then stop else if w - 1 ≠ 0 then again (w - 1) (w - 1).toNat else last (w - 1)) =
      if w.toNat = 0 then stop
      else if w.toNat = 1 then last (BitVec.ofNat 64 (w.toNat - 1))
      else again (BitVec.ofNat 64 (w.toNat - 1)) (w.toNat - 1) := by
  by_cases zero : w = 0
  · simp [zero]
  · have pos : w.toNat ≠ 0 := fun e => zero (BitVec.eq_of_toNat_eq e)
    have value : (w - 1).toNat = w.toNat - 1 := by
      rw [BitVec.toNat_sub_of_le (by rw [BitVec.le_def]; simpa using Nat.one_le_iff_ne_zero.2 pos)]
      rfl
    have word : BitVec.ofNat 64 (w.toNat - 1) = w - 1 := by rw [← value, BitVec.ofNat_toNat, BitVec.setWidth_eq]
    rw [if_neg zero, if_neg pos, word, value]
    by_cases one : w.toNat = 1
    · rw [if_pos one, if_neg]
      exact not_not.2 (BitVec.eq_of_toNat_eq (by rw [value, one]; rfl))
    · rw [if_neg one, if_pos]
      intro e
      rw [e] at value
      have : 0 = w.toNat - 1 := value
      omega

end Sys2Proof.Machine

namespace Sys2Proof.Claims
open Sys2Proof.Machine

/-! The shapes of integer words: a word has its shape's values when its operation has them. -/

/-- A word whose meaning is a one-operand operation with the values of f. -/
theorem Int1.of {c : Guard → RegF → RegF → Instr} {lat : Nat} {e f : Word → Word}
    (shape : ∀ g d a s, exec (c g d a) s = s.alu1 g d a lat e) (value : ∀ x, e x = f x) : Int1 c lat f := by
  intro s g d a h
  rw [← value]
  exact exec_of_when (shape g d a) h rfl
/-- A word whose meaning is a two-operand operation with the values of f. -/
theorem Int2.of {c : Guard → RegF → RegF → RegF → Instr} {lat : Nat} {e f : Word → Word → Word}
    (shape : ∀ g d a b s, exec (c g d a b) s = s.alu2 g d a b lat e) (value : ∀ x y, e x y = f x y) : Int2 c lat f := by
  intro s g d a b h
  rw [← value]
  exact exec_of_when (shape g d a b) h rfl
/-- A word whose meaning is an operation on a, b and its destination with the values of f. -/
theorem Int3.of {c : Guard → RegF → RegF → RegF → Instr} {e f : Word → Word → Word → Word}
    (shape : ∀ g d a b s, exec (c g d a b) s = s.alu3 g d a b 1 e) (value : ∀ x y z, e x y z = f x y z) : Int3 c f := by
  intro s g d a b h
  rw [← value]
  exact exec_of_when (shape g d a b) h rfl
/-- A word whose meaning is an immediate operation with the values of f on the signed immediate. -/
theorem IntI.of {c : Guard → RegF → RegF → BitVec 7 → Instr} {e : Word → Word → Word} {f : Word → Int → Word}
    (shape : ∀ g d a im s, exec (c g d a im) s = s.aluI g d a im e)
    (value : ∀ x (im : BitVec 7), e x (im.signExtend 64) = f x im.toInt) : IntI c f := by
  intro s g d a im h
  rw [← value]
  exact exec_of_when (shape g d a im) h rfl

/-! The statements. -/

/-- Settles O1: every word has the two-operand shape, and its operation the value of its table row. -/
theorem registerOperations : Obligations.RegisterOperations := by
  unfold Obligations.RegisterOperations
  refine ⟨?add, ?sub, ?and, ?or, ?xor, ?shl, ?shr, ?sar, ?min, ?max, ?minu, ?maxu, ?mul, ?mulh, ?mulhu,
    ?div, ?rem, ?divu, ?remu⟩
  case add => exact .of (fun _ _ _ _ _ => rfl) add_eq_ofNat
  case sub => exact .of (fun _ _ _ _ _ => rfl) sub_eq_ofInt
  case and => exact .of (fun _ _ _ _ _ => rfl) (fun _ _ => rfl)
  case or => exact .of (fun _ _ _ _ _ => rfl) (fun _ _ => rfl)
  case xor => exact .of (fun _ _ _ _ _ => rfl) (fun _ _ => rfl)
  case shl => exact .of (fun _ _ _ _ _ => rfl) (fun x y => shl_eq_ofNat x (shamt y))
  case shr => exact .of (fun _ _ _ _ _ => rfl) (fun x y => shr_eq_ofNat x (shamt y))
  case sar => exact .of (fun _ _ _ _ _ => rfl) (fun x y => sar_eq_ofInt x (shamt y))
  case min => exact .of (fun _ _ _ _ _ => rfl) minS_eq
  case max => exact .of (fun _ _ _ _ _ => rfl) maxS_eq
  case minu => exact .of (fun _ _ _ _ _ => rfl) minU_eq
  case maxu => exact .of (fun _ _ _ _ _ => rfl) maxU_eq
  case mul => exact .of (fun _ _ _ _ _ => rfl) mul_eq_ofInt
  case mulh => exact .of (fun _ _ _ _ _ => rfl) mulHigh_eq
  case mulhu => exact .of (fun _ _ _ _ _ => rfl) mulHighU_eq
  case div => exact .of (fun _ _ _ _ _ => rfl) divS_quot
  case rem => exact .of (fun _ _ _ _ _ => rfl) divS_rem
  case divu => exact .of (fun _ _ _ _ _ => rfl) divU_quot
  case remu => exact .of (fun _ _ _ _ _ => rfl) divU_rem

/-- Settles O2: an immediate of 0 to 63 is its shift amount, and one with its sign bit set is reserved. -/
theorem immediateOperations : Obligations.ImmediateOperations := by
  unfold Obligations.ImmediateOperations
  refine ⟨?addi, ?andi, ?ori, ?xori, ?shifts, ?reserved⟩
  case addi =>
    exact .of (fun _ _ _ _ _ => rfl) fun x im => by
      rw [BitVec.ofInt_add, BitVec.ofInt_toInt, signExtend_eq_ofInt]
  case andi => exact .of (fun _ _ _ _ _ => rfl) (fun _ _ => rfl)
  case ori => exact .of (fun _ _ _ _ _ => rfl) (fun _ _ => rfl)
  case xori => exact .of (fun _ _ _ _ _ => rfl) (fun _ _ => rfl)
  case shifts =>
    intro s g d a im h small
    rw [← shl_eq_ofNat, ← shr_eq_ofNat, ← sar_eq_ofInt, ← shamt_signExtend small]
    exact ⟨exec_of_when (fun _ => rfl) h rfl, exec_of_when (fun _ => rfl) h rfl, exec_of_when (fun _ => rfl) h rfl⟩
  case reserved =>
    intro g d a im large
    have refused (x : Bool) : (x && !im.msb) = false := by rw [msb_of_ge_64 large, Bool.not_true, Bool.and_false]
    exact ⟨refused _, refused _, refused _⟩

/-- Settles O3: counts by the highest set bit and by induction on the bits, fields bit by bit through their mask. -/
theorem bitOperations : Obligations.BitOperations := by
  unfold Obligations.BitOperations
  refine ⟨?clz, ?popc, ?bfx, ?bfi, ?sel⟩
  case clz =>
    intro s g d a h
    refine ⟨clzNat 64 (s.takeI a).1.toNat, exec_of_when (fun _ => rfl) h rfl, fun zero => by rw [zero]; rfl,
      fun nonzero => ?_⟩
    have nonzero' : (s.takeI a).1.toNat ≠ 0 := fun zero => nonzero (BitVec.eq_of_toNat_eq zero)
    exact clzNat_spec nonzero' (s.takeI a).1.isLt
  case popc =>
    exact .of (e := fun x => BitVec.ofNat 64 (popNat 64 x.toNat)) (fun _ _ _ _ => rfl)
      (fun x => congrArg (BitVec.ofNat 64) (popcount_eq x))
  case bfx => exact .of (fun _ _ _ _ _ => rfl) bfx_eq
  case bfi => exact .of (fun _ _ _ _ _ => rfl) bfi_eq
  case sel => exact .of (fun _ _ _ _ _ => rfl) (fun _ _ _ => rfl)

/-- Settles O4: a compare posts the condition of the words read; a signed immediate keeps its value when it is extended. -/
theorem comparesAndMoves : Obligations.ComparesAndMoves := by
  unfold Obligations.ComparesAndMoves
  refine ⟨?cmp, ?cmpi, ?loads, ?mov⟩
  case cmp =>
    intro s g r c p a b h
    refine exec_of_when (fun _ => rfl) h ?_
    simp only [State.takeI_putCond, State.takeI_physPn]
    rfl
  case cmpi =>
    intro s g r c p a im h
    refine exec_of_when (fun _ => rfl) h ?_
    have value : (im.signExtend 64).toInt = im.toInt := BitVec.toInt_signExtend_of_le (by decide)
    simp only [State.takeI_putCond, ← value, BitVec.ofInt_toInt]
    rfl
  case loads =>
    intro s g d im h
    refine ⟨exec_of_when (fun _ => rfl) h rfl, exec_of_when (fun _ => rfl) h ?_⟩
    rw [← shl14_or_eq_ofNat]
  case mov => exact .of (e := id) (fun _ _ _ _ => rfl) (fun _ => rfl)

/-- Settles O5: each crossing posts what it read; a lane pair is two lanes, an index base a remainder. -/
theorem crossings : Obligations.Crossings := by
  unfold Obligations.Crossings
  refine ⟨?fromI, ?ldl, ?xmov, ?setib⟩
  case fromI =>
    intro s g d a h
    refine ⟨⟨ofLanes (List.replicate 32 ((s.takeI a).1.setWidth 32)), exec_of_when (fun _ => rfl) h rfl, fun n hn => ?_⟩,
      exec_of_when (fun _ => rfl) h rfl, exec_of_when (fun _ => rfl) h rfl⟩
    rw [lane_ofLanes _ List.length_replicate n hn, List.getElem_replicate]
  case ldl =>
    intro s g d a n h
    refine ⟨exec_of_when (fun _ => rfl) h rfl, exec_of_when (fun _ => rfl) h rfl, ?_⟩
    rw [← extractLsb'_pair]
    exact exec_of_when (fun _ => rfl) h rfl
  case xmov => exact fun s g d a c h => exec_of_when (fun _ => rfl) h rfl
  case setib =>
    intro s g n a im h
    exact ⟨(((s.takeI a).1.toInt + im.toInt).emod (baseSize n.toNat)).toNat, exec_of_when (fun _ => rfl) h rfl,
      emod_baseSize _ _⟩

/-- Settles O6: the generator written is the model's, whose fields the laws of halves and of a step give. -/
theorem addressGenerators : Obligations.AddressGenerators := by
  unfold Obligations.AddressGenerators
  refine ⟨?agset, ?agpos, ?aginc⟩
  case agset =>
    intro s g d a b h
    exact ⟨⟨(s.takeI a).1.setWidth 16, (s.takeI a).1.getLsbD 16, Vector.replicate 4 0, halves ((s.takeI a).2.takeI b).1⟩,
      exec_of_when (fun _ => rfl) h rfl, rfl, rfl, fun k hk => ⟨vget_replicate 0 0 hk, vget_halves _ hk⟩⟩
  case agpos =>
    intro s g d a h
    refine ⟨{ vget Ag.zero s.bank.ag d.toNat with c := halves (s.takeI a).1 }, exec_of_when (fun _ => rfl) h ?_,
      ⟨rfl, rfl, rfl⟩, fun k hk => vget_halves _ hk⟩
    simp only [State.takeI_ag]
  case aginc =>
    intro s g d m n h
    obtain ⟨tid, linear, st⟩ := Ag.inc_frame (vget Ag.zero s.bank.ag d.toNat) m.toNat n.toInt
    refine ⟨(vget Ag.zero s.bank.ag d.toNat).inc m.toNat n.toInt, exec_of_when (fun _ => rfl) h rfl, tid, linear, st,
      fun plain k hk => Ag.inc_coordinate _ plain hk, ?offset, fun lin off => Ag.inc_unmasked _ lin off⟩
    case offset =>
      intro lin on
      rw [← Ag.stride_eq]
      exact Ag.inc_offset _ lin on

/-- Settles O7: transfers by their meanings, register targets by what a read leaves, loop words by their countdown. -/
theorem controlTransfers : Obligations.ControlTransfers := by
  unfold Obligations.ControlTransfers
  refine ⟨?branches, ?call, ?ret, ?registers, ?loops⟩
  case branches => exact fun s g d => ⟨rfl, rfl⟩
  case call => exact fun s g d h => exec_of_when (fun _ => rfl) h rfl
  case ret => exact fun s g h => exec_of_when (fun _ => rfl) h rfl
  case registers =>
    intro s g a h
    refine ⟨exec_of_when (fun _ => rfl) h (s.jumpReg_eq a), ?_⟩
    have callr : exec (.callr g a) s = .next { (s.takeI a).2.post 1 (.ln (BitVec.ofNat 64 ((s.fg.pc + 2) % 4096))) with
        ctl := { s.ctl with indir := some ((s.takeI a).1.toNat % 4096) } } :=
      exec_of_when (fun _ => rfl) h (by rw [State.jumpReg_eq, State.takeI_post]; rfl)
    refine ⟨fun plain => ?_, _, callr, rfl, ?_, rfl⟩
    · have keeps : (s.takeI a).2 = s := by rw [State.takeI, State.takeIn_plain _ _ _ plain]
      rw [callr, keeps]
    · obtain ⟨bs, e, -⟩ := s.takeI_frame a
      rw [e]
      rfl
  case loops =>
    intro s g n h
    refine ⟨fun d => exec_of_when (fun _ => rfl) h ?loop, fun r d => exec_of_when (fun _ => rfl) h ?loopr,
      fun d => exec_of_when (fun _ => rfl) h rfl⟩
    case loop =>
      exact countdown_eq (s.lc n) s (fun w => s.post 1 (.lc n.toNat w))
        (fun w _ => (s.post 1 (.lc n.toNat w)).jump (target s.fg.pc d.toInt))
    case loopr =>
      exact countdown_eq (s.lc n) s (fun w => s.post 1 (.lc n.toNat w))
        (fun w k => ((s.post 1 (.lc n.toNat w)).decideCtl (fun c => { c with rot := some (decide (r.toNat < k)) })).jump
          (target s.fg.pc d.toInt))

/-- Settles O8: each word posts one write; what it reads does not depend on what it pops. -/
theorem predicatesAndLink : Obligations.PredicatesAndLink := by
  unfold Obligations.PredicatesAndLink
  intro s g
  refine ⟨rfl, fun h => ⟨?pset, ?operations, ?getln, ?setln⟩⟩
  case pset => exact fun d v => exec_of_when (fun _ => rfl) h rfl
  case operations =>
    intro d a b
    exact ⟨exec_of_when (fun _ => rfl) h rfl, exec_of_when (fun _ => rfl) h rfl, exec_of_when (fun _ => rfl) h rfl,
      exec_of_when (fun _ => rfl) h rfl, exec_of_when (fun _ => rfl) h rfl⟩
  case getln => exact fun d => exec_of_when (fun _ => rfl) h rfl
  case setln => exact fun a => exec_of_when (fun _ => rfl) h rfl

end Sys2Proof.Claims
end

section
/-!
SUPPORT. The lane words of the F slot (07 R151 to R153, R158 to R166): the shapes that a word's lanes follow from, the order that
FMIN and FMAX choose by, the integer values of Table 07.7 and VDOT4, lanes and pairs of lanes that move, then the statements about
them, each assembled from those laws.
-/
namespace Sys2Proof.Machine

/-! NaN patterns, the order of fp32 values, and the choice of FMIN and FMAX by it (07 R151). -/

/-- A pattern is a NaN when its magnitude is above the largest finite one and is not the infinity's (05 Table 05.1). -/
theorem FFmt.isNan_decode (f : FFmt) (w : Nat) : (f.decode w).isNan = true ↔
    f.maxCode < w % 2 ^ (f.width - 1) ∧ f.inf ≠ some (w % 2 ^ (f.width - 1)) := by
  unfold FFmt.decode
  dsimp only
  split
  next above =>
    split
    next infinite => simp [Fp.isNan, infinite]
    next nan => simp [Fp.isNan, above, nan]
  next below => split <;> simp [Fp.isNan, below]
/-- A compare is unordered when an operand is a NaN. -/
theorem Fp.cmp_eq_none {x y : Fp} : Fp.cmp x y = none ↔ x.isNan = true ∨ y.isNan = true := by
  cases x <;> cases y <;> simp [Fp.cmp, Fp.isNan]
/-- Exchanging the operands of a compare exchanges less and greater. -/
theorem Fp.cmp_swap (x y : Fp) : Fp.cmp y x = (Fp.cmp x y).map Ordering.swap := by
  cases x with
  | nan => cases y <;> rfl
  | inf m =>
    cases y with
    | nan => rfl
    | inf n => cases m <;> cases n <;> rfl
    | fin => cases m <;> rfl
  | fin n1 m1 e1 =>
    cases y with
    | nan => rfl
    | inf n => cases n <;> rfl
    | fin n2 m2 e2 =>
      simp only [Fp.cmp, Option.map_some, min_comm e2 e1]
      rw [Std.OrientedCmp.eq_swap (cmp := compare)]

/-- Of ordered lanes, the first is below the second when its value is, or when it is −0 and the second +0. -/
theorem fless_of_cmp {x y : Lane} {o : Ordering} (h : Fp.cmp (f32 x) (f32 y) = some o) :
    fless x y = (o == .lt || (o == .eq && (x.msb && !y.msb))) := by
  unfold fless
  rw [h]
  cases o <;> simp
theorem fmin_unordered {x y : Lane} (h : Fp.cmp (f32 x) (f32 y) = none) : fmin x y = nan32 := by
  rw [fmin, if_pos (by simpa using Fp.cmp_eq_none.1 h)]
theorem fmax_unordered {x y : Lane} (h : Fp.cmp (f32 x) (f32 y) = none) : fmax x y = nan32 := by
  rw [fmax, if_pos (by simpa using Fp.cmp_eq_none.1 h)]
/-- Two ordered lanes hold no NaN. -/
theorem not_nan_of_cmp {x y : Lane} {o : Ordering} (h : Fp.cmp (f32 x) (f32 y) = some o) :
    ¬ ((f32 x).isNan || (f32 y).isNan) = true := by
  intro nan
  rw [Fp.cmp_eq_none.2 (by simpa using nan)] at h
  cases h
theorem fmin_ordered {x y : Lane} {o : Ordering} (h : Fp.cmp (f32 x) (f32 y) = some o) :
    fmin x y = if o == .gt || (o == .eq && (y.msb && !x.msb)) then y else x := by
  have swapped : Fp.cmp (f32 y) (f32 x) = some o.swap := by rw [Fp.cmp_swap, h]; rfl
  rw [fmin, if_neg (not_nan_of_cmp h), fless_of_cmp swapped]
  cases o <;> rfl
theorem fmax_ordered {x y : Lane} {o : Ordering} (h : Fp.cmp (f32 x) (f32 y) = some o) :
    fmax x y = if o == .lt || (o == .eq && (x.msb && !y.msb)) then y else x := by
  rw [fmax, if_neg (not_nan_of_cmp h), fless_of_cmp h]

/-! Values of the integer lane operations (07 Table 07.7), at every width. -/

theorem bv_sub_eq_ofInt {w : Nat} (x y : BitVec w) : x - y = BitVec.ofInt w (x.toInt - y.toInt) := by
  rw [sub_eq_add_neg x.toInt, BitVec.ofInt_add, BitVec.ofInt_neg, BitVec.ofInt_toInt, BitVec.ofInt_toInt, BitVec.sub_eq_add_neg]
theorem bv_mul_eq_ofInt {w : Nat} (x y : BitVec w) : x * y = BitVec.ofInt w (x.toInt * y.toInt) := by
  rw [BitVec.ofInt_mul, BitVec.ofInt_toInt, BitVec.ofInt_toInt]
theorem bv_shiftLeft_eq_ofNat {w : Nat} (x : BitVec w) (n : Nat) : x <<< n = BitVec.ofNat w (x.toNat * 2 ^ n) := by
  apply BitVec.eq_of_toNat_eq
  rw [BitVec.toNat_shiftLeft, Nat.shiftLeft_eq, BitVec.toNat_ofNat]
theorem bv_ushiftRight_eq_ofNat {w : Nat} (x : BitVec w) (n : Nat) : x >>> n = BitVec.ofNat w (x.toNat / 2 ^ n) := by
  rw [← Nat.shiftRight_eq_div_pow, ← BitVec.toNat_ushiftRight, BitVec.ofNat_toNat, BitVec.setWidth_eq]
theorem bv_sshiftRight_eq_ofInt {w : Nat} (x : BitVec w) (n : Nat) : x.sshiftRight n = BitVec.ofInt w (x.toInt / 2 ^ n) := by
  rw [BitVec.sshiftRight, Int.shiftRight_eq_div_pow]
  rfl
/-- The lesser of two signed words: the model asks whether the second is strictly below, the table whether the first is not above. -/
theorem ite_slt_min {w : Nat} (x y : BitVec w) : (if y.slt x then y else x) = if x.toInt ≤ y.toInt then x else y := by
  simp only [BitVec.slt_eq_decide, decide_eq_true_eq, ← not_lt, ite_not]
theorem ite_slt_max {w : Nat} (x y : BitVec w) : (if x.slt y then y else x) = if x.toInt ≤ y.toInt then y else x := by
  simp only [BitVec.slt_eq_decide, decide_eq_true_eq]
  exact ite_lt_eq_ite_le fun h => (BitVec.toInt_inj.1 h).symm
/-- The upper lane of a 64-bit integer is the lane of its quotient by 2^32. -/
theorem ofInt_upperLane (i : Int) : (BitVec.ofInt 64 i).extractLsb' 32 32 = BitVec.ofInt 32 (i / 4294967296) := by
  apply BitVec.eq_of_toNat_eq
  simp only [BitVec.extractLsb'_toNat, BitVec.toNat_ofInt, Nat.shiftRight_eq_div_pow]
  omega
/-- Extending both signed lanes to 64 bits loses nothing of their product. -/
theorem laneMulHigh_eq (x y : Lane) : BitVec.ofInt 32 (x.toInt * y.toInt / 4294967296) =
    (x.signExtend 64 * y.signExtend 64).extractLsb' 32 32 := by
  unfold BitVec.signExtend
  rw [← BitVec.ofInt_mul, ofInt_upperLane]

/-- Adding words one after another adds their integers, modulo the width. -/
theorem foldl_add_eq_ofInt {α : Type} {w : Nat} (f : α → BitVec w) (i : α → Int) (value : ∀ j, f j = BitVec.ofInt w (i j))
    (l : List α) : ∀ z : BitVec w, l.foldl (fun acc j => acc + f j) z = BitVec.ofInt w (z.toInt + (l.map i).sum) := by
  induction l with
  | nil => intro z; simp
  | cons j r ih =>
    intro z
    rw [List.foldl_cons, ih, List.map_cons, List.sum_cons, BitVec.ofInt_add, BitVec.ofInt_add, BitVec.ofInt_add,
      BitVec.ofInt_toInt, BitVec.ofInt_toInt, value, BitVec.add_assoc]
/-- VDOT4 of a lane: the four signed byte products and the old lane, modulo 2^32 (07 R160). -/
theorem dot4Lane_eq (x y z : Lane) : dot4Lane x y z = BitVec.ofInt 32 (z.toInt + ((List.range 4).map (fun j =>
    (x.extractLsb' (8 * j) 8).toInt * (y.extractLsb' (8 * j) 8).toInt)).sum) := by
  apply foldl_add_eq_ofInt
  intro j
  rw [BitVec.ofInt_mul]
  rfl

/-! Lanes and pairs of lanes that a vector is made of (07 R148, R162). -/

/-- Lane n of a vector given lane by lane. -/
theorem lane_ofLanes_range (f : Nat → Lane) {n : Nat} (h : n < 32) : lane (ofLanes ((List.range 32).map f)) n = f n := by
  rw [lane_ofLanes _ (by simp) n h, List.getElem_map, List.getElem_range]
theorem lane_ofLanes_replicate (x : Lane) {n : Nat} (h : n < 32) : lane (ofLanes (List.replicate 32 x)) n = x := by
  rw [lane_ofLanes _ List.length_replicate n h, List.getElem_replicate]

theorem digitsNat_lt (w : Nat) (l : List Nat) : digitsNat w l < 2 ^ (w * l.length) := by
  induction l with
  | nil => simp [digitsNat]
  | cons x r ih =>
    have digit : x % 2 ^ w < 2 ^ w := Nat.mod_lt _ (Nat.two_pow_pos w)
    calc x % 2 ^ w + 2 ^ w * digitsNat w r
        < 2 ^ w * (digitsNat w r + 1) := by rw [Nat.mul_add, Nat.mul_one]; omega
      _ ≤ 2 ^ w * 2 ^ (w * r.length) := Nat.mul_le_mul_left _ ih
      _ = 2 ^ (w * (r.length + 1)) := by rw [Nat.mul_add, Nat.mul_one, Nat.pow_add, Nat.mul_comm]
theorem digitsNat_digit (w : Nat) (l : List Nat) : ∀ n (h : n < l.length), digitsNat w l / 2 ^ (w * n) % 2 ^ w = l[n] % 2 ^ w := by
  induction l with
  | nil => intro n h; cases h
  | cons x r ih =>
    intro n h
    have pos : 0 < 2 ^ w := Nat.two_pow_pos w
    cases n with
    | zero => rw [digitsNat, Nat.mul_zero, Nat.pow_zero, Nat.div_one, Nat.add_mul_mod_self_left, Nat.mod_mod]; rfl
    | succ n =>
      rw [digitsNat, Nat.mul_add, Nat.mul_one, Nat.add_comm (w * n), Nat.pow_add, ← Nat.div_div_eq_div_mul,
        Nat.add_mul_div_left _ _ pos, Nat.div_eq_of_lt (Nat.mod_lt x pos), Nat.zero_add]
      exact ih n (Nat.lt_of_succ_lt_succ h)
/-- Digit n of the digits that fit into a word. -/
theorem extractLsb'_digitsNat {N w : Nat} {l : List Nat} (fits : w * l.length ≤ N) {n : Nat} (h : n < l.length) :
    (BitVec.ofNat N (digitsNat w l)).extractLsb' (w * n) w = BitVec.ofNat w l[n] := by
  have small : digitsNat w l < 2 ^ N := (digitsNat_lt w l).trans_le (Nat.pow_le_pow_right Nat.two_pos fits)
  apply BitVec.eq_of_toNat_eq
  rw [BitVec.extractLsb'_toNat, BitVec.toNat_ofNat, Nat.mod_eq_of_lt small, Nat.shiftRight_eq_div_pow, digitsNat_digit w l n h,
    BitVec.toNat_ofNat]
/-- Element n of a vector made from elements of w bits that fit into it. -/
theorem extractLsb'_ofElems {w : Nat} {l : List Nat} (fits : w * l.length ≤ 1024) {n : Nat} (h : n < l.length) :
    (ofElems w l).extractLsb' (w * n) w = BitVec.ofNat w l[n] :=
  extractLsb'_digitsNat fits h
/-- A lane is the lower or the upper half of its pair. -/
theorem lane_eq_half (v : VWord) (n : Nat) : lane v n = (v.extractLsb' (64 * (n / 2)) 64).extractLsb' (32 * (n % 2)) 32 := by
  apply BitVec.eq_of_getLsbD_eq
  intro j hj
  simp only [lane, BitVec.getLsbD_extractLsb', hj, decide_true, Bool.true_and]
  rw [decide_eq_true (by omega : 32 * (n % 2) + j < 64), Bool.true_and]
  congr 1
  omega
/-- Every pair of lanes takes pair k: an even lane its lower, an odd lane its upper half. -/
theorem lane_ofElems_replicate (v : VWord) (k : Nat) {n : Nat} (h : n < 32) :
    lane (ofElems 64 (List.replicate 16 (v.toNat / 2 ^ (64 * k) % 2 ^ 64))) n = lane v (2 * k + n % 2) := by
  have pair : BitVec.ofNat 64 (v.toNat / 2 ^ (64 * k) % 2 ^ 64) = v.extractLsb' (64 * k) 64 := by
    apply BitVec.eq_of_toNat_eq
    rw [BitVec.toNat_ofNat, Nat.mod_mod, BitVec.extractLsb'_toNat, Nat.shiftRight_eq_div_pow]
  have here : n / 2 < (List.replicate 16 (v.toNat / 2 ^ (64 * k) % 2 ^ 64)).length := by rw [List.length_replicate]; omega
  have half : (2 * k + n % 2) / 2 = k := by omega
  have side : (2 * k + n % 2) % 2 = n % 2 := by omega
  rw [lane_eq_half, extractLsb'_ofElems (by rw [List.length_replicate]) here, List.getElem_replicate, pair,
    lane_eq_half v, half, side]

end Sys2Proof.Machine

namespace Sys2Proof.Claims
open Sys2Proof.Machine

/-- A lane holds a NaN when its magnitude is above the infinity's (05 Table 05.1). -/
theorem isNan_f32 (x : Lane) : (f32 x).isNan = true ↔ nanLane x := by
  rw [f32, FFmt.isNan_decode]
  change 0x7F7FFFFF < x.toNat % 2 ^ 31 ∧ some 0x7F800000 ≠ some (x.toNat % 2 ^ 31) ↔ nanLane x
  rw [Ne, Option.some.injEq]
  omega
theorem signOp_eq (f : Lane → Lane) (x : Lane) : signOp f x = if nanLane x then nan32 else f x := by
  simp only [signOp, isNan_f32]

/-! The shapes of vector words: a word's lanes have its shape's values when its lane operation has them. -/

/-- A word whose meaning is a one-operand lane operation with the values of f. -/
theorem Lanes1.of {c : Guard → RegF → RegF → Instr} {lat : Nat} {e f : Lane → Lane}
    (shape : ∀ g d a s, exec (c g d a) s = s.vec1 g d a lat (map1 e)) (value : ∀ x, e x = f x) : Lanes1 c lat f := by
  intro s g d a h
  exact ⟨map1 e (vAt s a), exec_of_when (shape g d a) h rfl, fun n hn => by rw [lane_map1 e _ hn, value]⟩
/-- A word whose meaning is a two-operand lane operation with the values of f. -/
theorem Lanes2.of {c : Guard → RegF → RegF → RegF → Instr} {lat : Nat} {e f : Lane → Lane → Lane}
    (shape : ∀ g d a b s, exec (c g d a b) s = s.vec2 g d a b lat (map2 e)) (value : ∀ x y, e x y = f x y) :
    Lanes2 c lat f := by
  intro s g d a b h
  exact ⟨map2 e (vAt s a) (vAt s b), exec_of_when (shape g d a b) h rfl, fun n hn => by rw [lane_map2 e _ _ hn, value]⟩

/-! The statements. -/

/-- Settles O12: a sign operation passes a lane that is no NaN, and FMIN and FMAX choose by the order of the values. -/
theorem floatSelection : Obligations.FloatSelection := by
  unfold Obligations.FloatSelection
  refine ⟨?fabs, ?fneg, ?fcps, ?fmin, ?fmax⟩
  case fabs => exact .of (fun _ _ _ _ => rfl) (fun x => signOp_eq _ x)
  case fneg => exact .of (fun _ _ _ _ => rfl) (fun x => signOp_eq _ x)
  case fcps => exact .of (fun _ _ _ _ _ => rfl) (fun x _ => signOp_eq _ x)
  case fmin =>
    refine .of (e := fmin) (fun _ _ _ _ _ => rfl) fun x y => ?_
    split
    next unordered => exact fmin_unordered unordered
    next lt => exact fmin_ordered lt
    next eq => exact fmin_ordered eq
    next gt => exact fmin_ordered gt
  case fmax =>
    refine .of (e := fmax) (fun _ _ _ _ _ => rfl) fun x y => ?_
    split
    next unordered => exact fmax_unordered unordered
    next lt => exact fmax_ordered lt
    next eq => exact fmax_ordered eq
    next gt => exact fmax_ordered gt

/-- Settles O17: every word has the lane shape, and its operation the value of its table row. -/
theorem integerLanes : Obligations.IntegerLanes := by
  unfold Obligations.IntegerLanes
  refine ⟨?vadd, ?vsub, ?vmul, ?vmulh, ?vand, ?vor, ?vxor, ?vshl, ?vshr, ?vsar, ?vmin, ?vmax, ?vdot4⟩
  case vadd => exact .of (fun _ _ _ _ _ => rfl) BitVec.add_def
  case vsub => exact .of (fun _ _ _ _ _ => rfl) bv_sub_eq_ofInt
  case vmul => exact .of (fun _ _ _ _ _ => rfl) bv_mul_eq_ofInt
  case vmulh => exact .of (fun _ _ _ _ _ => rfl) laneMulHigh_eq
  case vand => exact .of (fun _ _ _ _ _ => rfl) (fun _ _ => rfl)
  case vor => exact .of (fun _ _ _ _ _ => rfl) (fun _ _ => rfl)
  case vxor => exact .of (fun _ _ _ _ _ => rfl) (fun _ _ => rfl)
  case vshl => exact .of (fun _ _ _ _ _ => rfl) (fun x y => bv_shiftLeft_eq_ofNat x (lshamt y))
  case vshr => exact .of (fun _ _ _ _ _ => rfl) (fun x y => bv_ushiftRight_eq_ofNat x (lshamt y))
  case vsar => exact .of (fun _ _ _ _ _ => rfl) (fun x y => bv_sshiftRight_eq_ofInt x (lshamt y))
  case vmin => exact .of (fun _ _ _ _ _ => rfl) ite_slt_min
  case vmax => exact .of (fun _ _ _ _ _ => rfl) ite_slt_max
  case vdot4 =>
    intro s g d a b h
    exact ⟨map3 dot4Lane (vAt s a) (vAt s b) (vAt s d), exec_of_when (fun _ => rfl) h rfl,
      fun n hn => by rw [lane_map3 _ _ _ _ hn, dot4Lane_eq]⟩

/-- Settles O18: each vector is made lane by lane, or pair by pair, from the lanes that its entry names. -/
theorem laneMovement : Obligations.LaneMovement := by
  unfold Obligations.LaneMovement
  refine ⟨?vsel, ?vperm, ?vbcast, ?viota, ?moves⟩
  case vsel =>
    intro s g fl d a b k h
    exact ⟨selLanes (s.bank.k k.toNat) (v4At s fl a) (v4At s fl b), exec_of_when (fun _ => rfl) h rfl,
      fun n hn => lane_ofLanes_range _ hn⟩
  case vperm =>
    intro s g d a b h
    exact ⟨map1 (fun k => lane (vAt s a) (lshamt k)) (vAt s b), exec_of_when (fun _ => rfl) h rfl,
      fun n hn => lane_map1 _ _ hn⟩
  case vbcast =>
    intro s g d a m h
    exact ⟨⟨_, exec_of_when (fun _ => rfl) h rfl, fun n hn => lane_ofLanes_replicate _ hn⟩,
      ⟨_, exec_of_when (fun _ => rfl) h rfl, fun n hn => lane_ofElems_replicate _ _ hn⟩⟩
  case viota =>
    intro s g d h
    exact ⟨⟨_, exec_of_when (fun _ => rfl) h rfl, fun n hn => lane_ofLanes_range _ hn⟩,
      ⟨_, exec_of_when (fun _ => rfl) h rfl, fun n hn => lane_ofLanes_range _ hn⟩⟩
  case moves =>
    intro s g d a h
    refine ⟨exec_of_when (fun _ => rfl) h rfl, exec_of_when (fun _ => rfl) h rfl,
      fun c => exec_of_when (fun _ => rfl) h rfl, fun m => ⟨exec_of_when (fun _ => rfl) h rfl,
        exec_of_when (fun _ => rfl) h rfl, ?_⟩⟩
    rw [← extractLsb'_pair]
    exact exec_of_when (fun _ => rfl) h rfl

end Sys2Proof.Claims
end
